-- ==== Sys2Proof/Word.lean ====
section
/-! DEFINITION. The word types of the K4 (spec R5): a byte is 8 bits, a half 16, a word 32, a dword 64. -/

namespace Sys2Proof

/-- A byte of memory (R5). -/
abbrev Byte := BitVec 8

/-- A dword, the width of element arithmetic (R5, R108). -/
abbrev Dword := BitVec 64

/-- An instruction address: 55 bits, wrapping modulo 2^55 (R124). -/
abbrev Addr := BitVec 55

end Sys2Proof
end

