-- ==== Sys2Proof/Syntax.lean ====
section
/-! DEFINITION. The steps of the K4: one constructor of Instr for each row of spec/opcode_table.json. Element instructions
(formats of R62), engine command words (R78, R79), and the events of the ordering model and the chapters after it. Operands
are the fields the encodings give; an event's operands name which of several pending acts takes place, or carry what the
outside world sends. -/

namespace Sys2Proof

/-- A 5-bit register field: 0 to 27 name w0 to w27, 28 to 31 the mesh ports xn, xe, xs, xw (R9). -/
abbrev Reg := BitVec 5

/-- The floating formats of the FPU group, in the order of sh (R67). -/
inductive FpFmt where
  | fp32 | fp64 | bf16
  deriving DecidableEq, Repr

/-- The format codes 0 to 14 of R75, in order. -/
inductive Fmt where
  | fp64 | fp32 | fp16 | bf16 | e4m3 | e5m2 | int8 | int16 | int32 | int64 | uint8 | uint16 | uint32 | tern2 | cfx64
  deriving DecidableEq, Repr

/-- The source types of FCVT, in the order of sh (R68). -/
inductive CvtSrc where
  | fp32 | fp64 | bf16 | int32 | int64 | uint32
  deriving DecidableEq, Repr

/-- The uses of AMO, in the order of the use field (R70, R121). -/
inductive AmoUse where
  | spec | unp | comm | nord | quant
  deriving DecidableEq, Repr

/-- The common header of a command word (R78): queue priority; the counter and threshold to wait for, when WAITEN is set;
the counter and increment to signal, when SIGEN is set; the completion channel, when DONE is set. -/
structure CmdHdr where
  prio : BitVec 3
  wait : Option (BitVec 8 × BitVec 32)
  sig  : Option (BitVec 8 × BitVec 8)
  done : Option (BitVec 6)
  deriving DecidableEq, Repr

/-- An engine queue: the engine number of R79, and which unit of that kind (a cluster for matrix and copy, a C-die for
backfill, an I-die for reconcile and router; R157). -/
structure QueueId where
  eng : Nat
  idx : Nat
  deriving DecidableEq, Repr

/-- A finished, uncommitted run of a system launch in a horizon report: its key (R273), whether it is serial, the lines that it has read
and those that it writes, by device and line number there, the bytes that it writes to other members' memory, by device and address
there, and the least timestamp of its outbox (R275, R276, R353; DESIGN CHOICE, log 53: the spec names no packet that carries them). -/
structure SysRun where
  ts     : Nat
  el     : Nat
  num    : Nat
  serial : Bool
  reads  : List (Nat × Nat)
  lines  : List (Nat × Nat)
  writes : List (Nat × Nat × BitVec 8)
  lo     : Nat
  deriving DecidableEq, Repr

/-- What a member of a system launch holds of it at a cut: L_O (R353), and of log 53: whether a serial run is unfinished or admitted, the
least key of its unfinished runs and its events that await serial admission, whether that key is such an event's, the lines of the partial
COMMITs of this edge, and the finished runs. -/
structure SysPart where
  lo    : Dword
  ser   : Bool
  low   : Option (Nat × Nat × Nat)
  wait  : Bool
  parts : List (Nat × Nat)
  runs  : List SysRun
  deriving DecidableEq, Repr

/-- What a fabric packet for this device carries (R340, R344, R350, R355). -/
inductive FabBody where
  /-- a message for a channel of an element (R144) -/
  | msg (dest : BitVec 27) (chan : BitVec 6) (payload : List Dword) (sender ts : Dword) (lid : BitVec 32)
  /-- a child node's contribution to a reduction (R255): value, arrived mask, values combined, PARTIAL and NANSEEN -/
  | contrib (group : BitVec 8) (seq : BitVec 32) (value arr : Dword) (count : BitVec 32) (partialF nanF : Bool)
  /-- the parent's result for a reduction (R255) -/
  | result (group : BitVec 8) (seq : BitVec 32) (value arr : Dword) (count : BitVec 32) (partialF nanF : Bool)
  /-- a reply of R253 to a child's contribution, LATE among them, that passes down (R255) -/
  | reply (group : BitVec 8) (seq : BitVec 32) (code : BitVec 8)
  /-- a request for a chunk (R259, R262; log 22): kind 0 for one leaf's, 1 for the combined one, 2 for every leaf's -/
  | chunkReq (group : BitVec 8) (seq : BitVec 32) (kind : BitVec 2) (leaf : BitVec 6) (c : BitVec 16)
  /-- a chunk of a bulk collective, from a leaf or combined (R259, R262): leaf, chunk, bytes -/
  | chunk (group : BitVec 8) (seq : BitVec 32) (comb : Bool) (leaf : BitVec 6) (c : BitVec 16) (bytes : List Byte)
  /-- nothing more comes for a request; the leaves that are missing (R259, R260, R262, R354; log 22) -/
  | chunkEnd (group : BitVec 8) (seq : BitVec 32) (kind : BitVec 2) (leaf : BitVec 6) (c : BitVec 16) (miss : Dword)
  /-- a CF operation of another device's element: its sub-function of CFLOW, its issuer, its block, its terms where they can be
  read, and the issuer's captured pages: address, bytes, codec (R220, R226, R228) -/
  | cfop (op : Nat) (issuer : BitVec 27) (mode : BitVec 2) (block : List Dword) (terms : Option (List (BitVec 32)))
      (pages : List (Nat × Nat × Nat)) (ts : Dword) (lid : BitVec 32)
  /-- bytes that another device writes to this one's memory, with the launch of the COMMIT that wrote them, 0 for a confluence bank,
  an engine or a partial write of hardware (R228, R280, R350) -/
  | write (pa : Nat) (bytes : List Byte) (lid : BitVec 32)
  /-- an immediate atomic on another device's memory: the aop code of R70, its use, its operand and its CAS comparand (R121, R350) -/
  | atomic (pa aop : Nat) (use : AmoUse) (v cmp : Dword) (from' : BitVec 16)
  /-- the marker flit of a system edge (R344, R352) -/
  | marker (flit : BitVec 512)
  /-- the response to a remote access, none for a refusal (R350) -/
  | answer (data : Option (List Byte))
  /-- the answer to a fold request: 0 with the cells, 1 NOTREADY, 2 unequal seeds (R355) -/
  | folded (code : Nat) (cells : List (BitVec 128))
  /-- a fold request for a reconcile engine: record, epoch, B, seeds (R355) -/
  | fold (idie : Nat) (rec : Dword) (epoch : BitVec 32) (b : BitVec 5) (seeds : List Dword)
  /-- a horizon report (R353): SLID, the edge, L, the device that sends it, and L_O with what its finished runs hold (log 53) -/
  | horizon (slid : BitVec 32) (j : Nat) (from' : BitVec 16) (l : Dword) (part : SysPart)
  /-- anything else, by its length in dwords: it is only forwarded or dropped -/
  | other (n : Nat)
  deriving DecidableEq, Repr

/-- A packet on a fabric port: the destination device number and what it carries (R347). -/
structure FabPkt where
  dev  : BitVec 16
  body : FabBody
  deriving DecidableEq, Repr

/-- Where something of another device comes from: the fabric port it came by, and the device. -/
structure Peer where
  port : Nat
  dev  : BitVec 16
  deriving DecidableEq, Repr

/-- A flit as a link's receiver finds it (R344): the sequence number that it expects, and the 64 bytes as they came. -/
structure SeenFlit where
  seq  : BitVec 12
  bits : BitVec 512
  deriving DecidableEq, Repr

/-- What a remote device asks of a home of this package (R350). -/
inductive RemoteOp where
  | read (n : Nat)
  /-- a write, with the launch of the COMMIT it belongs to, 0 for any other (R280) -/
  | write (bytes : List Byte) (lid : BitVec 32)
  /-- an immediate atomic: the aop code of R70, its use, its operand and its CAS comparand (R121) -/
  | atomic (aop : Nat) (use : AmoUse) (v cmp : Dword)
  deriving DecidableEq, Repr

/-- A link of the package: a memory link, a CXL port or a fabric port (R295, R296, R343). -/
inductive LinkId where
  | mem (n : Nat) | cxl (n : Nat) | fab (n : Nat)
  deriving DecidableEq, Repr

/-- A word of SRAM or memory that gives an error (R314): a local-store dword of an element; a physical 64-bit word; a word of operand memory or
of the accumulator store of a cluster; a TLB entry of an element, or of a cluster's engines; an entry of an engine queue; an element's
write buffer, read set or outbox, or its undo log, in a run k: 0 the running one, 1 the interrupted one, 2 + i the i-th finished one; an
entry of its handler table or inbound queue; a lane of a CF object, or the object's state. -/
inductive ScrubAt where
  | ls (el : Nat) (dw : Nat) | phys (word : Nat) | opm (cl word : Nat) | acc (cl word : Nat)
  | elTlb (el k : Nat) | clTlb (cl k : Nat) | queue (q : QueueId) (k : Nat)
  | wbRsOb (el k : Nat) | undo (el k : Nat) (lost : List Nat) | chan (el ch : Nat) | inq (el k : Nat) | iq (el k : Nat)
  | lane (die : Nat) (obj : Nat) (k : Nat)
  | cfObj (die : Nat) (obj : Nat)
  deriving DecidableEq, Repr

/-- A boot image with its signature, r then s (R381). -/
structure Image where
  bytes : List (BitVec 8)
  sig   : BitVec 512
  deriving DecidableEq, Repr

/-- What the boot chain and management software find (R360, R381, R383, R384): the images in flash; the ports that have trained when stage 3
begins; and the resources that self-test finds. -/
structure BootReport where
  /-- stage 1, copy A and copy B; stage 2 -/
  fwA     : Image
  fwB     : Image
  cfgImg  : Image
  /-- fabric ports that have come up when stage 3 begins -/
  trained : List Nat
  /-- the stage 3 image, where flash holds it -/
  supImg  : Option Image
  /-- bank and its failing rows (R316) -/
  fails   : List (Nat × Nat)
  deadEl  : List Nat
  /-- element, usable local-store banks -/
  lsBanks : List (Nat × Nat)
  /-- cluster, usable scratchpad banks -/
  spBanks : List (Nat × Nat)
  /-- cluster, usable accumulator rows; none of them when the engine is not usable -/
  meRows  : List (Nat × Nat)
  /-- the memory modules are of the large size: 12 TiB of near memory in place of 6 -/
  nearBig : Bool
  /-- CXL port, populated bytes -/
  farCap  : List (Nat × Nat)
  deriving DecidableEq, Repr

/-- The steps of the machine, one constructor for each row of spec/opcode_table.json. -/
inductive Instr where
  /-- ADD (R109) -/
  | add (d a b : Reg)
  /-- SUB (R109) -/
  | sub (d a b : Reg)
  /-- AND (R109) -/
  | and (d a b : Reg)
  /-- OR (R109) -/
  | or (d a b : Reg)
  /-- XOR (R109) -/
  | xor (d a b : Reg)
  /-- ANDN (R109) -/
  | andn (d a b : Reg)
  /-- SLL (R109) -/
  | sll (d a b : Reg)
  /-- SRL (R109) -/
  | srl (d a b : Reg)
  /-- SRA (R109) -/
  | sra (d a b : Reg)
  /-- SLT (R109) -/
  | slt (d a b : Reg)
  /-- SLTU (R109) -/
  | sltu (d a b : Reg)
  /-- MIN (R109) -/
  | min (d a b : Reg)
  /-- MAX (R109) -/
  | max (d a b : Reg)
  /-- MINU (R109) -/
  | minu (d a b : Reg)
  /-- MAXU (R109) -/
  | maxu (d a b : Reg)
  /-- MUL (R109) -/
  | mul (d a b : Reg)
  /-- MULH (R109) -/
  | mulh (d a b : Reg)
  /-- MULHU (R109) -/
  | mulhu (d a b : Reg)
  /-- DIV (R109) -/
  | div (d a b : Reg)
  /-- DIVU (R109) -/
  | divu (d a b : Reg)
  /-- REM (R109) -/
  | rem (d a b : Reg)
  /-- REMU (R109) -/
  | remu (d a b : Reg)
  /-- CLZ (R109) -/
  | clz (d a : Reg)
  /-- CTZ (R109) -/
  | ctz (d a : Reg)
  /-- POPC (R109) -/
  | popc (d a : Reg)
  /-- LEA (R109) -/
  | lea (d a b : Reg) (sh : BitVec 5)
  /-- CMOVZ (R109, R111) -/
  | cmovz (d a b : Reg)
  /-- CMOVNZ (R109, R111) -/
  | cmovnz (d a b : Reg)
  /-- EXTS (R109) -/
  | exts (d a : Reg) (sh : BitVec 5)
  /-- EXTZ (R109) -/
  | extz (d a : Reg) (sh : BitVec 5)
  /-- ADDI (R112) -/
  | addi (d a : Reg) (imm : BitVec 16)
  /-- ANDI (R112) -/
  | andi (d a : Reg) (imm : BitVec 16)
  /-- ORI (R112) -/
  | ori (d a : Reg) (imm : BitVec 16)
  /-- XORI (R112) -/
  | xori (d a : Reg) (imm : BitVec 16)
  /-- SLTI (R112) -/
  | slti (d a : Reg) (imm : BitVec 16)
  /-- SLTIU (R112) -/
  | sltiu (d a : Reg) (imm : BitVec 16)
  /-- LUI (R112) -/
  | lui (d : Reg) (imm : BitVec 16)
  /-- SLLI (R112, SHI) -/
  | slli (d a : Reg) (amt : BitVec 6)
  /-- SRLI (R112, SHI) -/
  | srli (d a : Reg) (amt : BitVec 6)
  /-- SRAI (R112, SHI) -/
  | srai (d a : Reg) (amt : BitVec 6)
  /-- ORIH (R112) -/
  | orih (d a : Reg) (imm : BitVec 16)
  /-- ORIT (R112) -/
  | orit (d a : Reg) (imm : BitVec 16)
  /-- FADD (R114) -/
  | fadd (d a b : Reg) (f : FpFmt)
  /-- FSUB (R114) -/
  | fsub (d a b : Reg) (f : FpFmt)
  /-- FMUL (R114) -/
  | fmul (d a b : Reg) (f : FpFmt)
  /-- FFMA (R114) -/
  | ffma (d a b : Reg) (f : FpFmt)
  /-- FDIV (R114) -/
  | fdiv (d a b : Reg) (f : FpFmt)
  /-- FSQRT (R114) -/
  | fsqrt (d a : Reg) (f : FpFmt)
  /-- FMIN (R114) -/
  | fmin (d a b : Reg) (f : FpFmt)
  /-- FMAX (R114) -/
  | fmax (d a b : Reg) (f : FpFmt)
  /-- FCMPEQ (R114) -/
  | fcmpeq (d a b : Reg) (f : FpFmt)
  /-- FCMPLT (R114) -/
  | fcmplt (d a b : Reg) (f : FpFmt)
  /-- FCMPLE (R114) -/
  | fcmple (d a b : Reg) (f : FpFmt)
  /-- FCVT (R116) -/
  | fcvt (d a : Reg) (src : CvtSrc) (dst : Fmt) (sat : Bool)
  /-- FCLASS (R114, R115) -/
  | fclass (d a : Reg) (f : FpFmt)
  /-- FNEG (R114, R115) -/
  | fneg (d a : Reg) (f : FpFmt)
  /-- FABS (R114, R115) -/
  | fabs (d a : Reg) (f : FpFmt)
  /-- LDB (R117, R118) -/
  | ldb (d : Reg) (bf : BitVec 4) (x : Reg) (disp : BitVec 12)
  /-- LDBU (R117, R118) -/
  | ldbu (d : Reg) (bf : BitVec 4) (x : Reg) (disp : BitVec 12)
  /-- LDH (R117, R118) -/
  | ldh (d : Reg) (bf : BitVec 4) (x : Reg) (disp : BitVec 12)
  /-- LDHU (R117, R118) -/
  | ldhu (d : Reg) (bf : BitVec 4) (x : Reg) (disp : BitVec 12)
  /-- LDW (R117, R118) -/
  | ldw (d : Reg) (bf : BitVec 4) (x : Reg) (disp : BitVec 12)
  /-- LDWU (R117, R118) -/
  | ldwu (d : Reg) (bf : BitVec 4) (x : Reg) (disp : BitVec 12)
  /-- LDD (R117, R118) -/
  | ldd (d : Reg) (bf : BitVec 4) (x : Reg) (disp : BitVec 12)
  /-- STB (R117, R118) -/
  | stb (d : Reg) (bf : BitVec 4) (x : Reg) (disp : BitVec 12)
  /-- STH (R117, R118) -/
  | sth (d : Reg) (bf : BitVec 4) (x : Reg) (disp : BitVec 12)
  /-- STW (R117, R118) -/
  | stw (d : Reg) (bf : BitVec 4) (x : Reg) (disp : BitVec 12)
  /-- STD (R117, R118) -/
  | std (d : Reg) (bf : BitVec 4) (x : Reg) (disp : BitVec 12)
  /-- LDM (R119) -/
  | ldm (d : Reg) (bf : BitVec 4) (cnt : Reg) (disp : BitVec 12)
  /-- STM (R119) -/
  | stm (d : Reg) (bf : BitVec 4) (cnt : Reg) (disp : BitVec 12)
  /-- AMO_ADD (R120, R121) -/
  | amoAdd (d : Reg) (bf : BitVec 4) (x b : Reg) (use : AmoUse)
  /-- AMO_AND (R120, R121) -/
  | amoAnd (d : Reg) (bf : BitVec 4) (x b : Reg) (use : AmoUse)
  /-- AMO_OR (R120, R121) -/
  | amoOr (d : Reg) (bf : BitVec 4) (x b : Reg) (use : AmoUse)
  /-- AMO_XOR (R120, R121) -/
  | amoXor (d : Reg) (bf : BitVec 4) (x b : Reg) (use : AmoUse)
  /-- AMO_MAX (R120, R121) -/
  | amoMax (d : Reg) (bf : BitVec 4) (x b : Reg) (use : AmoUse)
  /-- AMO_MIN (R120, R121) -/
  | amoMin (d : Reg) (bf : BitVec 4) (x b : Reg) (use : AmoUse)
  /-- AMO_MAXU (R120, R121) -/
  | amoMaxu (d : Reg) (bf : BitVec 4) (x b : Reg) (use : AmoUse)
  /-- AMO_MINU (R120, R121) -/
  | amoMinu (d : Reg) (bf : BitVec 4) (x b : Reg) (use : AmoUse)
  /-- AMO_SWAP (R120, R121) -/
  | amoSwap (d : Reg) (bf : BitVec 4) (x b : Reg) (use : AmoUse)
  /-- AMO_CAS (R120, R121) -/
  | amoCas (d : Reg) (bf : BitVec 4) (x b : Reg) (use : AmoUse)
  /-- AMO_LOAD (R120: b is 0) -/
  | amoLoad (d : Reg) (bf : BitVec 4) (x : Reg) (use : AmoUse)
  /-- AMO_STORE (R120: d is 0) -/
  | amoStore (bf : BitVec 4) (x b : Reg) (use : AmoUse)
  /-- FENCE (R123) -/
  | fence (scope : BitVec 2)
  /-- BEQ (R125) -/
  | beq (a b : Reg) (n : Bool) (disp : BitVec 15)
  /-- BNE (R125) -/
  | bne (a b : Reg) (n : Bool) (disp : BitVec 15)
  /-- BLT (R125) -/
  | blt (a b : Reg) (n : Bool) (disp : BitVec 15)
  /-- BGE (R125) -/
  | bge (a b : Reg) (n : Bool) (disp : BitVec 15)
  /-- BLTU (R125) -/
  | bltu (a b : Reg) (n : Bool) (disp : BitVec 15)
  /-- BGEU (R125) -/
  | bgeu (a b : Reg) (n : Bool) (disp : BitVec 15)
  /-- J (R126) -/
  | j (disp : BitVec 25)
  /-- JAL (R126) -/
  | jal (disp : BitVec 25)
  /-- JR (R126) -/
  | jr (a : Reg) (imm : BitVec 16)
  /-- JALR (R126) -/
  | jalr (d a : Reg) (imm : BitVec 16)
  /-- CSRRD (R135) -/
  | csrrd (d : Reg) (csr : BitVec 10)
  /-- CSRWR (R135) -/
  | csrwr (d a : Reg) (csr : BitVec 10)
  /-- CSRSET (R135) -/
  | csrset (d a : Reg) (csr : BitVec 10)
  /-- CSRCLR (R135) -/
  | csrclr (d a : Reg) (csr : BitVec 10)
  /-- TRAP (R136) -/
  | trap (code : BitVec 5)
  /-- ERET (R137) -/
  | eret
  /-- TLBINV (R139) -/
  | tlbinv (a b : Reg) (kind : BitVec 5)
  /-- IFLUSH (R140) -/
  | iflush
  /-- BFLD (R141) -/
  | bfld (a : Reg) (n : BitVec 5)
  /-- BFST (R141) -/
  | bfst (a : Reg) (n : BitVec 5)
  /-- NOP (R142) -/
  | nop
  /-- HALT (R142) -/
  | halt
  /-- SEND (R144: len1 is the length less 1) -/
  | send (d a b : Reg) (len1 : BitVec 5)
  /-- SENDM (R144: len1 is the length less 1) -/
  | sendm (d a b : Reg) (len1 : BitVec 5)
  /-- TEND (R145) -/
  | tend
  /-- TABORT (R146) -/
  | tabort (defer : Bool)
  /-- CHCFG (R147) -/
  | chcfg (a b : Reg)
  /-- CHMASK (R147) -/
  | chmask (a : Reg)
  /-- CHUNMASK (R147) -/
  | chunmask (a : Reg)
  /-- TSSET (R148) -/
  | tsset (a : Reg)
  /-- LAUNCH (R149) -/
  | launch (d a : Reg) (n : BitVec 5)
  /-- SCREAD (R151) -/
  | scread (d : Reg) (sc : BitVec 8)
  /-- SCINC (R151) -/
  | scinc (a : Reg) (sc : BitVec 8)
  /-- SCARM (R151) -/
  | scarm (d a : Reg) (sc : BitVec 8)
  /-- SCEXPECT (R151) -/
  | scexpect (d a : Reg) (sc : BitVec 8)
  /-- SCMODE (R151) -/
  | scmode (a : Reg) (sc : BitVec 8)
  /-- BARV (R155) -/
  | barv (a : Reg) (tag : BitVec 5)
  /-- BARCFG (R154) -/
  | barcfg (a : Reg) (tag : BitVec 5)
  /-- ENQ (R157) -/
  | enq (d a : Reg) (eng : BitVec 5)
  /-- JOBST (R158) -/
  | jobst (d a : Reg)
  /-- JOBARM (R159) -/
  | jobarm (a b : Reg)
  /-- OSCLAIM (R160) -/
  | osclaim (d a : Reg)
  /-- OSFREE (R160) -/
  | osfree (a b : Reg)
  /-- JOBRESUME (R161) -/
  | jobresume (d a : Reg)
  /-- JOBCANCEL (R161) -/
  | jobcancel (d a : Reg)
  /-- CFOPEN (R222, R223) -/
  | cfopen (d a : Reg)
  /-- CFNEXT (R222, R223) -/
  | cfnext (d a : Reg)
  /-- CFEXPECT (R222, R223) -/
  | cfexpect (d a : Reg)
  /-- CFPOST (R222, R223) -/
  | cfpost (d a : Reg)
  /-- CFREAD (R222, R223) -/
  | cfread (d a : Reg)
  /-- CFSEAL (R222, R223) -/
  | cfseal (d a : Reg)
  /-- CFSTAT (R230) -/
  | cfstat (d a : Reg) (sel : BitVec 5)
  /-- EXITMARK (R222, R225) -/
  | exitmark (d a : Reg)
  /-- CONFX (R231) -/
  | confx (d a b : Reg)
  /-- GSTORE (R254) -/
  | gstore (d a b : Reg)
  /-- GRDY (R257) -/
  | grdy (d a : Reg)
  /-- GPULL (R257) -/
  | gpull (d a : Reg)
  /-- GCNT (R260) -/
  | gcnt (d a : Reg) (sel : BitVec 5)
  /-- GCFG (R252) -/
  | gcfg (d a : Reg)
  /-- HSIFT (R247) -/
  | hsift (d a b : Reg)
  /-- HTOPK (R248) -/
  | htopk (d a b : Reg) (renorm : Bool)
  /-- RCUPD (R266) -/
  | rcupd (d a : Reg) (del : Bool)
  /-- KVFORK (R234) -/
  | kvfork (d a : Reg)
  /-- KVPUT (R234) -/
  | kvput (d a : Reg)
  /-- KVPUB (R234) -/
  | kvpub (d a : Reg)
  /-- KVSTAT (R234) -/
  | kvstat (d a : Reg)
  /-- KVFREE (R234) -/
  | kvfree (d a : Reg)
  /-- VCLAIM (R164) -/
  | vclaim (d a b : Reg)
  /-- VSYNC (R166) -/
  | vsync (d : Reg)
  /-- VFREE (R167) -/
  | vfree
  /-- VMLOGIC_AND (R171) -/
  | vmlogicAnd (md ma mb : BitVec 3)
  /-- VMLOGIC_OR (R171) -/
  | vmlogicOr (md ma mb : BitVec 3)
  /-- VMLOGIC_XOR (R171) -/
  | vmlogicXor (md ma mb : BitVec 3)
  /-- VMLOGIC_ANDN (R171) -/
  | vmlogicAndn (md ma mb : BitVec 3)
  /-- VMLOGIC_NOT (R171) -/
  | vmlogicNot (md ma : BitVec 3)
  /-- VMLOGIC_MOV (R171) -/
  | vmlogicMov (md ma : BitVec 3)
  /-- VMLOGIC_SET (R171) -/
  | vmlogicSet (md : BitVec 3)
  /-- VMLOGIC_CLR (R171) -/
  | vmlogicClr (md : BitVec 3)
  /-- VMPOP (R172) -/
  | vmpop (d : Reg) (ma : BitVec 3)
  /-- VIOTA (R173) -/
  | viota (vd : BitVec 5) (a b : Reg) (m : BitVec 3) (f : Fmt)
  /-- VLD (R175 to R177) -/
  | vld (vd : BitVec 5) (bf : BitVec 4) (x : Reg) (m : BitVec 3) (f : Fmt)
  /-- VST (R175 to R177) -/
  | vst (vd : BitVec 5) (bf : BitVec 4) (x : Reg) (m : BitVec 3) (f : Fmt)
  /-- VLDS (R175 to R177) -/
  | vlds (vd : BitVec 5) (bf : BitVec 4) (x : Reg) (m : BitVec 3) (f : Fmt)
  /-- VSTS (R175 to R177) -/
  | vsts (vd : BitVec 5) (bf : BitVec 4) (x : Reg) (m : BitVec 3) (f : Fmt)
  /-- VLDX (R175 to R177) -/
  | vldx (vd : BitVec 5) (bf : BitVec 4) (vi : BitVec 5) (m : BitVec 3) (f : Fmt)
  /-- VSTX (R175 to R177) -/
  | vstx (vd : BitVec 5) (bf : BitVec 4) (vi : BitVec 5) (m : BitVec 3) (f : Fmt)
  /-- VBCAST (R178) -/
  | vbcast (vd : BitVec 5) (a : Reg) (m : BitVec 3) (f : Fmt)
  /-- VEXTR (R178) -/
  | vextr (d : Reg) (va : BitVec 5) (b : Reg) (f : Fmt)
  /-- VINS (R178) -/
  | vins (vd : BitVec 5) (a b : Reg) (f : Fmt)
  /-- VADD (R179) -/
  | vadd (vd va vb : BitVec 5) (m : BitVec 3) (f : Fmt)
  /-- VSUB (R179) -/
  | vsub (vd va vb : BitVec 5) (m : BitVec 3) (f : Fmt)
  /-- VMUL (R179) -/
  | vmul (vd va vb : BitVec 5) (m : BitVec 3) (f : Fmt)
  /-- VFMA (R179) -/
  | vfma (vd va vb : BitVec 5) (m : BitVec 3) (f : Fmt)
  /-- VMIN (R179) -/
  | vmin (vd va vb : BitVec 5) (m : BitVec 3) (f : Fmt)
  /-- VMAX (R179) -/
  | vmax (vd va vb : BitVec 5) (m : BitVec 3) (f : Fmt)
  /-- VABS (R179) -/
  | vabs (vd va : BitVec 5) (m : BitVec 3) (f : Fmt)
  /-- VNEG (R179) -/
  | vneg (vd va : BitVec 5) (m : BitVec 3) (f : Fmt)
  /-- VAND (R179) -/
  | vand (vd va vb : BitVec 5) (m : BitVec 3) (f : Fmt)
  /-- VOR (R179) -/
  | vor (vd va vb : BitVec 5) (m : BitVec 3) (f : Fmt)
  /-- VXOR (R179) -/
  | vxor (vd va vb : BitVec 5) (m : BitVec 3) (f : Fmt)
  /-- VSHL (R179) -/
  | vshl (vd va vb : BitVec 5) (m : BitVec 3) (f : Fmt)
  /-- VSHR (R179) -/
  | vshr (vd va vb : BitVec 5) (m : BitVec 3) (f : Fmt)
  /-- VCMPEQ (R180) -/
  | vcmpeq (md : BitVec 3) (va vb : BitVec 5) (m : BitVec 3) (f : Fmt)
  /-- VCMPLT (R180) -/
  | vcmplt (md : BitVec 3) (va vb : BitVec 5) (m : BitVec 3) (f : Fmt)
  /-- VSEL (R181) -/
  | vsel (vd va vb : BitVec 5) (m : BitVec 3) (f : Fmt)
  /-- VEXP2 (R182) -/
  | vexp2 (vd va : BitVec 5) (m : BitVec 3) (f : Fmt)
  /-- VLOG2 (R182) -/
  | vlog2 (vd va : BitVec 5) (m : BitVec 3) (f : Fmt)
  /-- VRCP (R182) -/
  | vrcp (vd va : BitVec 5) (m : BitVec 3) (f : Fmt)
  /-- VRSQRT (R182) -/
  | vrsqrt (vd va : BitVec 5) (m : BitVec 3) (f : Fmt)
  /-- VSQRT (R182) -/
  | vsqrt (vd va : BitVec 5) (m : BitVec 3) (f : Fmt)
  /-- VCVT (R183) -/
  | vcvt (vd va : BitVec 5) (src : Fmt) (sat : Bool) (m : BitVec 3) (dst : Fmt)
  /-- VQNT (R184) -/
  | vqnt (vd va : BitVec 5) (b : Reg) (m : BitVec 3) (f : Fmt)
  /-- VDQNT (R184) -/
  | vdqnt (vd va : BitVec 5) (b : Reg) (m : BitVec 3) (f : Fmt)
  /-- VTERN (R184) -/
  | vtern (vd va : BitVec 5) (b : Reg) (m : BitVec 3) (f : Fmt)
  /-- VREDSUM (R185) -/
  | vredsum (d : Reg) (va : BitVec 5) (m : BitVec 3) (f : Fmt)
  /-- VREDMAX (R185) -/
  | vredmax (d : Reg) (va : BitVec 5) (m : BitVec 3) (f : Fmt)
  /-- VREDMIN (R185) -/
  | vredmin (d : Reg) (va : BitVec 5) (m : BitVec 3) (f : Fmt)
  /-- VREDAMAX (R185) -/
  | vredamax (d : Reg) (va : BitVec 5) (m : BitVec 3) (f : Fmt)
  /-- VSCAN (R186) -/
  | vscan (vd va : BitVec 5) (m : BitVec 3) (f : Fmt)
  /-- VPERM (R187) -/
  | vperm (vd va vb : BitVec 5) (m : BitVec 3) (f : Fmt)
  /-- VSLIDE (R187) -/
  | vslide (vd va : BitVec 5) (b : Reg) (m : BitVec 3) (f : Fmt)
  /-- ABOUND (R244) -/
  | abound (d : Reg) (va vb : BitVec 5) (m : BitVec 3)
  /-- AUDCHK (R245) -/
  | audchk (d a b : Reg)
  /-- MFILL (R198) -/
  | mfill (h : CmdHdr) (slot : BitVec 8) (nslot1 : BitVec 8) (src : Dword)
  /-- MWLOAD (R199) -/
  | mwload (h : CmdHdr) (slot : BitVec 8) (wfmt : Fmt)
  /-- MSTREAM (R200) -/
  | mstream (h : CmdHdr) (srcShape ovw : Bool) (cn1 : BitVec 6) (sfmt : Fmt) (slot : BitVec 8) (row0 nrow1 : BitVec 13) (shape : Dword)
  /-- MZERO (R202) -/
  | mzero (h : CmdHdr) (cn1 : BitVec 6) (row0 nrow1 : BitVec 13)
  /-- MSTORE (R203) -/
  | mstore (h : CmdHdr) (scm : BitVec 2) (cn1 : BitVec 6) (afmt : Fmt) (rm : BitVec 2) (sat : Bool) (scale : BitVec 32) (row0 nrow1 : BitVec 13) (dst : Dword)
  /-- MLOADACC (R204) -/
  | mloadacc (h : CmdHdr) (cn1 : BitVec 6) (afmt : Fmt) (row0 nrow1 : BitVec 13) (src : Dword)
  /-- MSAVE (R205 to R207) -/
  | msave (h : CmdHdr) (pre : Bool) (cap : BitVec 32) (hw : BitVec 14) (lid : BitVec 32) (img : Dword)
  /-- MRESTORE (R208) -/
  | mrestore (h : CmdHdr) (img : Dword)
  /-- CPY (R212) -/
  | cpy (h : CmdHdr) (icnt far : Bool) (src dst : Dword)
  /-- CPYM (R213) -/
  | cpym (h : CmdHdr) (rowm colm : BitVec 8) (die : BitVec 2) (dkind dsig far : Bool) (slot : BitVec 8) (src : Dword) (doff : BitVec 22)
  /-- CPYG (R214) -/
  | cpyg (h : CmdHdr) (ifmt far : Bool) (src dst : Dword)
  /-- CPYS (R214) -/
  | cpys (h : CmdHdr) (ifmt far : Bool) (src dst : Dword)
  /-- CPYPG (R215, R216) -/
  | cpypg (h : CmdHdr) (npg1 : BitVec 16) (tier : BitVec 2) (va grant : Dword)
  /-- CPYFILL (R217) -/
  | cpyfill (h : CmdHdr) (dst val : Dword)
  /-- CPYMSG (R218) -/
  | cpymsg (h : CmdHdr) (far : Bool) (src q : Dword)
  /-- KVGATHER (R241, R242) -/
  | kvgather (h : CmdHdr) (pol far : Bool) (part : BitVec 2) (rec dst : Dword)
  /-- BFILL (R238, R239) -/
  | bfill (h : CmdHdr) (gexit last : BitVec 16) (perl : Bool) (rec : Dword)
  /-- BFCANCEL (R240) -/
  | bfcancel (h : CmdHdr) (job : Dword)
  /-- RCSNAP (R268) -/
  | rcsnap (h : CmdHdr) (rec : Dword) (epoch : BitVec 32)
  /-- RCXCHG (R268) -/
  | rcxchg (h : CmdHdr) (rec : Dword) (b : BitVec 5) (wait : BitVec 8)
  /-- RCPEEL (R269) -/
  | rcpeel (h : CmdHdr) (rec : Dword)
  /-- RCFETCH (R271) -/
  | rcfetch (h : CmdHdr) (rec : Dword)
  /-- RCROUND (R268) -/
  | rcround (h : CmdHdr) (rec : Dword) (wait : BitVec 8)
  /-- GALLRED (R261, R262) -/
  | gallred (h : CmdHdr) (group cctr : BitVec 8) (nch : BitVec 16) (seq : BitVec 32) (nb1 : BitVec 10) (dst : Dword)
  /-- GALLGATH (R261, R262) -/
  | gallgath (h : CmdHdr) (group cctr : BitVec 8) (nch : BitVec 16) (seq : BitVec 32) (nb1 : BitVec 10) (dst : Dword)
  /-- GBCAST (R261, R262) -/
  | gbcast (h : CmdHdr) (group cctr : BitVec 8) (nch : BitVec 16) (root : BitVec 6) (seq : BitVec 32) (nb1 : BitVec 10) (dst : Dword)
  /-- MATRIX_STEP_END (R334) -/
  | matrixStepEnd (cl : Nat)
  /-- COPY_BURST (R209, R336) -/
  | copyBurst (cl : Nat)
  /-- ENGINE_AGEING (R333) -/
  | engineAgeing (q : QueueId) (jid : BitVec 32)
  /-- ENGINE_DONE (R288) -/
  | engineDone (q : QueueId) (jid : BitVec 32)
  /-- KVGATHER_DEFER_RESUME (R242) -/
  | kvgatherDeferResume (cl : Nat) (jid : BitVec 32)
  /-- MESSAGE_ARRIVAL (R14: the n-th act in flight) -/
  | messageArrival (n : Nat)
  /-- PORT_WORD_ARRIVAL (R11, R14) -/
  | portWordArrival (n : Nat)
  /-- CREDIT_RETURN (R11) -/
  | creditReturn (n : Nat)
  /-- HANDLER_SELECTION (R331) -/
  | handlerSelection (el : Nat)
  /-- URGENT_INTERRUPTION (R18, R332) -/
  | urgentInterruption (el : Nat)
  /-- SERIAL_ADMISSION (R282) -/
  | serialAdmission (el ch : Nat)
  /-- COMMIT (R276, R279: the k-th finished run of an element) -/
  | commit (el k : Nat)
  /-- IATOM (R286: the k-th entry of an element's queue) -/
  | iatom (el k : Nat)
  /-- ROUND_MARKER_INJECTION (R342) -/
  | roundMarkerInjection
  /-- ROUND_EDGE (R283) -/
  | roundEdge
  /-- SLOT_QUANTUM_EXPIRY (R328) -/
  | slotQuantumExpiry (slot : Nat)
  /-- HORIZON_REPORT (R353) -/
  | horizonReport (slid : BitVec 32) (j : Nat) (peer : Peer) (l : Dword) (part : SysPart)
  /-- LAUNCH_PACKET (R324) -/
  | launchPacket (n : Nat)
  /-- LAUNCH_ADMISSION (R324) -/
  | launchAdmission (die : Nat)
  /-- SLOT_TAKE_RECORD (R329) -/
  | slotTakeRecord (slot : Nat)
  /-- CFOPEN_HOME (R225) -/
  | cfopenHome (n : Nat)
  /-- CFNEXT_HOME (R225) -/
  | cfnextHome (n : Nat)
  /-- CFEXPECT_HOME (R225) -/
  | cfexpectHome (n : Nat)
  /-- CFSEAL_HOME (R225) -/
  | cfsealHome (n : Nat)
  /-- EXITMARK_HOME (R225) -/
  | exitmarkHome (n : Nat)
  /-- CFPOST_HOME (R227) -/
  | cfpostHome (n : Nat)
  /-- CFREAD_HOME (R229) -/
  | cfreadHome (n : Nat)
  /-- CFREAD_LATENESS (R229: the k-th pending read of an object) -/
  | cfreadLateness (die obj k : Nat)
  /-- BARRIER_ARRIVAL (R155) -/
  | barrierArrival (n : Nat)
  /-- BARCFG_APPLY (R154) -/
  | barcfgApply (n : Nat)
  /-- GROUP_CONTRIBUTION (R255) -/
  | groupContribution (n : Nat)
  /-- GROUP_RESULT (R255) -/
  | groupResult (n : Nat)
  /-- GROUP_TIMEOUT (R255) -/
  | groupTimeout (g : BitVec 8) (s : BitVec 32)
  /-- GROUP_SLOT_FREE (R255) -/
  | groupSlotFree (g : BitVec 8) (s : BitVec 32)
  /-- GRDY_ANNOUNCE (R258) -/
  | grdyAnnounce (n : Nat)
  /-- GPULL_REQUEST (R259) -/
  | gpullRequest (n : Nat)
  /-- GPULL_TIMEOUT (R259) -/
  | gpullTimeout (k : Nat)
  /-- CHUNK_DELIVERY (R262) -/
  | chunkDelivery (q : QueueId) (jid : BitVec 32)
  /-- CHUNK_TIMEOUT (R262) -/
  | chunkTimeout (q : QueueId) (jid : BitVec 32)
  /-- CELL_UPDATE (R266) -/
  | cellUpdate (n : Nat)
  /-- FOLD_REQUEST (R355) -/
  | foldRequest (idie : Nat) (peer : Peer) (rec : Dword) (epoch : BitVec 32) (b : BitVec 5) (seeds : List Dword)
  /-- RCXCHG_WAIT_EXPIRY (R268) -/
  | rcxchgWaitExpiry (q : QueueId) (jid : BitVec 32)
  /-- FABRIC_FORWARD (R347, R348) -/
  | fabricForward (port : Nat) (p : FabPkt)
  /-- REMOTE_REQUEST (R297, R350) -/
  | remoteRequest (peer : Peer) (pa : Nat) (op : RemoteOp)
  /-- FLIT_CRC_FAILURE (R317, R344, R345): the link, and the flit as it came -/
  | flitCrcFailure (l : LinkId) (flit : SeenFlit)
  /-- CXL_DEVICE_REMOVAL (R361) -/
  | cxlDeviceRemoval (port : Nat)
  /-- HOST_BAR2_WRITE (R357, R358) -/
  | hostBar2Write (off : Nat) (bytes : List Byte)
  /-- HOST_BAR2_READ (R357) -/
  | hostBar2Read (off n : Nat)
  /-- QDB (R358) -/
  | qdb (q : BitVec 10)
  /-- REGISTER_WRITE (R357) -/
  | registerWrite (off : Nat) (v : Dword)
  /-- HOST_COMPLETION_TIMEOUT (R359) -/
  | hostCompletionTimeout (el : Nat)
  /-- PATROL_SCRUB (R314, R371) -/
  | patrolScrub (at' : ScrubAt) (uncorrectable : Bool)
  /-- WAKE (R372) -/
  | wake (n : Nat)
  /-- STOP (R372) -/
  | stop (n : Nat)
  /-- PREEMPT (R372) -/
  | preempt (n : Nat)
  /-- RESUME (R372) -/
  | resume (n : Nat)
  /-- DISCARD (R372) -/
  | discard (n : Nat)
  /-- PREEMPT_REQUEST (R372, R373) -/
  | preemptRequest (n : Nat)
  /-- PREEMPT_STOP (R373) -/
  | preemptStop
  /-- PREEMPT_CAPTURE (R373, R376) -/
  | preemptCapture
  /-- MREAD (R386) -/
  | mread (addr : Nat) (auth : Bool)
  /-- MWRITE (R386) -/
  | mwrite (addr : Nat) (v : Dword) (auth : Bool)
  /-- ATTEST (R385) -/
  | attest (nonce : BitVec 256)
  /-- MCLEAR (R386, R390) -/
  | mclear (addr : Nat) (auth : Bool)
  /-- POWER_ON_RESET (R381, R383) -/
  | powerOnReset (r : BootReport)
  /-- UNASSIGNED_OPCODE (R64, R76) -/
  | unassignedOpcode (w : BitVec 32)
  /-- LINK_UP (R343, R346) -/
  | linkUp (port : Nat)
  /-- CAPABILITY_REFRESH (R37) -/
  | capabilityRefresh (r : BootReport)
  /-- MEASUREMENT_REQUEST (R381, R382) -/
  | measurementRequest (img : BitVec 3) (digest : BitVec 256)
  deriving DecidableEq, Repr

end Sys2Proof
end

