-- ==== Sys2Proof/Machine/Fields.lean ====
section
/-! DEFINITION. Format codes, and the limits on the fields of every instruction and command (R63 to R74, R79, R80 and the
encoding tables of the instruction chapters). Both the decoder and WellFormed use them. -/

namespace Sys2Proof.Machine

/-- The 4-bit code of a format (R75). -/
def fmtCode : Fmt → BitVec 4
  | .fp64 => 0 | .fp32 => 1 | .fp16 => 2 | .bf16 => 3 | .e4m3 => 4 | .e5m2 => 5 | .int8 => 6 | .int16 => 7
  | .int32 => 8 | .int64 => 9 | .uint8 => 10 | .uint16 => 11 | .uint32 => 12 | .tern2 => 13 | .cfx64 => 14

/-- The format a code names; 15 names none (R75). -/
def fmtOfCode (c : BitVec 4) : Option Fmt :=
  match c.toNat with
  | 0 => some .fp64 | 1 => some .fp32 | 2 => some .fp16 | 3 => some .bf16 | 4 => some .e4m3 | 5 => some .e5m2
  | 6 => some .int8 | 7 => some .int16 | 8 => some .int32 | 9 => some .int64 | 10 => some .uint8 | 11 => some .uint16
  | 12 => some .uint32 | 13 => some .tern2 | 14 => some .cfx64 | _ => none

/-- Bits per element (R75). -/
def fmtBits : Fmt → Nat
  | .fp64 => 64 | .fp32 => 32 | .fp16 => 16 | .bf16 => 16 | .e4m3 => 8 | .e5m2 => 8 | .int8 => 8 | .int16 => 16
  | .int32 => 32 | .int64 => 64 | .uint8 => 8 | .uint16 => 16 | .uint32 => 32 | .tern2 => 2 | .cfx64 => 64

/-- Bytes per element in memory, TERN2 counted as UINT8 (R174, R189). -/
def fmtBytes (f : Fmt) : Nat := if fmtBits f < 8 then 1 else fmtBits f / 8

/-- The register field names a workspace register, not a port (R9, R63). -/
def isW (r : Reg) : Bool := decide (r.toNat ≤ 27)

/-- Codes 6 to 12. -/
def intFmt (f : Fmt) : Bool := decide (6 ≤ (fmtCode f).toNat ∧ (fmtCode f).toNat ≤ 12)
/-- Codes 0 to 3. -/
def floatFmt (f : Fmt) : Bool := decide ((fmtCode f).toNat ≤ 3)
/-- Codes 0 to 3 and 6 to 12. -/
def arithFmt (f : Fmt) : Bool := floatFmt f || intFmt f
/-- Codes 0 to 3 and 6 to 9. -/
def signedFmt (f : Fmt) : Bool := floatFmt f || decide (6 ≤ (fmtCode f).toNat ∧ (fmtCode f).toNat ≤ 9)
/-- Codes 1 and 3. -/
def sfuFmt (f : Fmt) : Bool := f == .fp32 || f == .bf16
/-- Codes 4, 5, 6, 7 and 10. -/
def quantFmt (f : Fmt) : Bool := f == .e4m3 || f == .e5m2 || f == .int8 || f == .int16 || f == .uint8
/-- Code 13. -/
def ternFmt (f : Fmt) : Bool := f == .tern2
/-- Codes 0 to 12. -/
def moveFmt (f : Fmt) : Bool := decide ((fmtCode f).toNat ≤ 12)
/-- The weight formats of MWLOAD: 0 to 6 and 13 (R197). -/
def weightFmt (f : Fmt) : Bool := decide ((fmtCode f).toNat ≤ 6) || f == .tern2
/-- The stream formats of MSTREAM: 0 to 6 (R197). -/
def streamFmt (f : Fmt) : Bool := decide ((fmtCode f).toNat ≤ 6)
/-- The accumulate formats that MSTORE and MLOADACC name: 0, 1 and 8 (R197). -/
def accFmt (f : Fmt) : Bool := f == .fp64 || f == .fp32 || f == .int32

/-- The formats for which SAT is not accepted (R68, R183, R203). -/
def noSat (f : Fmt) : Bool := floatFmt f

/-- The format of an FCVT source type (R68). -/
def cvtFmt : CvtSrc → Fmt
  | .fp32 => .fp32 | .fp64 => .fp64 | .bf16 => .bf16 | .int32 => .int32 | .int64 => .int64 | .uint32 => .uint32

/-- The combinations FCVT accepts (R68). -/
def fcvtOk (src : CvtSrc) (dst : Fmt) (sat : Bool) : Bool :=
  (decide ((fmtCode dst).toNat ≤ 5) || dst == .int32 || dst == .int64 || dst == .uint32)
    && cvtFmt src != dst && !(intFmt (cvtFmt src) && intFmt dst) && !(sat && noSat dst)

/-- The combinations VCVT accepts (R74, R183). -/
def vcvtOk (src dst : Fmt) (sat : Bool) : Bool :=
  src != .cfx64 && dst != .cfx64 && src != dst && !(sat && noSat dst)

/-- The register run of LDM and STM (R69). -/
def multiOk (d cnt : Reg) : Bool :=
  decide (1 ≤ d.toNat ∧ 1 ≤ cnt.toNat ∧ cnt.toNat ≤ 27 ∧ d.toNat + cnt.toNat ≤ 28)

/-- An address is a multiple of n. -/
def aligned (n : Nat) (a : Dword) : Bool := decide (a.toNat % n = 0)

/-- The tile of a weight format, from a slot, stays within the slots (R194, R197). -/
def tileFits (f : Fmt) (slot : BitVec 8) : Bool :=
  match f with
  | .fp64 => decide (slot.toNat ≤ 252)
  | .fp32 => decide (slot.toNat ≤ 254)
  | _ => true

/-- Rows ROW0 to ROW0 + NROW - 1 lie below 8,192, or below 4,096 wide rows (R197). -/
def rowsFit (wide : Bool) (row0 nrow1 : BitVec 13) : Bool :=
  decide (row0.toNat + nrow1.toNat + 1 ≤ if wide then 4096 else 8192)

/-- The uses of AMO that accept only aop 0 to 7: commutative and quantum (R70). -/
def usePooled : AmoUse → Bool
  | .comm => true | .quant => true | .spec => false | .unp => false | .nord => false

/-- Every field of an instruction or command lies within the limits its encoding states. An event has none. -/
def fieldsOk : Instr → Bool
  | .add _ _ _ => true
  | .sub _ _ _ => true
  | .and _ _ _ => true
  | .or _ _ _ => true
  | .xor _ _ _ => true
  | .andn _ _ _ => true
  | .sll _ _ _ => true
  | .srl _ _ _ => true
  | .sra _ _ _ => true
  | .slt _ _ _ => true
  | .sltu _ _ _ => true
  | .min _ _ _ => true
  | .max _ _ _ => true
  | .minu _ _ _ => true
  | .maxu _ _ _ => true
  | .mul _ _ _ => true
  | .mulh _ _ _ => true
  | .mulhu _ _ _ => true
  | .div _ _ _ => true
  | .divu _ _ _ => true
  | .rem _ _ _ => true
  | .remu _ _ _ => true
  | .clz _ _ => true
  | .ctz _ _ => true
  | .popc _ _ => true
  | .lea _ _ _ sh => decide (sh.toNat ≤ 4)
  | .cmovz _ _ _ => true
  | .cmovnz _ _ _ => true
  | .exts _ _ _ => true
  | .extz _ _ _ => true
  | .addi _ _ _ => true
  | .andi _ _ _ => true
  | .ori _ _ _ => true
  | .xori _ _ _ => true
  | .slti _ _ _ => true
  | .sltiu _ _ _ => true
  | .lui _ _ => true
  | .slli _ _ _ => true
  | .srli _ _ _ => true
  | .srai _ _ _ => true
  | .orih _ _ _ => true
  | .orit _ _ _ => true
  | .fadd _ _ _ _ => true
  | .fsub _ _ _ _ => true
  | .fmul _ _ _ _ => true
  | .ffma _ _ _ _ => true
  | .fdiv _ _ _ _ => true
  | .fsqrt _ _ _ => true
  | .fmin _ _ _ _ => true
  | .fmax _ _ _ _ => true
  | .fcmpeq _ _ _ _ => true
  | .fcmplt _ _ _ _ => true
  | .fcmple _ _ _ _ => true
  | .fcvt _ _ src dst sat => fcvtOk src dst sat
  | .fclass _ _ _ => true
  | .fneg _ _ _ => true
  | .fabs _ _ _ => true
  | .ldb _ _ x _ => isW x
  | .ldbu _ _ x _ => isW x
  | .ldh _ _ x _ => isW x
  | .ldhu _ _ x _ => isW x
  | .ldw _ _ x _ => isW x
  | .ldwu _ _ x _ => isW x
  | .ldd _ _ x _ => isW x
  | .stb _ _ x _ => isW x
  | .sth _ _ x _ => isW x
  | .stw _ _ x _ => isW x
  | .std _ _ x _ => isW x
  | .ldm d _ cnt _ => multiOk d cnt
  | .stm d _ cnt _ => multiOk d cnt
  | .amoAdd d _ x b _ => isW d && isW x && isW b
  | .amoAnd d _ x b _ => isW d && isW x && isW b
  | .amoOr d _ x b _ => isW d && isW x && isW b
  | .amoXor d _ x b _ => isW d && isW x && isW b
  | .amoMax d _ x b _ => isW d && isW x && isW b
  | .amoMin d _ x b _ => isW d && isW x && isW b
  | .amoMaxu d _ x b _ => isW d && isW x && isW b
  | .amoMinu d _ x b _ => isW d && isW x && isW b
  | .amoSwap d _ x b use => isW d && isW x && isW b && !(usePooled use)
  | .amoCas d _ x b use => isW d && isW x && isW b && !(usePooled use)
  | .amoLoad d _ x use => isW d && isW x && !(usePooled use)
  | .amoStore _ x b use => isW x && isW b && !(usePooled use)
  | .fence _ => true
  | .beq a b _ _ => isW a && isW b
  | .bne a b _ _ => isW a && isW b
  | .blt a b _ _ => isW a && isW b
  | .bge a b _ _ => isW a && isW b
  | .bltu a b _ _ => isW a && isW b
  | .bgeu a b _ _ => isW a && isW b
  | .j _ => true
  | .jal _ => true
  | .jr a _ => isW a
  | .jalr d a _ => isW d && isW a
  | .csrrd d _ => isW d
  | .csrwr d a _ => isW d && isW a
  | .csrset d a _ => isW d && isW a
  | .csrclr d a _ => isW d && isW a
  | .trap _ => true
  | .eret => true
  | .tlbinv a b kind => isW a && isW b && decide (kind.toNat < 8)
  | .iflush => true
  | .bfld a n => isW a && decide (1 ≤ n.toNat ∧ n.toNat ≤ 15)
  | .bfst a n => isW a && decide (n.toNat ≤ 15)
  | .nop => true
  | .halt => true
  | .send d a b _ => isW d && isW a && isW b
  | .sendm d a b _ => isW d && isW a && isW b
  | .tend => true
  | .tabort _ => true
  | .chcfg a b => isW a && isW b
  | .chmask a => isW a
  | .chunmask a => isW a
  | .tsset a => isW a
  | .launch d a n => isW d && isW a && decide (n.toNat ≤ 15)
  | .scread d _ => isW d
  | .scinc a _ => isW a
  | .scarm d a _ => isW d && isW a
  | .scexpect d a _ => isW d && isW a
  | .scmode a _ => isW a
  | .barv a tag => isW a && decide (tag.toNat < 8)
  | .barcfg a tag => isW a && decide (tag.toNat < 8)
  | .enq d a eng => isW d && isW a && decide (1 ≤ a.toNat ∧ a.toNat ≤ 24) && decide (eng.toNat ≤ 4)
  | .jobst d a => isW d && isW a
  | .jobarm a b => isW a && isW b
  | .osclaim d a => isW d && isW a
  | .osfree a b => isW a && isW b
  | .jobresume d a => isW d && isW a
  | .jobcancel d a => isW d && isW a
  | .cfopen d a => isW d && isW a
  | .cfnext d a => isW d && isW a
  | .cfexpect d a => isW d && isW a
  | .cfpost d a => isW d && isW a
  | .cfread d a => isW d && isW a
  | .cfseal d a => isW d && isW a
  | .cfstat d a sel => isW d && isW a && decide (sel.toNat ≤ 4)
  | .exitmark d a => isW d && isW a
  | .confx d a b => isW d && isW a && isW b
  | .gstore d a b => isW d && isW a && isW b
  | .grdy d a => isW d && isW a
  | .gpull d a => isW d && isW a
  | .gcnt d a sel => isW d && isW a && decide (sel.toNat ≤ 2)
  | .gcfg d a => isW d && isW a
  | .hsift d a b => isW d && isW a && isW b
  | .htopk d a b _ => isW d && isW a && isW b
  | .rcupd d a _ => isW d && isW a
  | .kvfork d a => isW d && isW a
  | .kvput d a => isW d && isW a
  | .kvpub d a => isW d && isW a
  | .kvstat d a => isW d && isW a
  | .kvfree d a => isW d && isW a
  | .vclaim d a b => isW d && isW a && isW b
  | .vsync d => isW d
  | .vfree => true
  | .vmlogicAnd _ _ _ => true
  | .vmlogicOr _ _ _ => true
  | .vmlogicXor _ _ _ => true
  | .vmlogicAndn _ _ _ => true
  | .vmlogicNot _ _ => true
  | .vmlogicMov _ _ => true
  | .vmlogicSet _ => true
  | .vmlogicClr _ => true
  | .vmpop d _ => isW d
  | .viota _ a b _ f => isW a && isW b && intFmt f
  | .vld _ _ x _ _ => isW x
  | .vst _ _ x _ _ => isW x
  | .vlds _ _ x _ _ => isW x
  | .vsts _ _ x _ _ => isW x
  | .vldx _ _ _ _ _ => true
  | .vstx _ _ _ _ _ => true
  | .vbcast _ a _ _ => isW a
  | .vextr d _ b _ => isW d && isW b
  | .vins _ a b _ => isW a && isW b
  | .vadd _ _ _ _ f => arithFmt f
  | .vsub _ _ _ _ f => arithFmt f
  | .vmul _ _ _ _ f => arithFmt f
  | .vfma _ _ _ _ f => arithFmt f
  | .vmin _ _ _ _ f => arithFmt f
  | .vmax _ _ _ _ f => arithFmt f
  | .vabs _ _ _ f => signedFmt f
  | .vneg _ _ _ f => signedFmt f
  | .vand _ _ _ _ f => intFmt f
  | .vor _ _ _ _ f => intFmt f
  | .vxor _ _ _ _ f => intFmt f
  | .vshl _ _ _ _ f => intFmt f
  | .vshr _ _ _ _ f => intFmt f
  | .vcmpeq _ _ _ _ f => arithFmt f
  | .vcmplt _ _ _ _ f => arithFmt f
  | .vsel _ _ _ _ f => arithFmt f
  | .vexp2 _ _ _ f => sfuFmt f
  | .vlog2 _ _ _ f => sfuFmt f
  | .vrcp _ _ _ f => sfuFmt f
  | .vrsqrt _ _ _ f => sfuFmt f
  | .vsqrt _ _ _ f => sfuFmt f
  | .vcvt _ _ src sat _ dst => vcvtOk src dst sat
  | .vqnt _ _ b _ f => isW b && quantFmt f
  | .vdqnt _ _ b _ f => isW b && sfuFmt f
  | .vtern _ _ b _ f => isW b && ternFmt f
  | .vredsum d _ _ f => isW d && arithFmt f
  | .vredmax d _ _ f => isW d && arithFmt f
  | .vredmin d _ _ f => isW d && arithFmt f
  | .vredamax d _ _ f => isW d && floatFmt f
  | .vscan _ _ _ f => arithFmt f
  | .vperm _ _ _ _ f => moveFmt f
  | .vslide _ _ b _ f => isW b && moveFmt f
  | .abound d _ vb _ => isW d && decide (vb.toNat ≠ 31)
  | .audchk d a b => isW d && isW a && isW b
  | .mfill _ slot nslot1 src => decide (slot.toNat + nslot1.toNat + 1 ≤ 256) && aligned 64 src
  | .mwload _ slot wfmt => weightFmt wfmt && tileFits wfmt slot
  | .mstream _ srcShape _ _ sfmt slot row0 nrow1 shape => streamFmt sfmt && rowsFit (sfmt == .fp64) row0 nrow1 && (if srcShape then decide (slot.toNat = 0) && aligned 64 shape else decide (shape.toNat = 0))
  | .mzero _ _ row0 nrow1 => rowsFit false row0 nrow1
  | .mstore _ scm _ afmt _ _ scale row0 nrow1 dst => accFmt afmt && decide (scm.toNat ≠ 3) && (decide (scm.toNat = 1) || decide (scale.toNat = 0)) && rowsFit (afmt == .fp64) row0 nrow1 && aligned 64 dst
  | .mloadacc _ _ afmt row0 nrow1 src => accFmt afmt && rowsFit (afmt == .fp64) row0 nrow1 && aligned 64 src
  | .msave _ _ _ hw _ img => decide (hw.toNat ≤ 8192) && aligned 256 img
  | .mrestore _ img => aligned 256 img
  | .cpy _ _ _ src dst => aligned 64 src && aligned 64 dst
  | .cpym h rowm colm _ dkind dsig _ slot _ doff => decide (rowm.toNat ≠ 0) && decide (colm.toNat ≠ 0) && (if dkind then decide (doff.toNat = 0) else decide (slot.toNat = 0)) && (!dsig || h.sig.isSome)
  | .cpyg _ _ _ src dst => aligned 64 src && aligned 64 dst
  | .cpys _ _ _ src dst => aligned 64 src && aligned 64 dst
  | .cpypg _ _ tier va grant => decide (tier.toNat ≤ 1) && aligned 65536 va && aligned 64 grant
  | .cpyfill _ dst _ => aligned 64 dst
  | .cpymsg _ _ src q => aligned 64 src && aligned 64 q
  | .kvgather _ _ _ part rec dst => decide (part.toNat ≠ 3) && aligned 64 rec && aligned 64 dst
  | .bfill _ gexit last _ rec => decide (gexit.toNat < last.toNat) && aligned 64 rec
  | .bfcancel _ job => decide (job.toNat / 2 ^ 29 % 8 = 2)
  | .rcsnap _ rec _ => aligned 64 rec
  | .rcxchg _ rec b wait => aligned 64 rec && decide (b.toNat = 0 ∨ (6 ≤ b.toNat ∧ b.toNat ≤ 16)) && decide (1 ≤ wait.toNat)
  | .rcpeel _ rec => aligned 64 rec
  | .rcfetch _ rec => aligned 64 rec
  | .rcround _ rec wait => aligned 64 rec && decide (1 ≤ wait.toNat)
  | .gallred _ _ _ _ _ _ dst => aligned 64 dst
  | .gallgath _ _ _ _ _ _ dst => aligned 64 dst
  | .gbcast _ _ _ _ _ _ _ dst => aligned 64 dst
  | .matrixStepEnd _ => true
  | .copyBurst _ => true
  | .engineAgeing _ _ => true
  | .engineDone _ _ => true
  | .kvgatherDeferResume _ _ => true
  | .messageArrival _ => true
  | .portWordArrival _ => true
  | .creditReturn _ => true
  | .handlerSelection _ => true
  | .urgentInterruption _ => true
  | .serialAdmission _ _ => true
  | .commit _ _ => true
  | .iatom _ _ => true
  | .roundMarkerInjection => true
  | .roundEdge => true
  | .slotQuantumExpiry _ => true
  | .horizonReport _ _ _ _ _ => true
  | .launchPacket _ => true
  | .launchAdmission _ => true
  | .slotTakeRecord _ => true
  | .cfopenHome _ => true
  | .cfnextHome _ => true
  | .cfexpectHome _ => true
  | .cfsealHome _ => true
  | .exitmarkHome _ => true
  | .cfpostHome _ => true
  | .cfreadHome _ => true
  | .cfreadLateness _ _ _ => true
  | .barrierArrival _ => true
  | .barcfgApply _ => true
  | .groupContribution _ => true
  | .groupResult _ => true
  | .groupTimeout _ _ => true
  | .groupSlotFree _ _ => true
  | .grdyAnnounce _ => true
  | .gpullRequest _ => true
  | .gpullTimeout _ => true
  | .chunkDelivery _ _ => true
  | .chunkTimeout _ _ => true
  | .cellUpdate _ => true
  | .foldRequest _ _ _ _ _ _ => true
  | .rcxchgWaitExpiry _ _ => true
  | .fabricForward _ _ => true
  | .remoteRequest _ _ _ => true
  | .flitCrcFailure _ _ => true
  | .cxlDeviceRemoval _ => true
  | .hostBar2Write _ _ => true
  | .hostBar2Read _ _ => true
  | .qdb _ => true
  | .registerWrite _ _ => true
  | .hostCompletionTimeout _ => true
  | .patrolScrub _ _ => true
  | .wake _ => true
  | .stop _ => true
  | .preempt _ => true
  | .resume _ => true
  | .discard _ => true
  | .preemptRequest _ => true
  | .preemptStop => true
  | .preemptCapture => true
  | .mread _ _ => true
  | .mwrite _ _ _ => true
  | .attest _ => true
  | .mclear _ _ => true
  | .powerOnReset _ => true
  | .unassignedOpcode _ => true
  | .linkUp _ => true
  | .capabilityRefresh _ => true
  | .measurementRequest _ _ => true

end Sys2Proof.Machine
end

