-- ==== Sys2Proof/WellFormed.lean ====
section
/-! DEFINITION. Well-formed instructions: every field lies within the limits the spec states for it (R63 to R74, R80). The
limits themselves stand in Machine/Fields.lean. -/

namespace Sys2Proof

/-- The fields of an instruction lie within the spec's limits. -/
def Instr.wf (i : Instr) : Bool := Machine.fieldsOk i

end Sys2Proof
end

