-- ==== Sys2Proof/Decode.lean ====
section
/-! DEFINITION. The decoder and the encoder of element instructions (R62 to R76) and of command words (R78, R79, and the
encoding tables of the engine chapters). Both read a word as a number whose bit 0 is the least significant (R4). The decoder
is total and refuses by name. -/

namespace Sys2Proof

/-- Why a word is refused; each is an ILLOP of the decode checks (R76), in the order the checks stand there. -/
inductive DecodeError where
  /-- the major opcode is unassigned (R64) -/
  | major
  /-- the sub or fn value is unassigned in its group (R65, R67, R70, R72, R74) -/
  | sub
  /-- a rsv field is nonzero (R63, R76) -/
  | reserved
  /-- a field lies outside its limits, or names a port where none may stand (R63, R76) -/
  | limits
  /-- fewer than four bytes are there to be fetched -/
  | short
  deriving DecidableEq, Repr

/-- The slice n[lo+len-1 : lo] of a number (R4). -/
def bits (n lo len : Nat) : Nat := n / 2 ^ lo % 2 ^ len

/-- A slice as a bit vector of its own width. -/
def fieldAt (n lo len : Nat) : BitVec len := BitVec.ofNat len (n / 2 ^ lo)

/-- Bit i of a number. -/
def bitAt (n i : Nat) : Bool := n / 2 ^ i % 2 == 1

/-- One as a number, for a Bool field of a word. -/
def bitVal (b : Bool) : Nat := if b then 1 else 0

namespace Decode

/-! The fields of R62, by the names of its table: d, a, b, sh and fn of the R format, and what the other formats call the
same or other bits. -/
def d (n : Nat) : Reg := fieldAt n 21 5
def a (n : Nat) : Reg := fieldAt n 16 5
def b (n : Nat) : Reg := fieldAt n 11 5
def sh (n : Nat) : BitVec 5 := fieldAt n 6 5
def imm (n : Nat) : BitVec 16 := fieldAt n 0 16
def bf (n : Nat) : BitVec 4 := fieldAt n 17 4
def x (n : Nat) : Reg := fieldAt n 12 5
def disp12 (n : Nat) : BitVec 12 := fieldAt n 0 12
def amoB (n : Nat) : Reg := fieldAt n 7 5
def disp15 (n : Nat) : BitVec 15 := fieldAt n 0 15
def disp25 (n : Nat) : BitVec 25 := fieldAt n 0 25
def k (n : Nat) : BitVec 5 := fieldAt n 0 5
def m (n : Nat) : BitVec 3 := fieldAt n 8 3

/-- Accept i when the rsv fields are zero and every field is within its limits. -/
def chk (rsv : Bool) (i : Instr) : Except DecodeError Instr :=
  if rsv then (if i.wf then .ok i else .error .limits) else .error .reserved

/-- The slice is zero. -/
def z (n lo len : Nat) : Bool := bits n lo len == 0

/-- The format of the FPU group, from sh (R67). -/
def fpFmt (n : Nat) : Option FpFmt :=
  match bits n 6 5 with
  | 0 => some .fp32 | 1 => some .fp64 | 2 => some .bf16 | _ => none

/-- The source type of FCVT, from sh (R68). -/
def cvtSrc (n : Nat) : Option CvtSrc :=
  match bits n 6 5 with
  | 0 => some .fp32 | 1 => some .fp64 | 2 => some .bf16 | 3 => some .int32 | 4 => some .int64 | 5 => some .uint32 | _ => none

/-- The use of AMO (R70). -/
def amoUse (n : Nat) : Option AmoUse :=
  match bits n 0 3 with
  | 0 => some .spec | 1 => some .unp | 2 => some .comm | 3 => some .nord | 4 => some .quant | _ => none

/-- The format code of the V formats (R74). -/
def vFmt (n : Nat) : Option Fmt := Machine.fmtOfCode (fieldAt n 4 4)

/-- The INT group (R65). -/
def int (n : Nat) : Except DecodeError Instr :=
  match bits n 0 6 with
  | 0 => chk (z n 6 5) (.add (d n) (a n) (b n))
  | 1 => chk (z n 6 5) (.sub (d n) (a n) (b n))
  | 2 => chk (z n 6 5) (.and (d n) (a n) (b n))
  | 3 => chk (z n 6 5) (.or (d n) (a n) (b n))
  | 4 => chk (z n 6 5) (.xor (d n) (a n) (b n))
  | 5 => chk (z n 6 5) (.andn (d n) (a n) (b n))
  | 6 => chk (z n 6 5) (.sll (d n) (a n) (b n))
  | 7 => chk (z n 6 5) (.srl (d n) (a n) (b n))
  | 8 => chk (z n 6 5) (.sra (d n) (a n) (b n))
  | 9 => chk (z n 6 5) (.slt (d n) (a n) (b n))
  | 10 => chk (z n 6 5) (.sltu (d n) (a n) (b n))
  | 11 => chk (z n 6 5) (.min (d n) (a n) (b n))
  | 12 => chk (z n 6 5) (.max (d n) (a n) (b n))
  | 13 => chk (z n 6 5) (.minu (d n) (a n) (b n))
  | 14 => chk (z n 6 5) (.maxu (d n) (a n) (b n))
  | 15 => chk (z n 6 5) (.mul (d n) (a n) (b n))
  | 16 => chk (z n 6 5) (.mulh (d n) (a n) (b n))
  | 17 => chk (z n 6 5) (.mulhu (d n) (a n) (b n))
  | 18 => chk (z n 6 5) (.div (d n) (a n) (b n))
  | 19 => chk (z n 6 5) (.divu (d n) (a n) (b n))
  | 20 => chk (z n 6 5) (.rem (d n) (a n) (b n))
  | 21 => chk (z n 6 5) (.remu (d n) (a n) (b n))
  | 22 => chk (z n 6 10) (.clz (d n) (a n))
  | 23 => chk (z n 6 10) (.ctz (d n) (a n))
  | 24 => chk (z n 6 10) (.popc (d n) (a n))
  | 25 => chk true (.lea (d n) (a n) (b n) (sh n))
  | 26 => chk (z n 6 5) (.cmovz (d n) (a n) (b n))
  | 27 => chk (z n 6 5) (.cmovnz (d n) (a n) (b n))
  | 28 => chk (z n 11 5) (.exts (d n) (a n) (sh n))
  | 29 => chk (z n 11 5) (.extz (d n) (a n) (sh n))
  | _ => .error .sub

/-- SHI (R66): the selector imm[7:6] and the amount imm[5:0]. -/
def shi (n : Nat) : Except DecodeError Instr :=
  match bits n 6 2 with
  | 0 => chk (z n 8 8) (.slli (d n) (a n) (fieldAt n 0 6))
  | 1 => chk (z n 8 8) (.srli (d n) (a n) (fieldAt n 0 6))
  | 2 => chk (z n 8 8) (.srai (d n) (a n) (fieldAt n 0 6))
  | _ => .error .sub

/-- A decoded option, or the refusal named. -/
def need {α : Type} (o : Option α) (e : DecodeError) (k : α → Except DecodeError Instr) : Except DecodeError Instr :=
  match o with
  | some v => k v
  | none => .error e

/-- The FPU group (R67, R68). -/
def fpu (n : Nat) : Except DecodeError Instr :=
  match bits n 0 6 with
  | 0 => need (fpFmt n) .limits fun f => chk true (.fadd (d n) (a n) (b n) f)
  | 1 => need (fpFmt n) .limits fun f => chk true (.fsub (d n) (a n) (b n) f)
  | 2 => need (fpFmt n) .limits fun f => chk true (.fmul (d n) (a n) (b n) f)
  | 3 => need (fpFmt n) .limits fun f => chk true (.ffma (d n) (a n) (b n) f)
  | 4 => need (fpFmt n) .limits fun f => chk true (.fdiv (d n) (a n) (b n) f)
  | 6 => need (fpFmt n) .limits fun f => chk true (.fmin (d n) (a n) (b n) f)
  | 7 => need (fpFmt n) .limits fun f => chk true (.fmax (d n) (a n) (b n) f)
  | 8 => need (fpFmt n) .limits fun f => chk true (.fcmpeq (d n) (a n) (b n) f)
  | 9 => need (fpFmt n) .limits fun f => chk true (.fcmplt (d n) (a n) (b n) f)
  | 10 => need (fpFmt n) .limits fun f => chk true (.fcmple (d n) (a n) (b n) f)
  | 5 => need (fpFmt n) .limits fun f => chk (z n 11 5) (.fsqrt (d n) (a n) f)
  | 12 => need (fpFmt n) .limits fun f => chk (z n 11 5) (.fclass (d n) (a n) f)
  | 13 => need (fpFmt n) .limits fun f => chk (z n 11 5) (.fneg (d n) (a n) f)
  | 14 => need (fpFmt n) .limits fun f => chk (z n 11 5) (.fabs (d n) (a n) f)
  | 11 => need (cvtSrc n) .limits fun s => need (Machine.fmtOfCode (fieldAt n 11 4)) .limits fun t =>
      chk true (.fcvt (d n) (a n) s t (bitAt n 15))
  | _ => .error .sub

/-- AMO (R70): aop in [6:3], use in [2:0]. -/
def amo (n : Nat) : Except DecodeError Instr :=
  match bits n 3 4 with
  | 0 => need (amoUse n) .sub fun u => chk true (.amoAdd (d n) (bf n) (x n) (amoB n) u)
  | 1 => need (amoUse n) .sub fun u => chk true (.amoAnd (d n) (bf n) (x n) (amoB n) u)
  | 2 => need (amoUse n) .sub fun u => chk true (.amoOr (d n) (bf n) (x n) (amoB n) u)
  | 3 => need (amoUse n) .sub fun u => chk true (.amoXor (d n) (bf n) (x n) (amoB n) u)
  | 4 => need (amoUse n) .sub fun u => chk true (.amoMax (d n) (bf n) (x n) (amoB n) u)
  | 5 => need (amoUse n) .sub fun u => chk true (.amoMin (d n) (bf n) (x n) (amoB n) u)
  | 6 => need (amoUse n) .sub fun u => chk true (.amoMaxu (d n) (bf n) (x n) (amoB n) u)
  | 7 => need (amoUse n) .sub fun u => chk true (.amoMinu (d n) (bf n) (x n) (amoB n) u)
  | 8 => need (amoUse n) .sub fun u => chk true (.amoSwap (d n) (bf n) (x n) (amoB n) u)
  | 9 => need (amoUse n) .sub fun u => chk true (.amoCas (d n) (bf n) (x n) (amoB n) u)
  | 10 => need (amoUse n) .sub fun u => chk (z n 7 5) (.amoLoad (d n) (bf n) (x n) u)
  | 11 => need (amoUse n) .sub fun u => chk (z n 21 5) (.amoStore (bf n) (x n) (amoB n) u)
  | _ => .error .sub

/-- The SYS group (R72, R134). -/
def sys (n : Nat) : Except DecodeError Instr :=
  match bits n 5 6 with
  | 0 => chk (z n 16 5) (.csrrd (d n) (BitVec.ofNat 10 (bits n 11 5 * 32 + bits n 0 5)))
  | 1 => chk true (.csrwr (d n) (a n) (BitVec.ofNat 10 (bits n 11 5 * 32 + bits n 0 5)))
  | 2 => chk true (.csrset (d n) (a n) (BitVec.ofNat 10 (bits n 11 5 * 32 + bits n 0 5)))
  | 3 => chk true (.csrclr (d n) (a n) (BitVec.ofNat 10 (bits n 11 5 * 32 + bits n 0 5)))
  | 4 => chk (z n 11 15) (.trap (k n))
  | 5 => chk (z n 11 15 && z n 0 5) .eret
  | 6 => chk (z n 21 5) (.tlbinv (a n) (b n) (k n))
  | 7 => chk (z n 11 15 && z n 0 5) .iflush
  | 8 => chk (z n 21 5 && z n 11 5) (.bfld (a n) (k n))
  | 9 => chk (z n 21 5 && z n 11 5) (.bfst (a n) (k n))
  | 10 => chk (z n 11 15 && z n 0 5) .nop
  | 11 => chk (z n 11 15 && z n 0 5) .halt
  | _ => .error .sub

/-- The TASK group (R72, R143). -/
def task (n : Nat) : Except DecodeError Instr :=
  match bits n 5 6 with
  | 0 => chk true (.send (d n) (a n) (b n) (k n))
  | 1 => chk true (.sendm (d n) (a n) (b n) (k n))
  | 2 => chk (z n 11 15 && z n 0 5) .tend
  | 3 => chk (z n 11 15 && z n 1 4) (.tabort (bitAt n 0))
  | 4 => chk (z n 21 5 && z n 0 5) (.chcfg (a n) (b n))
  | 5 => chk (z n 21 5 && z n 11 5 && z n 0 5) (.chmask (a n))
  | 6 => chk (z n 21 5 && z n 11 5 && z n 0 5) (.chunmask (a n))
  | 7 => chk (z n 21 5 && z n 11 5 && z n 0 5) (.tsset (a n))
  | 8 => chk (z n 11 5) (.launch (d n) (a n) (k n))
  | _ => .error .sub

/-- The counter number of the SYNC group, b[2:0]:k (R130). -/
def sc (n : Nat) : BitVec 8 := BitVec.ofNat 8 (bits n 11 3 * 32 + bits n 0 5)

/-- The SYNC group (R72, R150). -/
def sync (n : Nat) : Except DecodeError Instr :=
  match bits n 5 6 with
  | 0 => chk (z n 16 5 && z n 14 2) (.scread (d n) (sc n))
  | 1 => chk (z n 21 5 && z n 14 2) (.scinc (a n) (sc n))
  | 2 => chk (z n 14 2) (.scarm (d n) (a n) (sc n))
  | 3 => chk (z n 14 2) (.scexpect (d n) (a n) (sc n))
  | 4 => chk (z n 21 5 && z n 14 2) (.scmode (a n) (sc n))
  | 5 => chk (z n 21 5 && z n 11 5) (.barv (a n) (k n))
  | 6 => chk (z n 21 5 && z n 11 5) (.barcfg (a n) (k n))
  | _ => .error .sub

/-- The ENGINE group (R72, R156). -/
def engine (n : Nat) : Except DecodeError Instr :=
  match bits n 5 6 with
  | 0 => chk (z n 11 5) (.enq (d n) (a n) (k n))
  | 1 => chk (z n 11 5 && z n 0 5) (.jobst (d n) (a n))
  | 2 => chk (z n 21 5 && z n 0 5) (.jobarm (a n) (b n))
  | 3 => chk (z n 11 5 && z n 0 5) (.osclaim (d n) (a n))
  | 4 => chk (z n 21 5 && z n 0 5) (.osfree (a n) (b n))
  | 5 => chk (z n 11 5 && z n 0 5) (.jobresume (d n) (a n))
  | 6 => chk (z n 11 5 && z n 0 5) (.jobcancel (d n) (a n))
  | _ => .error .sub

/-- The CFLOW group (R72, R222). -/
def cflow (n : Nat) : Except DecodeError Instr :=
  match bits n 5 6 with
  | 0 => chk (z n 11 5 && z n 0 5) (.cfopen (d n) (a n))
  | 1 => chk (z n 11 5 && z n 0 5) (.cfnext (d n) (a n))
  | 2 => chk (z n 11 5 && z n 0 5) (.cfexpect (d n) (a n))
  | 3 => chk (z n 11 5 && z n 0 5) (.cfpost (d n) (a n))
  | 4 => chk (z n 11 5 && z n 0 5) (.cfread (d n) (a n))
  | 5 => chk (z n 11 5 && z n 0 5) (.cfseal (d n) (a n))
  | 7 => chk (z n 11 5 && z n 0 5) (.exitmark (d n) (a n))
  | 6 => chk (z n 11 5) (.cfstat (d n) (a n) (k n))
  | 8 => chk (z n 0 5) (.confx (d n) (a n) (b n))
  | _ => .error .sub

/-- The GROUP group (R72, R251). -/
def group (n : Nat) : Except DecodeError Instr :=
  match bits n 5 6 with
  | 0 => chk (z n 0 5) (.gstore (d n) (a n) (b n))
  | 1 => chk (z n 11 5 && z n 0 5) (.grdy (d n) (a n))
  | 2 => chk (z n 11 5 && z n 0 5) (.gpull (d n) (a n))
  | 3 => chk (z n 11 5) (.gcnt (d n) (a n) (k n))
  | 4 => chk (z n 11 5 && z n 0 5) (.gcfg (d n) (a n))
  | _ => .error .sub

/-- The ROUTE group (R72, R246, R266). -/
def route (n : Nat) : Except DecodeError Instr :=
  match bits n 5 6 with
  | 0 => chk (z n 0 5) (.hsift (d n) (a n) (b n))
  | 1 => chk (z n 1 4) (.htopk (d n) (a n) (b n) (bitAt n 0))
  | 2 => chk (z n 11 5 && z n 1 4) (.rcupd (d n) (a n) (bitAt n 0))
  | _ => .error .sub

/-- The KV group (R72, R234). -/
def kv (n : Nat) : Except DecodeError Instr :=
  match bits n 5 6 with
  | 0 => chk (z n 11 5 && z n 0 5) (.kvfork (d n) (a n))
  | 1 => chk (z n 11 5 && z n 0 5) (.kvput (d n) (a n))
  | 2 => chk (z n 11 5 && z n 0 5) (.kvpub (d n) (a n))
  | 3 => chk (z n 11 5 && z n 0 5) (.kvstat (d n) (a n))
  | 4 => chk (z n 11 5 && z n 0 5) (.kvfree (d n) (a n))
  | _ => .error .sub

/-- VMLOGIC, its operation in the m field (R171). -/
def vmlogic (n : Nat) : Except DecodeError Instr :=
  let md : BitVec 3 := fieldAt n 21 3
  let ma : BitVec 3 := fieldAt n 16 3
  let mb : BitVec 3 := fieldAt n 11 3
  match bits n 8 3 with
  | 0 => chk (z n 24 2 && z n 19 2 && z n 14 2 && z n 4 4) (.vmlogicAnd md ma mb)
  | 1 => chk (z n 24 2 && z n 19 2 && z n 14 2 && z n 4 4) (.vmlogicOr md ma mb)
  | 2 => chk (z n 24 2 && z n 19 2 && z n 14 2 && z n 4 4) (.vmlogicXor md ma mb)
  | 3 => chk (z n 24 2 && z n 19 2 && z n 14 2 && z n 4 4) (.vmlogicAndn md ma mb)
  | 4 => chk (z n 24 2 && z n 19 2 && z n 11 5 && z n 4 4) (.vmlogicNot md ma)
  | 5 => chk (z n 24 2 && z n 19 2 && z n 11 5 && z n 4 4) (.vmlogicMov md ma)
  | 6 => chk (z n 24 2 && z n 11 10 && z n 4 4) (.vmlogicSet md)
  | 7 => chk (z n 24 2 && z n 11 10 && z n 4 4) (.vmlogicClr md)
  | _ => .error .sub

/-- The VCTL group (R74, R168). -/
def vctl (n : Nat) : Except DecodeError Instr :=
  match bits n 0 4 with
  | 0 => chk (z n 4 7) (.vclaim (d n) (a n) (b n))
  | 1 => chk (z n 4 17) (.vsync (d n))
  | 2 => chk (z n 4 22) .vfree
  | 3 => vmlogic n
  | 4 => chk (z n 19 2 && z n 4 12) (.vmpop (d n) (fieldAt n 16 3))
  | 5 => need (vFmt n) .limits fun f => chk true (.viota (d n) (a n) (b n) (m n) f)
  | _ => .error .sub

/-- The VLS group (R74, R168). -/
def vls (n : Nat) : Except DecodeError Instr :=
  match bits n 0 4 with
  | 0 => need (vFmt n) .limits fun f => chk (z n 20 1) (.vld (d n) (fieldAt n 16 4) (b n) (m n) f)
  | 1 => need (vFmt n) .limits fun f => chk (z n 20 1) (.vst (d n) (fieldAt n 16 4) (b n) (m n) f)
  | 2 => need (vFmt n) .limits fun f => chk (z n 20 1) (.vlds (d n) (fieldAt n 16 4) (b n) (m n) f)
  | 3 => need (vFmt n) .limits fun f => chk (z n 20 1) (.vsts (d n) (fieldAt n 16 4) (b n) (m n) f)
  | 4 => need (vFmt n) .limits fun f => chk (z n 20 1) (.vldx (d n) (fieldAt n 16 4) (b n) (m n) f)
  | 5 => need (vFmt n) .limits fun f => chk (z n 20 1) (.vstx (d n) (fieldAt n 16 4) (b n) (m n) f)
  | 6 => need (vFmt n) .limits fun f => chk (z n 11 5) (.vbcast (d n) (a n) (m n) f)
  | 7 => need (vFmt n) .limits fun f => chk (z n 8 3) (.vextr (d n) (a n) (b n) f)
  | 8 => need (vFmt n) .limits fun f => chk (z n 8 3) (.vins (d n) (a n) (b n) f)
  | _ => .error .sub

/-- The VARITH group (R74, R168). -/
def varith (n : Nat) : Except DecodeError Instr :=
  match bits n 0 4 with
  | 0 => need (vFmt n) .limits fun f => chk true (.vadd (d n) (a n) (b n) (m n) f)
  | 1 => need (vFmt n) .limits fun f => chk true (.vsub (d n) (a n) (b n) (m n) f)
  | 2 => need (vFmt n) .limits fun f => chk true (.vmul (d n) (a n) (b n) (m n) f)
  | 3 => need (vFmt n) .limits fun f => chk true (.vfma (d n) (a n) (b n) (m n) f)
  | 4 => need (vFmt n) .limits fun f => chk true (.vmin (d n) (a n) (b n) (m n) f)
  | 5 => need (vFmt n) .limits fun f => chk true (.vmax (d n) (a n) (b n) (m n) f)
  | 8 => need (vFmt n) .limits fun f => chk true (.vand (d n) (a n) (b n) (m n) f)
  | 9 => need (vFmt n) .limits fun f => chk true (.vor (d n) (a n) (b n) (m n) f)
  | 10 => need (vFmt n) .limits fun f => chk true (.vxor (d n) (a n) (b n) (m n) f)
  | 11 => need (vFmt n) .limits fun f => chk true (.vshl (d n) (a n) (b n) (m n) f)
  | 12 => need (vFmt n) .limits fun f => chk true (.vshr (d n) (a n) (b n) (m n) f)
  | 15 => need (vFmt n) .limits fun f => chk true (.vsel (d n) (a n) (b n) (m n) f)
  | 6 => need (vFmt n) .limits fun f => chk (z n 11 5) (.vabs (d n) (a n) (m n) f)
  | 7 => need (vFmt n) .limits fun f => chk (z n 11 5) (.vneg (d n) (a n) (m n) f)
  | 13 => need (vFmt n) .limits fun f => chk (z n 24 2) (.vcmpeq (fieldAt n 21 3) (a n) (b n) (m n) f)
  | 14 => need (vFmt n) .limits fun f => chk (z n 24 2) (.vcmplt (fieldAt n 21 3) (a n) (b n) (m n) f)
  | _ => .error .sub

/-- The VSFU group (R74, R168). -/
def vsfu (n : Nat) : Except DecodeError Instr :=
  match bits n 0 4 with
  | 0 => need (vFmt n) .limits fun f => chk (z n 11 5) (.vexp2 (d n) (a n) (m n) f)
  | 1 => need (vFmt n) .limits fun f => chk (z n 11 5) (.vlog2 (d n) (a n) (m n) f)
  | 2 => need (vFmt n) .limits fun f => chk (z n 11 5) (.vrcp (d n) (a n) (m n) f)
  | 3 => need (vFmt n) .limits fun f => chk (z n 11 5) (.vrsqrt (d n) (a n) (m n) f)
  | 4 => need (vFmt n) .limits fun f => chk (z n 11 5) (.vsqrt (d n) (a n) (m n) f)
  | _ => .error .sub

/-- The VCVT group (R74, R168): the vb field of VCVT holds the source code and SAT. -/
def vcvt (n : Nat) : Except DecodeError Instr :=
  match bits n 0 4 with
  | 0 => need (Machine.fmtOfCode (fieldAt n 11 4)) .limits fun s => need (vFmt n) .limits fun f =>
      chk true (.vcvt (d n) (a n) s (bitAt n 15) (m n) f)
  | 1 => need (vFmt n) .limits fun f => chk true (.vqnt (d n) (a n) (b n) (m n) f)
  | 2 => need (vFmt n) .limits fun f => chk true (.vdqnt (d n) (a n) (b n) (m n) f)
  | 3 => need (vFmt n) .limits fun f => chk true (.vtern (d n) (a n) (b n) (m n) f)
  | _ => .error .sub

/-- The VRED group (R74, R168, R244, R245). -/
def vred (n : Nat) : Except DecodeError Instr :=
  match bits n 0 4 with
  | 0 => need (vFmt n) .limits fun f => chk (z n 11 5) (.vredsum (d n) (a n) (m n) f)
  | 1 => need (vFmt n) .limits fun f => chk (z n 11 5) (.vredmax (d n) (a n) (m n) f)
  | 2 => need (vFmt n) .limits fun f => chk (z n 11 5) (.vredmin (d n) (a n) (m n) f)
  | 3 => need (vFmt n) .limits fun f => chk (z n 11 5) (.vredamax (d n) (a n) (m n) f)
  | 4 => need (vFmt n) .limits fun f => chk (z n 11 5) (.vscan (d n) (a n) (m n) f)
  | 5 => need (vFmt n) .limits fun f => chk true (.vperm (d n) (a n) (b n) (m n) f)
  | 6 => need (vFmt n) .limits fun f => chk true (.vslide (d n) (a n) (b n) (m n) f)
  | 7 => chk (bits n 4 4 == 1) (.abound (d n) (a n) (b n) (m n))
  | 8 => chk (bits n 4 4 == 1 && z n 8 3) (.audchk (d n) (a n) (b n))
  | _ => .error .sub

/-- Every element instruction, by its major opcode (R64). -/
def word (n : Nat) : Except DecodeError Instr :=
  match bits n 26 6 with
  | 0x00 => int n
  | 0x01 => chk true (.addi (d n) (a n) (imm n))
  | 0x02 => chk true (.andi (d n) (a n) (imm n))
  | 0x03 => chk true (.ori (d n) (a n) (imm n))
  | 0x04 => chk true (.xori (d n) (a n) (imm n))
  | 0x05 => chk true (.slti (d n) (a n) (imm n))
  | 0x06 => chk true (.sltiu (d n) (a n) (imm n))
  | 0x09 => chk true (.orih (d n) (a n) (imm n))
  | 0x0b => chk true (.orit (d n) (a n) (imm n))
  | 0x07 => chk (z n 16 5) (.lui (d n) (imm n))
  | 0x08 => shi n
  | 0x0a => fpu n
  | 0x10 => chk true (.ldb (d n) (bf n) (x n) (disp12 n))
  | 0x11 => chk true (.ldbu (d n) (bf n) (x n) (disp12 n))
  | 0x12 => chk true (.ldh (d n) (bf n) (x n) (disp12 n))
  | 0x13 => chk true (.ldhu (d n) (bf n) (x n) (disp12 n))
  | 0x14 => chk true (.ldw (d n) (bf n) (x n) (disp12 n))
  | 0x15 => chk true (.ldwu (d n) (bf n) (x n) (disp12 n))
  | 0x16 => chk true (.ldd (d n) (bf n) (x n) (disp12 n))
  | 0x18 => chk true (.stb (d n) (bf n) (x n) (disp12 n))
  | 0x19 => chk true (.sth (d n) (bf n) (x n) (disp12 n))
  | 0x1a => chk true (.stw (d n) (bf n) (x n) (disp12 n))
  | 0x1b => chk true (.std (d n) (bf n) (x n) (disp12 n))
  | 0x1c => chk true (.ldm (d n) (bf n) (x n) (disp12 n))
  | 0x1d => chk true (.stm (d n) (bf n) (x n) (disp12 n))
  | 0x1e => amo n
  | 0x1f => chk (z n 2 24) (.fence (fieldAt n 0 2))
  | 0x20 => chk true (.beq (d n) (a n) (bitAt n 15) (disp15 n))
  | 0x21 => chk true (.bne (d n) (a n) (bitAt n 15) (disp15 n))
  | 0x22 => chk true (.blt (d n) (a n) (bitAt n 15) (disp15 n))
  | 0x23 => chk true (.bge (d n) (a n) (bitAt n 15) (disp15 n))
  | 0x24 => chk true (.bltu (d n) (a n) (bitAt n 15) (disp15 n))
  | 0x25 => chk true (.bgeu (d n) (a n) (bitAt n 15) (disp15 n))
  | 0x28 => chk (z n 25 1) (.j (disp25 n))
  | 0x29 => chk (z n 25 1) (.jal (disp25 n))
  | 0x2a => chk (z n 21 5) (.jr (a n) (imm n))
  | 0x2b => chk true (.jalr (d n) (a n) (imm n))
  | 0x30 => sys n
  | 0x31 => task n
  | 0x32 => sync n
  | 0x33 => engine n
  | 0x34 => cflow n
  | 0x35 => group n
  | 0x36 => route n
  | 0x37 => kv n
  | 0x38 => vctl n
  | 0x39 => vls n
  | 0x3a => varith n
  | 0x3b => vsfu n
  | 0x3c => vcvt n
  | 0x3d => vred n
  | _ => .error .major

/-! Command words (R78, R79): dword i of the 256-bit value starts at bit 64 i. -/

/-- The common header, and whether its fields pass the checks of R80 that need no state. -/
def hdr (n : Nat) : Option CmdHdr :=
  let waiten := bitAt n 11
  let sigen := bitAt n 12
  let doneb := bitAt n 13
  if bits n 14 2 != 0 || bits n 78 2 != 0 then none
  else if !waiten && bits n 16 40 != 0 then none
  else if !sigen && (bits n 56 8 != 0 || bits n 64 8 != 0) then none
  else if !doneb && bits n 72 6 != 0 then none
  else some
    { prio := fieldAt n 8 3
      wait := if waiten then some (fieldAt n 16 8, fieldAt n 24 32) else none
      sig := if sigen then some (fieldAt n 56 8, fieldAt n 64 8) else none
      done := if doneb then some (fieldAt n 72 6) else none }

/-- Accept a command when its rsv bits are zero and its fields are within their limits (R80). -/
def chkCmd (rsv : Bool) (i : Instr) : Option Instr := if rsv && i.wf then some i else none

/-- The format code at a place of a command word. -/
def fmtAt (n lo : Nat) : Option Fmt := Machine.fmtOfCode (fieldAt n lo 4)

/-- The commands, by opcode (R79, R197, R211, R238, R241, R261, R268). -/
def cmdBody (n : Nat) (h : CmdHdr) : Option Instr :=
  match bits n 0 8 with
  | 0x01 => chkCmd (z n 96 32 && z n 192 64) (.mfill h (fieldAt n 80 8) (fieldAt n 88 8) (fieldAt n 128 64))
  | 0x02 => (fmtAt n 88).bind fun f => chkCmd (z n 92 164) (.mwload h (fieldAt n 80 8) f)
  | 0x03 => (fmtAt n 88).bind fun f => chkCmd (z n 100 28 && z n 154 38) (.mstream h (bitAt n 80) (bitAt n 81) (fieldAt n 82 6) f (fieldAt n 92 8) (fieldAt n 128 13) (fieldAt n 141 13) (fieldAt n 192 64))
  | 0x04 => chkCmd (z n 80 2 && z n 88 40 && z n 154 102) (.mzero h (fieldAt n 82 6) (fieldAt n 128 13) (fieldAt n 141 13))
  | 0x05 => (fmtAt n 88).bind fun f => chkCmd (z n 95 1 && z n 154 38) (.mstore h (fieldAt n 80 2) (fieldAt n 82 6) f (fieldAt n 92 2) (bitAt n 94) (fieldAt n 96 32) (fieldAt n 128 13) (fieldAt n 141 13) (fieldAt n 192 64))
  | 0x06 => (fmtAt n 88).bind fun f => chkCmd (z n 80 2 && z n 92 36 && z n 154 38) (.mloadacc h (fieldAt n 82 6) f (fieldAt n 128 13) (fieldAt n 141 13) (fieldAt n 192 64))
  | 0x07 => chkCmd (z n 81 15 && z n 142 18) (.msave h (bitAt n 80) (fieldAt n 96 32) (fieldAt n 128 14) (fieldAt n 160 32) (fieldAt n 192 64))
  | 0x08 => chkCmd (z n 80 112) (.mrestore h (fieldAt n 192 64))
  | 0x20 => chkCmd (z n 82 46) (.cpy h (bitAt n 80) (bitAt n 81) (fieldAt n 128 64) (fieldAt n 192 64))
  | 0x21 => chkCmd (z n 109 19 && z n 214 42) (.cpym h (fieldAt n 80 8) (fieldAt n 88 8) (fieldAt n 96 2) (bitAt n 98) (bitAt n 99) (bitAt n 100) (fieldAt n 101 8) (fieldAt n 128 64) (fieldAt n 192 22))
  | 0x22 => chkCmd (z n 82 46) (.cpyg h (bitAt n 80) (bitAt n 81) (fieldAt n 128 64) (fieldAt n 192 64))
  | 0x23 => chkCmd (z n 82 46) (.cpys h (bitAt n 80) (bitAt n 81) (fieldAt n 128 64) (fieldAt n 192 64))
  | 0x24 => chkCmd (z n 98 30) (.cpypg h (fieldAt n 80 16) (fieldAt n 96 2) (fieldAt n 128 64) (fieldAt n 192 64))
  | 0x25 => chkCmd (z n 80 48) (.cpyfill h (fieldAt n 128 64) (fieldAt n 192 64))
  | 0x26 => chkCmd (z n 81 47) (.cpymsg h (bitAt n 80) (fieldAt n 128 64) (fieldAt n 192 64))
  | 0x27 => chkCmd (z n 84 44) (.kvgather h (bitAt n 80) (bitAt n 81) (fieldAt n 82 2) (fieldAt n 128 64) (fieldAt n 192 64))
  | 0x40 => chkCmd (z n 113 15 && z n 192 64) (.bfill h (fieldAt n 80 16) (fieldAt n 96 16) (bitAt n 112) (fieldAt n 128 64))
  | 0x41 => chkCmd (z n 80 48 && z n 192 64) (.bfcancel h (fieldAt n 128 64))
  | 0x60 => chkCmd (z n 80 48 && z n 224 32) (.rcsnap h (fieldAt n 128 64) (fieldAt n 192 32))
  | 0x61 => chkCmd (z n 80 48 && z n 197 3 && z n 208 48) (.rcxchg h (fieldAt n 128 64) (fieldAt n 192 5) (fieldAt n 200 8))
  | 0x62 => chkCmd (z n 80 48 && z n 192 64) (.rcpeel h (fieldAt n 128 64))
  | 0x63 => chkCmd (z n 80 48 && z n 192 64) (.rcfetch h (fieldAt n 128 64))
  | 0x64 => chkCmd (z n 80 48 && z n 192 8 && z n 208 48) (.rcround h (fieldAt n 128 64) (fieldAt n 200 8))
  | 0x70 => chkCmd (z n 112 16 && z n 170 22) (.gallred h (fieldAt n 80 8) (fieldAt n 88 8) (fieldAt n 96 16) (fieldAt n 128 32) (fieldAt n 160 10) (fieldAt n 192 64))
  | 0x71 => chkCmd (z n 112 16 && z n 170 22) (.gallgath h (fieldAt n 80 8) (fieldAt n 88 8) (fieldAt n 96 16) (fieldAt n 128 32) (fieldAt n 160 10) (fieldAt n 192 64))
  | 0x72 => chkCmd (z n 118 10 && z n 170 22) (.gbcast h (fieldAt n 80 8) (fieldAt n 88 8) (fieldAt n 96 16) (fieldAt n 112 6) (fieldAt n 128 32) (fieldAt n 160 10) (fieldAt n 192 64))
  | _ => none

/-- The engine number an opcode is assigned to (R79). -/
def engineOf (opc : Nat) : Option Nat :=
  if 0x01 ≤ opc ∧ opc ≤ 0x08 then some 0
  else if 0x20 ≤ opc ∧ opc ≤ 0x27 then some 1
  else if 0x40 ≤ opc ∧ opc ≤ 0x41 then some 2
  else if 0x60 ≤ opc ∧ opc ≤ 0x64 then some 3
  else if 0x70 ≤ opc ∧ opc ≤ 0x72 then some 4
  else none

end Decode

/-- The instruction of a 32-bit word, or why it is refused (R62 to R76). -/
def decodeWord (w : BitVec 32) : Except DecodeError Instr := Decode.word w.toNat

/-- The command of a 256-bit command word, or none where R80 refuses it whatever the state. -/
def decodeCmd (w : BitVec 256) : Option Instr := (Decode.hdr w.toNat).bind (Decode.cmdBody w.toNat)

/-- The instruction at the head of a list of bytes, least significant byte first (R92), with the rest of the list. -/
def decodeBytes : List Byte → Except DecodeError (Instr × List Byte)
  | b0 :: b1 :: b2 :: b3 :: rest =>
    match decodeWord (BitVec.ofNat 32 (b0.toNat + b1.toNat * 2 ^ 8 + b2.toNat * 2 ^ 16 + b3.toNat * 2 ^ 24)) with
    | .ok i => .ok (i, rest)
    | .error e => .error e
  | _ => .error .short

/-- The bytes of a 32-bit word as the hardware stores them (R92). -/
def wordBytes (n : Nat) : List Byte :=
  [BitVec.ofNat 8 n, BitVec.ofNat 8 (n / 2 ^ 8), BitVec.ofNat 8 (n / 2 ^ 16), BitVec.ofNat 8 (n / 2 ^ 24)]

/-- What the decoder reads from an instruction whose bits, in the opcode table's numbering, are w: the word laid out as four
bytes for an element instruction, the 256-bit value for a command; none for a row that the table gives no bits. -/
def decodeTableWord (nbits w : Nat) : Option Instr :=
  if nbits == 0 then none
  else if nbits ≤ 32 then
    match decodeBytes (wordBytes (w % 2 ^ nbits)) with
    | .ok (i, _) => some i
    | .error _ => none
  else decodeCmd (BitVec.ofNat 256 (w % 2 ^ nbits))

namespace Encode

/-- A word of the R format: op, d, a, b, sh, fn (R62). -/
def r (op : Nat) (d a b sh : BitVec 5) (fn : Nat) : BitVec 32 :=
  BitVec.ofNat 32 (op * 2 ^ 26 + d.toNat * 2 ^ 21 + a.toNat * 2 ^ 16 + b.toNat * 2 ^ 11 + sh.toNat * 2 ^ 6 + fn)

/-- A word of the I format: op, d, a, imm16. -/
def i (op : Nat) (d a : Reg) (imm : Nat) : BitVec 32 :=
  BitVec.ofNat 32 (op * 2 ^ 26 + d.toNat * 2 ^ 21 + a.toNat * 2 ^ 16 + imm)

/-- A word of the M format: op, d, bf, x, disp12. -/
def mm (op : Nat) (d : Reg) (bf : BitVec 4) (x : Reg) (disp : BitVec 12) : BitVec 32 :=
  BitVec.ofNat 32 (op * 2 ^ 26 + d.toNat * 2 ^ 21 + bf.toNat * 2 ^ 17 + x.toNat * 2 ^ 12 + disp.toNat)

/-- The code of a use (R70). -/
def useCode : AmoUse → Nat
  | .spec => 0 | .unp => 1 | .comm => 2 | .nord => 3 | .quant => 4

/-- A word of the A format: d, bf, x, b, aop, use. -/
def am (d : Reg) (bf : BitVec 4) (x b : Reg) (aop : Nat) (u : AmoUse) : BitVec 32 :=
  BitVec.ofNat 32 (0x1e * 2 ^ 26 + d.toNat * 2 ^ 21 + bf.toNat * 2 ^ 17 + x.toNat * 2 ^ 12 + b.toNat * 2 ^ 7 + aop * 2 ^ 3 + useCode u)

/-- A word of the B format: op, a, b, n, disp15. -/
def br (op : Nat) (a b : Reg) (n : Bool) (disp : BitVec 15) : BitVec 32 :=
  BitVec.ofNat 32 (op * 2 ^ 26 + a.toNat * 2 ^ 21 + b.toNat * 2 ^ 16 + bitVal n * 2 ^ 15 + disp.toNat)

/-- A word of the S format: op, d, a, b, sub, k. -/
def s (op : Nat) (d a b : BitVec 5) (sub k : Nat) : BitVec 32 :=
  BitVec.ofNat 32 (op * 2 ^ 26 + d.toNat * 2 ^ 21 + a.toNat * 2 ^ 16 + b.toNat * 2 ^ 11 + sub * 2 ^ 5 + k)

/-- A word of the V format: op, vd, va, vb, m, fmt, fn. -/
def v (op : Nat) (vd va vb : BitVec 5) (m : BitVec 3) (f fn : Nat) : BitVec 32 :=
  BitVec.ofNat 32 (op * 2 ^ 26 + vd.toNat * 2 ^ 21 + va.toNat * 2 ^ 16 + vb.toNat * 2 ^ 11 + m.toNat * 2 ^ 8 + f * 2 ^ 4 + fn)

/-- The sh code of an FPU format (R67). -/
def fpCode : FpFmt → BitVec 5
  | .fp32 => 0 | .fp64 => 1 | .bf16 => 2

/-- The sh code of an FCVT source (R68). -/
def srcCode : CvtSrc → BitVec 5
  | .fp32 => 0 | .fp64 => 1 | .bf16 => 2 | .int32 => 3 | .int64 => 4 | .uint32 => 5

/-- The number of a format code. -/
def fc (f : Fmt) : Nat := (Machine.fmtCode f).toNat

/-- A narrower field, in five bits. -/
def w5 (n : Nat) : BitVec 5 := BitVec.ofNat 5 n

/-- The common header of a command word as a number (R78). -/
def hdr (h : CmdHdr) (opc : Nat) : Nat :=
  opc + h.prio.toNat * 2 ^ 8
    + (match h.wait with | some (c, t) => 2 ^ 11 + c.toNat * 2 ^ 16 + t.toNat * 2 ^ 24 | none => 0)
    + (match h.sig with | some (c, i) => 2 ^ 12 + c.toNat * 2 ^ 56 + i.toNat * 2 ^ 64 | none => 0)
    + (match h.done with | some ch => 2 ^ 13 + ch.toNat * 2 ^ 72 | none => 0)

end Encode

open Encode in
/-- The word of a well-formed element instruction (R62 to R74); none for commands and events. -/
def encodeWord : Instr → Option (BitVec 32)
  | .add d a b => some (r 0x00 d a b 0 0)
  | .sub d a b => some (r 0x00 d a b 0 1)
  | .and d a b => some (r 0x00 d a b 0 2)
  | .or d a b => some (r 0x00 d a b 0 3)
  | .xor d a b => some (r 0x00 d a b 0 4)
  | .andn d a b => some (r 0x00 d a b 0 5)
  | .sll d a b => some (r 0x00 d a b 0 6)
  | .srl d a b => some (r 0x00 d a b 0 7)
  | .sra d a b => some (r 0x00 d a b 0 8)
  | .slt d a b => some (r 0x00 d a b 0 9)
  | .sltu d a b => some (r 0x00 d a b 0 10)
  | .min d a b => some (r 0x00 d a b 0 11)
  | .max d a b => some (r 0x00 d a b 0 12)
  | .minu d a b => some (r 0x00 d a b 0 13)
  | .maxu d a b => some (r 0x00 d a b 0 14)
  | .mul d a b => some (r 0x00 d a b 0 15)
  | .mulh d a b => some (r 0x00 d a b 0 16)
  | .mulhu d a b => some (r 0x00 d a b 0 17)
  | .div d a b => some (r 0x00 d a b 0 18)
  | .divu d a b => some (r 0x00 d a b 0 19)
  | .rem d a b => some (r 0x00 d a b 0 20)
  | .remu d a b => some (r 0x00 d a b 0 21)
  | .clz d a => some (r 0x00 d a 0 0 22)
  | .ctz d a => some (r 0x00 d a 0 0 23)
  | .popc d a => some (r 0x00 d a 0 0 24)
  | .lea d a b sh => some (r 0x00 d a b sh 25)
  | .cmovz d a b => some (r 0x00 d a b 0 26)
  | .cmovnz d a b => some (r 0x00 d a b 0 27)
  | .exts d a sh => some (r 0x00 d a 0 sh 28)
  | .extz d a sh => some (r 0x00 d a 0 sh 29)
  | .addi d a imm => some (i 0x01 d a imm.toNat)
  | .andi d a imm => some (i 0x02 d a imm.toNat)
  | .ori d a imm => some (i 0x03 d a imm.toNat)
  | .xori d a imm => some (i 0x04 d a imm.toNat)
  | .slti d a imm => some (i 0x05 d a imm.toNat)
  | .sltiu d a imm => some (i 0x06 d a imm.toNat)
  | .lui d imm => some (i 0x07 d 0 imm.toNat)
  | .slli d a amt => some (i 0x08 d a (0 * 2 ^ 6 + amt.toNat))
  | .srli d a amt => some (i 0x08 d a (1 * 2 ^ 6 + amt.toNat))
  | .srai d a amt => some (i 0x08 d a (2 * 2 ^ 6 + amt.toNat))
  | .orih d a imm => some (i 0x09 d a imm.toNat)
  | .orit d a imm => some (i 0x0b d a imm.toNat)
  | .fadd d a b f => some (r 0x0a d a b (fpCode f) 0)
  | .fsub d a b f => some (r 0x0a d a b (fpCode f) 1)
  | .fmul d a b f => some (r 0x0a d a b (fpCode f) 2)
  | .ffma d a b f => some (r 0x0a d a b (fpCode f) 3)
  | .fdiv d a b f => some (r 0x0a d a b (fpCode f) 4)
  | .fsqrt d a f => some (r 0x0a d a 0 (fpCode f) 5)
  | .fmin d a b f => some (r 0x0a d a b (fpCode f) 6)
  | .fmax d a b f => some (r 0x0a d a b (fpCode f) 7)
  | .fcmpeq d a b f => some (r 0x0a d a b (fpCode f) 8)
  | .fcmplt d a b f => some (r 0x0a d a b (fpCode f) 9)
  | .fcmple d a b f => some (r 0x0a d a b (fpCode f) 10)
  | .fcvt d a src dst sat => some (r 0x0a d a (w5 (fc dst + bitVal sat * 2 ^ 4)) (srcCode src) 11)
  | .fclass d a f => some (r 0x0a d a 0 (fpCode f) 12)
  | .fneg d a f => some (r 0x0a d a 0 (fpCode f) 13)
  | .fabs d a f => some (r 0x0a d a 0 (fpCode f) 14)
  | .ldb d bf x disp => some (mm 0x10 d bf x disp)
  | .ldbu d bf x disp => some (mm 0x11 d bf x disp)
  | .ldh d bf x disp => some (mm 0x12 d bf x disp)
  | .ldhu d bf x disp => some (mm 0x13 d bf x disp)
  | .ldw d bf x disp => some (mm 0x14 d bf x disp)
  | .ldwu d bf x disp => some (mm 0x15 d bf x disp)
  | .ldd d bf x disp => some (mm 0x16 d bf x disp)
  | .stb d bf x disp => some (mm 0x18 d bf x disp)
  | .sth d bf x disp => some (mm 0x19 d bf x disp)
  | .stw d bf x disp => some (mm 0x1a d bf x disp)
  | .std d bf x disp => some (mm 0x1b d bf x disp)
  | .ldm d bf cnt disp => some (mm 0x1c d bf cnt disp)
  | .stm d bf cnt disp => some (mm 0x1d d bf cnt disp)
  | .amoAdd d bf x b use => some (am d bf x b 0 use)
  | .amoAnd d bf x b use => some (am d bf x b 1 use)
  | .amoOr d bf x b use => some (am d bf x b 2 use)
  | .amoXor d bf x b use => some (am d bf x b 3 use)
  | .amoMax d bf x b use => some (am d bf x b 4 use)
  | .amoMin d bf x b use => some (am d bf x b 5 use)
  | .amoMaxu d bf x b use => some (am d bf x b 6 use)
  | .amoMinu d bf x b use => some (am d bf x b 7 use)
  | .amoSwap d bf x b use => some (am d bf x b 8 use)
  | .amoCas d bf x b use => some (am d bf x b 9 use)
  | .amoLoad d bf x use => some (am d bf x 0 10 use)
  | .amoStore bf x b use => some (am 0 bf x b 11 use)
  | .fence scope => some (i 0x1f 0 0 scope.toNat)
  | .beq a b n disp => some (br 0x20 a b n disp)
  | .bne a b n disp => some (br 0x21 a b n disp)
  | .blt a b n disp => some (br 0x22 a b n disp)
  | .bge a b n disp => some (br 0x23 a b n disp)
  | .bltu a b n disp => some (br 0x24 a b n disp)
  | .bgeu a b n disp => some (br 0x25 a b n disp)
  | .j disp => some (BitVec.ofNat 32 (0x28 * 2 ^ 26 + disp.toNat))
  | .jal disp => some (BitVec.ofNat 32 (0x29 * 2 ^ 26 + disp.toNat))
  | .jr a imm => some (i 0x2a 0 a imm.toNat)
  | .jalr d a imm => some (i 0x2b d a imm.toNat)
  | .csrrd d csr => some (s 0x30 d 0 (w5 (csr.toNat / 32)) 0 (csr.toNat % 32))
  | .csrwr d a csr => some (s 0x30 d a (w5 (csr.toNat / 32)) 1 (csr.toNat % 32))
  | .csrset d a csr => some (s 0x30 d a (w5 (csr.toNat / 32)) 2 (csr.toNat % 32))
  | .csrclr d a csr => some (s 0x30 d a (w5 (csr.toNat / 32)) 3 (csr.toNat % 32))
  | .trap code => some (s 0x30 0 0 0 4 code.toNat)
  | .eret => some (s 0x30 0 0 0 5 0)
  | .tlbinv a b kind => some (s 0x30 0 a b 6 kind.toNat)
  | .iflush => some (s 0x30 0 0 0 7 0)
  | .bfld a n => some (s 0x30 0 a 0 8 n.toNat)
  | .bfst a n => some (s 0x30 0 a 0 9 n.toNat)
  | .nop => some (s 0x30 0 0 0 10 0)
  | .halt => some (s 0x30 0 0 0 11 0)
  | .send d a b len1 => some (s 0x31 d a b 0 len1.toNat)
  | .sendm d a b len1 => some (s 0x31 d a b 1 len1.toNat)
  | .tend => some (s 0x31 0 0 0 2 0)
  | .tabort defer => some (s 0x31 0 0 0 3 (bitVal defer))
  | .chcfg a b => some (s 0x31 0 a b 4 0)
  | .chmask a => some (s 0x31 0 a 0 5 0)
  | .chunmask a => some (s 0x31 0 a 0 6 0)
  | .tsset a => some (s 0x31 0 a 0 7 0)
  | .launch d a n => some (s 0x31 d a 0 8 n.toNat)
  | .scread d sc => some (s 0x32 d 0 (w5 (sc.toNat / 32)) 0 (sc.toNat % 32))
  | .scinc a sc => some (s 0x32 0 a (w5 (sc.toNat / 32)) 1 (sc.toNat % 32))
  | .scarm d a sc => some (s 0x32 d a (w5 (sc.toNat / 32)) 2 (sc.toNat % 32))
  | .scexpect d a sc => some (s 0x32 d a (w5 (sc.toNat / 32)) 3 (sc.toNat % 32))
  | .scmode a sc => some (s 0x32 0 a (w5 (sc.toNat / 32)) 4 (sc.toNat % 32))
  | .barv a tag => some (s 0x32 0 a 0 5 tag.toNat)
  | .barcfg a tag => some (s 0x32 0 a 0 6 tag.toNat)
  | .enq d a eng => some (s 0x33 d a 0 0 eng.toNat)
  | .jobst d a => some (s 0x33 d a 0 1 0)
  | .jobarm a b => some (s 0x33 0 a b 2 0)
  | .osclaim d a => some (s 0x33 d a 0 3 0)
  | .osfree a b => some (s 0x33 0 a b 4 0)
  | .jobresume d a => some (s 0x33 d a 0 5 0)
  | .jobcancel d a => some (s 0x33 d a 0 6 0)
  | .cfopen d a => some (s 0x34 d a 0 0 0)
  | .cfnext d a => some (s 0x34 d a 0 1 0)
  | .cfexpect d a => some (s 0x34 d a 0 2 0)
  | .cfpost d a => some (s 0x34 d a 0 3 0)
  | .cfread d a => some (s 0x34 d a 0 4 0)
  | .cfseal d a => some (s 0x34 d a 0 5 0)
  | .cfstat d a sel => some (s 0x34 d a 0 6 sel.toNat)
  | .exitmark d a => some (s 0x34 d a 0 7 0)
  | .confx d a b => some (s 0x34 d a b 8 0)
  | .gstore d a b => some (s 0x35 d a b 0 0)
  | .grdy d a => some (s 0x35 d a 0 1 0)
  | .gpull d a => some (s 0x35 d a 0 2 0)
  | .gcnt d a sel => some (s 0x35 d a 0 3 sel.toNat)
  | .gcfg d a => some (s 0x35 d a 0 4 0)
  | .hsift d a b => some (s 0x36 d a b 0 0)
  | .htopk d a b renorm => some (s 0x36 d a b 1 (bitVal renorm))
  | .rcupd d a del => some (s 0x36 d a 0 2 (bitVal del))
  | .kvfork d a => some (s 0x37 d a 0 0 0)
  | .kvput d a => some (s 0x37 d a 0 1 0)
  | .kvpub d a => some (s 0x37 d a 0 2 0)
  | .kvstat d a => some (s 0x37 d a 0 3 0)
  | .kvfree d a => some (s 0x37 d a 0 4 0)
  | .vclaim d a b => some (v 0x38 d a b 0 0 0)
  | .vsync d => some (v 0x38 d 0 0 0 0 1)
  | .vfree => some (v 0x38 0 0 0 0 0 2)
  | .vmlogicAnd md ma mb => some (v 0x38 (w5 md.toNat) (w5 ma.toNat) (w5 mb.toNat) 0 0 3)
  | .vmlogicOr md ma mb => some (v 0x38 (w5 md.toNat) (w5 ma.toNat) (w5 mb.toNat) 1 0 3)
  | .vmlogicXor md ma mb => some (v 0x38 (w5 md.toNat) (w5 ma.toNat) (w5 mb.toNat) 2 0 3)
  | .vmlogicAndn md ma mb => some (v 0x38 (w5 md.toNat) (w5 ma.toNat) (w5 mb.toNat) 3 0 3)
  | .vmlogicNot md ma => some (v 0x38 (w5 md.toNat) (w5 ma.toNat) 0 4 0 3)
  | .vmlogicMov md ma => some (v 0x38 (w5 md.toNat) (w5 ma.toNat) 0 5 0 3)
  | .vmlogicSet md => some (v 0x38 (w5 md.toNat) 0 0 6 0 3)
  | .vmlogicClr md => some (v 0x38 (w5 md.toNat) 0 0 7 0 3)
  | .vmpop d ma => some (v 0x38 d (w5 ma.toNat) 0 0 0 4)
  | .viota vd a b m f => some (v 0x38 vd a b m (fc f) 5)
  | .vld vd bf x m f => some (v 0x39 vd (w5 bf.toNat) x m (fc f) 0)
  | .vst vd bf x m f => some (v 0x39 vd (w5 bf.toNat) x m (fc f) 1)
  | .vlds vd bf x m f => some (v 0x39 vd (w5 bf.toNat) x m (fc f) 2)
  | .vsts vd bf x m f => some (v 0x39 vd (w5 bf.toNat) x m (fc f) 3)
  | .vldx vd bf vi m f => some (v 0x39 vd (w5 bf.toNat) vi m (fc f) 4)
  | .vstx vd bf vi m f => some (v 0x39 vd (w5 bf.toNat) vi m (fc f) 5)
  | .vbcast vd a m f => some (v 0x39 vd a 0 m (fc f) 6)
  | .vextr d va b f => some (v 0x39 d va b 0 (fc f) 7)
  | .vins vd a b f => some (v 0x39 vd a b 0 (fc f) 8)
  | .vadd vd va vb m f => some (v 0x3a vd va vb m (fc f) 0)
  | .vsub vd va vb m f => some (v 0x3a vd va vb m (fc f) 1)
  | .vmul vd va vb m f => some (v 0x3a vd va vb m (fc f) 2)
  | .vfma vd va vb m f => some (v 0x3a vd va vb m (fc f) 3)
  | .vmin vd va vb m f => some (v 0x3a vd va vb m (fc f) 4)
  | .vmax vd va vb m f => some (v 0x3a vd va vb m (fc f) 5)
  | .vabs vd va m f => some (v 0x3a vd va 0 m (fc f) 6)
  | .vneg vd va m f => some (v 0x3a vd va 0 m (fc f) 7)
  | .vand vd va vb m f => some (v 0x3a vd va vb m (fc f) 8)
  | .vor vd va vb m f => some (v 0x3a vd va vb m (fc f) 9)
  | .vxor vd va vb m f => some (v 0x3a vd va vb m (fc f) 10)
  | .vshl vd va vb m f => some (v 0x3a vd va vb m (fc f) 11)
  | .vshr vd va vb m f => some (v 0x3a vd va vb m (fc f) 12)
  | .vcmpeq md va vb m f => some (v 0x3a (w5 md.toNat) va vb m (fc f) 13)
  | .vcmplt md va vb m f => some (v 0x3a (w5 md.toNat) va vb m (fc f) 14)
  | .vsel vd va vb m f => some (v 0x3a vd va vb m (fc f) 15)
  | .vexp2 vd va m f => some (v 0x3b vd va 0 m (fc f) 0)
  | .vlog2 vd va m f => some (v 0x3b vd va 0 m (fc f) 1)
  | .vrcp vd va m f => some (v 0x3b vd va 0 m (fc f) 2)
  | .vrsqrt vd va m f => some (v 0x3b vd va 0 m (fc f) 3)
  | .vsqrt vd va m f => some (v 0x3b vd va 0 m (fc f) 4)
  | .vcvt vd va src sat m dst => some (v 0x3c vd va (w5 (fc src + bitVal sat * 2 ^ 4)) m (fc dst) 0)
  | .vqnt vd va b m f => some (v 0x3c vd va b m (fc f) 1)
  | .vdqnt vd va b m f => some (v 0x3c vd va b m (fc f) 2)
  | .vtern vd va b m f => some (v 0x3c vd va b m (fc f) 3)
  | .vredsum d va m f => some (v 0x3d d va 0 m (fc f) 0)
  | .vredmax d va m f => some (v 0x3d d va 0 m (fc f) 1)
  | .vredmin d va m f => some (v 0x3d d va 0 m (fc f) 2)
  | .vredamax d va m f => some (v 0x3d d va 0 m (fc f) 3)
  | .vscan vd va m f => some (v 0x3d vd va 0 m (fc f) 4)
  | .vperm vd va vb m f => some (v 0x3d vd va vb m (fc f) 5)
  | .vslide vd va b m f => some (v 0x3d vd va b m (fc f) 6)
  | .abound d va vb m => some (v 0x3d d va vb m 1 7)
  | .audchk d a b => some (v 0x3d d a b 0 1 8)
  | .mfill _ _ _ _ => none
  | .mwload _ _ _ => none
  | .mstream _ _ _ _ _ _ _ _ _ => none
  | .mzero _ _ _ _ => none
  | .mstore _ _ _ _ _ _ _ _ _ _ => none
  | .mloadacc _ _ _ _ _ _ => none
  | .msave _ _ _ _ _ _ => none
  | .mrestore _ _ => none
  | .cpy _ _ _ _ _ => none
  | .cpym _ _ _ _ _ _ _ _ _ _ => none
  | .cpyg _ _ _ _ _ => none
  | .cpys _ _ _ _ _ => none
  | .cpypg _ _ _ _ _ => none
  | .cpyfill _ _ _ => none
  | .cpymsg _ _ _ _ => none
  | .kvgather _ _ _ _ _ _ => none
  | .bfill _ _ _ _ _ => none
  | .bfcancel _ _ => none
  | .rcsnap _ _ _ => none
  | .rcxchg _ _ _ _ => none
  | .rcpeel _ _ => none
  | .rcfetch _ _ => none
  | .rcround _ _ _ => none
  | .gallred _ _ _ _ _ _ _ => none
  | .gallgath _ _ _ _ _ _ _ => none
  | .gbcast _ _ _ _ _ _ _ _ => none
  | .matrixStepEnd _ => none
  | .copyBurst _ => none
  | .engineAgeing _ _ => none
  | .engineDone _ _ => none
  | .kvgatherDeferResume _ _ => none
  | .messageArrival _ => none
  | .portWordArrival _ => none
  | .creditReturn _ => none
  | .handlerSelection _ => none
  | .urgentInterruption _ => none
  | .serialAdmission _ _ => none
  | .commit _ _ => none
  | .iatom _ _ => none
  | .roundMarkerInjection => none
  | .roundEdge => none
  | .slotQuantumExpiry _ => none
  | .horizonReport _ _ _ _ _ => none
  | .launchPacket _ => none
  | .launchAdmission _ => none
  | .slotTakeRecord _ => none
  | .cfopenHome _ => none
  | .cfnextHome _ => none
  | .cfexpectHome _ => none
  | .cfsealHome _ => none
  | .exitmarkHome _ => none
  | .cfpostHome _ => none
  | .cfreadHome _ => none
  | .cfreadLateness _ _ _ => none
  | .barrierArrival _ => none
  | .barcfgApply _ => none
  | .groupContribution _ => none
  | .groupResult _ => none
  | .groupTimeout _ _ => none
  | .groupSlotFree _ _ => none
  | .grdyAnnounce _ => none
  | .gpullRequest _ => none
  | .gpullTimeout _ => none
  | .chunkDelivery _ _ => none
  | .chunkTimeout _ _ => none
  | .cellUpdate _ => none
  | .foldRequest _ _ _ _ _ _ => none
  | .rcxchgWaitExpiry _ _ => none
  | .fabricForward _ _ => none
  | .remoteRequest _ _ _ => none
  | .flitCrcFailure _ _ => none
  | .cxlDeviceRemoval _ => none
  | .hostBar2Write _ _ => none
  | .hostBar2Read _ _ => none
  | .qdb _ => none
  | .registerWrite _ _ => none
  | .hostCompletionTimeout _ => none
  | .patrolScrub _ _ => none
  | .wake _ => none
  | .stop _ => none
  | .preempt _ => none
  | .resume _ => none
  | .discard _ => none
  | .preemptRequest _ => none
  | .preemptStop => none
  | .preemptCapture => none
  | .mread _ _ => none
  | .mwrite _ _ _ => none
  | .attest _ => none
  | .mclear _ _ => none
  | .powerOnReset _ => none
  | .unassignedOpcode _ => none
  | .linkUp _ => none
  | .capabilityRefresh _ => none
  | .measurementRequest _ _ => none

/-- The 256-bit word of a well-formed command (R78, R197, R211, R238, R241, R261, R268); none for anything else. -/
def encodeCmd : Instr → Option (BitVec 256)
  | .add _ _ _ => none
  | .sub _ _ _ => none
  | .and _ _ _ => none
  | .or _ _ _ => none
  | .xor _ _ _ => none
  | .andn _ _ _ => none
  | .sll _ _ _ => none
  | .srl _ _ _ => none
  | .sra _ _ _ => none
  | .slt _ _ _ => none
  | .sltu _ _ _ => none
  | .min _ _ _ => none
  | .max _ _ _ => none
  | .minu _ _ _ => none
  | .maxu _ _ _ => none
  | .mul _ _ _ => none
  | .mulh _ _ _ => none
  | .mulhu _ _ _ => none
  | .div _ _ _ => none
  | .divu _ _ _ => none
  | .rem _ _ _ => none
  | .remu _ _ _ => none
  | .clz _ _ => none
  | .ctz _ _ => none
  | .popc _ _ => none
  | .lea _ _ _ _ => none
  | .cmovz _ _ _ => none
  | .cmovnz _ _ _ => none
  | .exts _ _ _ => none
  | .extz _ _ _ => none
  | .addi _ _ _ => none
  | .andi _ _ _ => none
  | .ori _ _ _ => none
  | .xori _ _ _ => none
  | .slti _ _ _ => none
  | .sltiu _ _ _ => none
  | .lui _ _ => none
  | .slli _ _ _ => none
  | .srli _ _ _ => none
  | .srai _ _ _ => none
  | .orih _ _ _ => none
  | .orit _ _ _ => none
  | .fadd _ _ _ _ => none
  | .fsub _ _ _ _ => none
  | .fmul _ _ _ _ => none
  | .ffma _ _ _ _ => none
  | .fdiv _ _ _ _ => none
  | .fsqrt _ _ _ => none
  | .fmin _ _ _ _ => none
  | .fmax _ _ _ _ => none
  | .fcmpeq _ _ _ _ => none
  | .fcmplt _ _ _ _ => none
  | .fcmple _ _ _ _ => none
  | .fcvt _ _ _ _ _ => none
  | .fclass _ _ _ => none
  | .fneg _ _ _ => none
  | .fabs _ _ _ => none
  | .ldb _ _ _ _ => none
  | .ldbu _ _ _ _ => none
  | .ldh _ _ _ _ => none
  | .ldhu _ _ _ _ => none
  | .ldw _ _ _ _ => none
  | .ldwu _ _ _ _ => none
  | .ldd _ _ _ _ => none
  | .stb _ _ _ _ => none
  | .sth _ _ _ _ => none
  | .stw _ _ _ _ => none
  | .std _ _ _ _ => none
  | .ldm _ _ _ _ => none
  | .stm _ _ _ _ => none
  | .amoAdd _ _ _ _ _ => none
  | .amoAnd _ _ _ _ _ => none
  | .amoOr _ _ _ _ _ => none
  | .amoXor _ _ _ _ _ => none
  | .amoMax _ _ _ _ _ => none
  | .amoMin _ _ _ _ _ => none
  | .amoMaxu _ _ _ _ _ => none
  | .amoMinu _ _ _ _ _ => none
  | .amoSwap _ _ _ _ _ => none
  | .amoCas _ _ _ _ _ => none
  | .amoLoad _ _ _ _ => none
  | .amoStore _ _ _ _ => none
  | .fence _ => none
  | .beq _ _ _ _ => none
  | .bne _ _ _ _ => none
  | .blt _ _ _ _ => none
  | .bge _ _ _ _ => none
  | .bltu _ _ _ _ => none
  | .bgeu _ _ _ _ => none
  | .j _ => none
  | .jal _ => none
  | .jr _ _ => none
  | .jalr _ _ _ => none
  | .csrrd _ _ => none
  | .csrwr _ _ _ => none
  | .csrset _ _ _ => none
  | .csrclr _ _ _ => none
  | .trap _ => none
  | .eret => none
  | .tlbinv _ _ _ => none
  | .iflush => none
  | .bfld _ _ => none
  | .bfst _ _ => none
  | .nop => none
  | .halt => none
  | .send _ _ _ _ => none
  | .sendm _ _ _ _ => none
  | .tend => none
  | .tabort _ => none
  | .chcfg _ _ => none
  | .chmask _ => none
  | .chunmask _ => none
  | .tsset _ => none
  | .launch _ _ _ => none
  | .scread _ _ => none
  | .scinc _ _ => none
  | .scarm _ _ _ => none
  | .scexpect _ _ _ => none
  | .scmode _ _ => none
  | .barv _ _ => none
  | .barcfg _ _ => none
  | .enq _ _ _ => none
  | .jobst _ _ => none
  | .jobarm _ _ => none
  | .osclaim _ _ => none
  | .osfree _ _ => none
  | .jobresume _ _ => none
  | .jobcancel _ _ => none
  | .cfopen _ _ => none
  | .cfnext _ _ => none
  | .cfexpect _ _ => none
  | .cfpost _ _ => none
  | .cfread _ _ => none
  | .cfseal _ _ => none
  | .cfstat _ _ _ => none
  | .exitmark _ _ => none
  | .confx _ _ _ => none
  | .gstore _ _ _ => none
  | .grdy _ _ => none
  | .gpull _ _ => none
  | .gcnt _ _ _ => none
  | .gcfg _ _ => none
  | .hsift _ _ _ => none
  | .htopk _ _ _ _ => none
  | .rcupd _ _ _ => none
  | .kvfork _ _ => none
  | .kvput _ _ => none
  | .kvpub _ _ => none
  | .kvstat _ _ => none
  | .kvfree _ _ => none
  | .vclaim _ _ _ => none
  | .vsync _ => none
  | .vfree => none
  | .vmlogicAnd _ _ _ => none
  | .vmlogicOr _ _ _ => none
  | .vmlogicXor _ _ _ => none
  | .vmlogicAndn _ _ _ => none
  | .vmlogicNot _ _ => none
  | .vmlogicMov _ _ => none
  | .vmlogicSet _ => none
  | .vmlogicClr _ => none
  | .vmpop _ _ => none
  | .viota _ _ _ _ _ => none
  | .vld _ _ _ _ _ => none
  | .vst _ _ _ _ _ => none
  | .vlds _ _ _ _ _ => none
  | .vsts _ _ _ _ _ => none
  | .vldx _ _ _ _ _ => none
  | .vstx _ _ _ _ _ => none
  | .vbcast _ _ _ _ => none
  | .vextr _ _ _ _ => none
  | .vins _ _ _ _ => none
  | .vadd _ _ _ _ _ => none
  | .vsub _ _ _ _ _ => none
  | .vmul _ _ _ _ _ => none
  | .vfma _ _ _ _ _ => none
  | .vmin _ _ _ _ _ => none
  | .vmax _ _ _ _ _ => none
  | .vabs _ _ _ _ => none
  | .vneg _ _ _ _ => none
  | .vand _ _ _ _ _ => none
  | .vor _ _ _ _ _ => none
  | .vxor _ _ _ _ _ => none
  | .vshl _ _ _ _ _ => none
  | .vshr _ _ _ _ _ => none
  | .vcmpeq _ _ _ _ _ => none
  | .vcmplt _ _ _ _ _ => none
  | .vsel _ _ _ _ _ => none
  | .vexp2 _ _ _ _ => none
  | .vlog2 _ _ _ _ => none
  | .vrcp _ _ _ _ => none
  | .vrsqrt _ _ _ _ => none
  | .vsqrt _ _ _ _ => none
  | .vcvt _ _ _ _ _ _ => none
  | .vqnt _ _ _ _ _ => none
  | .vdqnt _ _ _ _ _ => none
  | .vtern _ _ _ _ _ => none
  | .vredsum _ _ _ _ => none
  | .vredmax _ _ _ _ => none
  | .vredmin _ _ _ _ => none
  | .vredamax _ _ _ _ => none
  | .vscan _ _ _ _ => none
  | .vperm _ _ _ _ _ => none
  | .vslide _ _ _ _ _ => none
  | .abound _ _ _ _ => none
  | .audchk _ _ _ => none
  | .mfill h slot nslot1 src =>
    some (BitVec.ofNat 256 (Encode.hdr h 0x01 + slot.toNat * 2 ^ 80 + nslot1.toNat * 2 ^ 88 + src.toNat * 2 ^ 128))
  | .mwload h slot wfmt =>
    some (BitVec.ofNat 256 (Encode.hdr h 0x02 + slot.toNat * 2 ^ 80 + Encode.fc wfmt * 2 ^ 88))
  | .mstream h srcShape ovw cn1 sfmt slot row0 nrow1 shape =>
    some (BitVec.ofNat 256 (Encode.hdr h 0x03 + bitVal srcShape * 2 ^ 80 + bitVal ovw * 2 ^ 81 + cn1.toNat * 2 ^ 82 + Encode.fc sfmt * 2 ^ 88 + slot.toNat * 2 ^ 92 + row0.toNat * 2 ^ 128 + nrow1.toNat * 2 ^ 141 + shape.toNat * 2 ^ 192))
  | .mzero h cn1 row0 nrow1 =>
    some (BitVec.ofNat 256 (Encode.hdr h 0x04 + cn1.toNat * 2 ^ 82 + row0.toNat * 2 ^ 128 + nrow1.toNat * 2 ^ 141))
  | .mstore h scm cn1 afmt rm sat scale row0 nrow1 dst =>
    some (BitVec.ofNat 256 (Encode.hdr h 0x05 + scm.toNat * 2 ^ 80 + cn1.toNat * 2 ^ 82 + Encode.fc afmt * 2 ^ 88 + rm.toNat * 2 ^ 92 + bitVal sat * 2 ^ 94 + scale.toNat * 2 ^ 96 + row0.toNat * 2 ^ 128 + nrow1.toNat * 2 ^ 141 + dst.toNat * 2 ^ 192))
  | .mloadacc h cn1 afmt row0 nrow1 src =>
    some (BitVec.ofNat 256 (Encode.hdr h 0x06 + cn1.toNat * 2 ^ 82 + Encode.fc afmt * 2 ^ 88 + row0.toNat * 2 ^ 128 + nrow1.toNat * 2 ^ 141 + src.toNat * 2 ^ 192))
  | .msave h pre cap hw lid img =>
    some (BitVec.ofNat 256 (Encode.hdr h 0x07 + bitVal pre * 2 ^ 80 + cap.toNat * 2 ^ 96 + hw.toNat * 2 ^ 128 + lid.toNat * 2 ^ 160 + img.toNat * 2 ^ 192))
  | .mrestore h img =>
    some (BitVec.ofNat 256 (Encode.hdr h 0x08 + img.toNat * 2 ^ 192))
  | .cpy h icnt far src dst =>
    some (BitVec.ofNat 256 (Encode.hdr h 0x20 + bitVal icnt * 2 ^ 80 + bitVal far * 2 ^ 81 + src.toNat * 2 ^ 128 + dst.toNat * 2 ^ 192))
  | .cpym h rowm colm die dkind dsig far slot src doff =>
    some (BitVec.ofNat 256 (Encode.hdr h 0x21 + rowm.toNat * 2 ^ 80 + colm.toNat * 2 ^ 88 + die.toNat * 2 ^ 96 + bitVal dkind * 2 ^ 98 + bitVal dsig * 2 ^ 99 + bitVal far * 2 ^ 100 + slot.toNat * 2 ^ 101 + src.toNat * 2 ^ 128 + doff.toNat * 2 ^ 192))
  | .cpyg h ifmt far src dst =>
    some (BitVec.ofNat 256 (Encode.hdr h 0x22 + bitVal ifmt * 2 ^ 80 + bitVal far * 2 ^ 81 + src.toNat * 2 ^ 128 + dst.toNat * 2 ^ 192))
  | .cpys h ifmt far src dst =>
    some (BitVec.ofNat 256 (Encode.hdr h 0x23 + bitVal ifmt * 2 ^ 80 + bitVal far * 2 ^ 81 + src.toNat * 2 ^ 128 + dst.toNat * 2 ^ 192))
  | .cpypg h npg1 tier va grant =>
    some (BitVec.ofNat 256 (Encode.hdr h 0x24 + npg1.toNat * 2 ^ 80 + tier.toNat * 2 ^ 96 + va.toNat * 2 ^ 128 + grant.toNat * 2 ^ 192))
  | .cpyfill h dst val =>
    some (BitVec.ofNat 256 (Encode.hdr h 0x25 + dst.toNat * 2 ^ 128 + val.toNat * 2 ^ 192))
  | .cpymsg h far src q =>
    some (BitVec.ofNat 256 (Encode.hdr h 0x26 + bitVal far * 2 ^ 80 + src.toNat * 2 ^ 128 + q.toNat * 2 ^ 192))
  | .kvgather h pol far part rec dst =>
    some (BitVec.ofNat 256 (Encode.hdr h 0x27 + bitVal pol * 2 ^ 80 + bitVal far * 2 ^ 81 + part.toNat * 2 ^ 82 + rec.toNat * 2 ^ 128 + dst.toNat * 2 ^ 192))
  | .bfill h gexit last perl rec =>
    some (BitVec.ofNat 256 (Encode.hdr h 0x40 + gexit.toNat * 2 ^ 80 + last.toNat * 2 ^ 96 + bitVal perl * 2 ^ 112 + rec.toNat * 2 ^ 128))
  | .bfcancel h job =>
    some (BitVec.ofNat 256 (Encode.hdr h 0x41 + job.toNat * 2 ^ 128))
  | .rcsnap h rec epoch =>
    some (BitVec.ofNat 256 (Encode.hdr h 0x60 + rec.toNat * 2 ^ 128 + epoch.toNat * 2 ^ 192))
  | .rcxchg h rec b wait =>
    some (BitVec.ofNat 256 (Encode.hdr h 0x61 + rec.toNat * 2 ^ 128 + b.toNat * 2 ^ 192 + wait.toNat * 2 ^ 200))
  | .rcpeel h rec =>
    some (BitVec.ofNat 256 (Encode.hdr h 0x62 + rec.toNat * 2 ^ 128))
  | .rcfetch h rec =>
    some (BitVec.ofNat 256 (Encode.hdr h 0x63 + rec.toNat * 2 ^ 128))
  | .rcround h rec wait =>
    some (BitVec.ofNat 256 (Encode.hdr h 0x64 + rec.toNat * 2 ^ 128 + wait.toNat * 2 ^ 200))
  | .gallred h group cctr nch seq nb1 dst =>
    some (BitVec.ofNat 256 (Encode.hdr h 0x70 + group.toNat * 2 ^ 80 + cctr.toNat * 2 ^ 88 + nch.toNat * 2 ^ 96 + seq.toNat * 2 ^ 128 + nb1.toNat * 2 ^ 160 + dst.toNat * 2 ^ 192))
  | .gallgath h group cctr nch seq nb1 dst =>
    some (BitVec.ofNat 256 (Encode.hdr h 0x71 + group.toNat * 2 ^ 80 + cctr.toNat * 2 ^ 88 + nch.toNat * 2 ^ 96 + seq.toNat * 2 ^ 128 + nb1.toNat * 2 ^ 160 + dst.toNat * 2 ^ 192))
  | .gbcast h group cctr nch root seq nb1 dst =>
    some (BitVec.ofNat 256 (Encode.hdr h 0x72 + group.toNat * 2 ^ 80 + cctr.toNat * 2 ^ 88 + nch.toNat * 2 ^ 96 + root.toNat * 2 ^ 112 + seq.toNat * 2 ^ 128 + nb1.toNat * 2 ^ 160 + dst.toNat * 2 ^ 192))
  | .matrixStepEnd _ => none
  | .copyBurst _ => none
  | .engineAgeing _ _ => none
  | .engineDone _ _ => none
  | .kvgatherDeferResume _ _ => none
  | .messageArrival _ => none
  | .portWordArrival _ => none
  | .creditReturn _ => none
  | .handlerSelection _ => none
  | .urgentInterruption _ => none
  | .serialAdmission _ _ => none
  | .commit _ _ => none
  | .iatom _ _ => none
  | .roundMarkerInjection => none
  | .roundEdge => none
  | .slotQuantumExpiry _ => none
  | .horizonReport _ _ _ _ _ => none
  | .launchPacket _ => none
  | .launchAdmission _ => none
  | .slotTakeRecord _ => none
  | .cfopenHome _ => none
  | .cfnextHome _ => none
  | .cfexpectHome _ => none
  | .cfsealHome _ => none
  | .exitmarkHome _ => none
  | .cfpostHome _ => none
  | .cfreadHome _ => none
  | .cfreadLateness _ _ _ => none
  | .barrierArrival _ => none
  | .barcfgApply _ => none
  | .groupContribution _ => none
  | .groupResult _ => none
  | .groupTimeout _ _ => none
  | .groupSlotFree _ _ => none
  | .grdyAnnounce _ => none
  | .gpullRequest _ => none
  | .gpullTimeout _ => none
  | .chunkDelivery _ _ => none
  | .chunkTimeout _ _ => none
  | .cellUpdate _ => none
  | .foldRequest _ _ _ _ _ _ => none
  | .rcxchgWaitExpiry _ _ => none
  | .fabricForward _ _ => none
  | .remoteRequest _ _ _ => none
  | .flitCrcFailure _ _ => none
  | .cxlDeviceRemoval _ => none
  | .hostBar2Write _ _ => none
  | .hostBar2Read _ _ => none
  | .qdb _ => none
  | .registerWrite _ _ => none
  | .hostCompletionTimeout _ => none
  | .patrolScrub _ _ => none
  | .wake _ => none
  | .stop _ => none
  | .preempt _ => none
  | .resume _ => none
  | .discard _ => none
  | .preemptRequest _ => none
  | .preemptStop => none
  | .preemptCapture => none
  | .mread _ _ => none
  | .mwrite _ _ _ => none
  | .attest _ => none
  | .mclear _ _ => none
  | .powerOnReset _ => none
  | .unassignedOpcode _ => none
  | .linkUp _ => none
  | .capabilityRefresh _ => none
  | .measurementRequest _ _ => none

end Sys2Proof
end

