-- ==== Sys2Proof/Config.lean ====
section
/-! DEFINITION. The free values of the model: what the spec leaves to the world outside the package, or to an algorithm it
names and does not define. None of them has a body, so no proof can see a value of one (logs 1 and 9). -/

namespace Sys2Proof.Config

/-- The byte the host returns for a read of a physical address in region 0x2, at a given value of the model's tick (R294, R359;
log 1). -/
opaque extByte : Nat → Nat → BitVec 8

/-- Whether that read completes: a host completion error makes the data unreachable (R315, R359; log 1). The arguments are the tick and
the physical address of the 64-byte line. -/
opaque extReachable : Nat → Nat → Bool

/-- The byte another device returns for a read of its physical address, at a tick (R297, R350; log 1). -/
opaque remoteByte : Nat → BitVec 16 → Nat → BitVec 8

/-- Whether another device answers an access to a 64-byte line of its physical memory with data, at a tick (R297, R315, R350; log 1). -/
opaque remoteReachable : Nat → BitVec 16 → Nat → Bool

/-- Whether a pointer entry that a walker pool has cached is still there, at a tick: the spec says that the pool caches them and not
how many, or for how long (R305; log 51). The arguments are the tick, the level and the index bits. -/
opaque ptrHeld : Nat → Nat → Nat → Bool

/-- The SM3 digest of a byte string (R381, R382; log 9). -/
opaque sm3 : List (BitVec 8) → BitVec 256

/-- The SM2 signature, r then s, that the device identity key gives a digest (R385; log 9). -/
opaque sm2Sign : BitVec 256 → BitVec 512

/-- The word that CFSTAT of another device's object returns, at a tick, for a handle and a selector (R230; log 1). -/
opaque remoteStat : Nat → BitVec 64 → Nat → BitVec 64

/-- The byte that a reconcile engine reads at a physical address of another device, at a tick (R268 to R271, R355; log 1). -/
opaque peerByte : Nat → BitVec 16 → Nat → BitVec 8

/-- The seed S_j of another device's reconcile engine that answers an exchange, at a tick (R355; log 1). -/
opaque peerSeed : Nat → BitVec 16 → Nat → BitVec 64

/-- The word that an array computation which failed its checksum twice leaves, at a tick, at an accumulator place (R200,
R201; log 1). -/
opaque softWord : Nat → Nat → BitVec 32

/-- Whether a replayed command of an accumulator image acts with supervisor rights, at a tick: an image records no mode (R205,
R208; log 18). -/
opaque replaySuper : Nat → BitVec 32 → Bool

/-- The byte that a BFILL's matrix work leaves at a place of the two operand slots it uses, at a tick (R239; log 19). -/
opaque slotByte : Nat → Nat → BitVec 8

/-- The port behind which a leaf of a group lies, for the two dwords of the group's entry: the entry does not list them (R252, R260, R354;
log 22). -/
opaque leafPort : BitVec 64 → BitVec 64 → Nat → Nat

/-- The leaves that are missing from the combined chunk of a port which has not said so before the chunk's timeout, at a tick, for a group and
the port (R260; log 22). -/
opaque lostLeaves : Nat → Nat → Nat → BitVec 64

/-- Whether an answer that comes from the parent of a group is one to an entry that GCFG has replaced, at a tick: the spec does not give the
form in which packets tell entries apart (R252; log 22). -/
opaque oldResult : Nat → Nat → Nat → Bool

/-- Whether a fabric port's neighbour trains at the K4 rate only up to the preceding one, at a tick (R343, R346; log 1). -/
opaque peerSlow : Nat → Nat → Bool

/-- Whether a signature, r then s, of a digest is good under a public key (R381; log 9). -/
opaque sm2Verify : BitVec 512 → BitVec 256 → BitVec 512 → Bool

/-- The vendor root public key, fixed in the boot ROM (R381; log 9). -/
opaque vendorKey : BitVec 512

/-- The flash image of a boot stage, and its signature, that a boot which step itself begins finds: 1 and 2 for copies A and B of stage 1,
3 for stage 2, 4 for stage 3 (R381; log 28). -/
opaque flashImage : Nat → List (BitVec 8)
/-- The signature. -/
opaque flashSig : Nat → BitVec 512

/-- What a configuration image holds (R381, R383, R384): the owner public key; the spare rows that self-test may use, per local-store,
scratchpad and operand-memory bank and per accumulator store; where storage devices hold the stage 3 image, as an address of region 0x8 and its
bytes; the management registers it writes; and the islands that are off. -/
structure BootConfig where
  owner   : BitVec 512
  limits  : List Nat
  storage : List (Nat × Nat)
  writes  : List (Nat × BitVec 64)
  offIsl  : List Nat
  deriving DecidableEq, Repr, Inhabited

/-- What the bytes of a configuration image say: the spec gives the image no layout (R381; log 28). -/
opaque bootConfig : List (BitVec 8) → BootConfig

/-- Where the bytes of a supervisor image go when stage 3 loads it, by physical address: the spec gives it no layout either (R383; log 28). -/
opaque imagePieces : List (BitVec 8) → List (Nat × List (BitVec 8))

/-- The revision that the part number register carries: each part fixes it (R357; log 28). -/
opaque revision : BitVec 8

/-- The link sequence number of a flit that the package sends, at a tick, on a fabric port: the link layer's own count (R344; log 28). -/
opaque flitSeq : Nat → Nat → BitVec 12

/-- The source code of the record of an uncorrectable error for which the table of R371 has no row, at a tick (R370; log 28). -/
opaque scrubCode : Nat → BitVec 8

/-- The element that such an error's event goes to, where no element is concerned, at a tick (R370; log 28). -/
opaque scrubElement : Nat → BitVec 11

/-- The temperature of an island in degrees C, at a tick (R389, R390; log 10). -/
opaque temperature : Nat → Nat → BitVec 16

/-- The power of a die over a round in mW, at a tick (R390; log 10). -/
opaque power : Nat → Nat → BitVec 64

end Sys2Proof.Config
end

