-- ==== Sys2Proof/Machine/State.lean ====
section
/-! DEFINITION. The state of one K4 package, as plain data: everything spec/01_machine_state.md and the chapters after it
name. Tables are lists of (key, value) pairs with rising keys; a key that is not listed holds the reset value of its kind.
INVENTORY.md lists every field with its rule and reset value. -/

namespace Sys2Proof.Machine

/-- A table from numbers to values, keys rising. -/
abbrev Tbl (α : Type) := List (Nat × α)

/-- Bytes by address, keys rising, no entry 0: an unlisted byte reads as 0 (logs 5 and 6). -/
abbrev Mem := List Host.Cell

/-! ## The element -/

/-- The CSRs of class T and E (R32, R33): what a run can change and an abort or an urgent task restores. -/
structure Csrs where
  status   : Dword
  wp       : BitVec 18
  tsnow    : Dword
  trun     : BitVec 32
  launchid : BitVec 34
  xferid   : BitVec 32
  fpflags  : BitVec 7
  fprm     : BitVec 2
  vgrant   : BitVec 12
  cxdelta  : BitVec 32
  cxeps    : BitVec 32
  axmode   : BitVec 2
  axtau    : BitVec 32
  audrate  : BitVec 5
  axwsum   : Dword
  deriving DecidableEq, Repr

/-- The CSRs of class X (R32, R33): what trap entry writes. -/
structure XCsrs where
  epc0   : Addr
  epc1   : Addr
  epc2   : Addr
  eann   : BitVec 3
  ecause : BitVec 5
  eval   : Dword
  eprog  : BitVec 5
  deriving DecidableEq, Repr

/-- The sequencing state (R124). -/
structure Seq where
  p  : Addr
  n1 : Addr
  n2 : Addr
  ap : Bool
  a1 : Bool
  a2 : Bool
  deriving DecidableEq, Repr

/-- A handler-table entry: the three dwords of R13. -/
structure ChEntry where
  d0 : Dword
  d1 : Dword
  d2 : Dword
  deriving DecidableEq, Repr

/-- What starts a run: a message, a start event of a counter, or a port word count (R14, R19). -/
inductive EvKind where
  | msg | start | port
  deriving DecidableEq, Repr

/-- An event of an element's inbound queue, or of a run (R14, R16, R273). -/
structure Ev where
  kind     : EvKind
  chan     : Nat
  payload  : List Dword
  /-- the w3 start value of R19: sender channel address, counter number, or port -/
  sender   : Dword
  ts       : Dword
  lid      : BitVec 32
  xfer     : BitVec 32
  /-- arrival number (R273) -/
  num      : Nat
  trun     : BitVec 32
  /-- the next run is a serial one, and whether it has been admitted (R282, R331) -/
  serial   : Bool
  admitted : Bool
  /-- held back until the next round edge (R146) -/
  deferred : Bool
  /-- held back until a word arrives (true) or a credit returns (false) at a port (R11) -/
  port     : Option (Nat × Bool)
  deriving DecidableEq, Repr

/-- A word that travels between mesh ports, with its timestamp and domain (R12). -/
structure PortWord where
  word : BitVec 32
  ts   : Dword
  lid  : BitVec 32
  deriving DecidableEq, Repr

/-- An immediate atomic in flight (R122, R286): physical address, aop, operand, CAS comparand, use, and the register that
receives the old value, 0 for none. -/
structure Iatom where
  pa    : Nat
  va    : Dword
  codec : Nat
  aop   : Nat
  v     : Dword
  cmp   : Dword
  use   : AmoUse
  d     : Nat
  /-- a quantum operation that its home holds until its edge -/
  held  : Bool
  deriving DecidableEq, Repr

/-- The issuing task of an act that leaves an element: element (index in the package), channel, mode, timestamp plus child
offset, launch identifier and address space. -/
structure Origin where
  el   : Nat
  chan : Nat
  mode : Nat
  ts   : Dword
  lid  : BitVec 32
  asid : Nat
  deriving DecidableEq, Repr

/-- A CF operation on its way to its bank (R224, R226, R228): the sub-function of CFLOW, the block, and for a post the terms
(none when they could not be read) or the physical addresses captured for COND, for a read the physical destination pages. -/
structure CfOp where
  sub   : Nat
  o     : Origin
  block : List Dword
  terms : Option (List (BitVec 32))
  pages : List (Nat × Nat × Nat)
  deriving DecidableEq, Repr

/-- A KV operation of the outbox (R234 to R237): sub-function, block, its local-store address, the root as read at execution,
and the key and value rows of KVPUT. -/
structure KvOp where
  sub   : Nat
  addr  : Nat
  block : List Dword
  root  : List Dword
  krow  : List (BitVec 32)
  vrow  : List (BitVec 32)
  o     : Origin
  deriving DecidableEq, Repr

/-- An entry of the outbox, in program order (R21, R132). -/
inductive OutEntry where
  /-- SEND and SENDM: element addresses, channel, payload (R144) -/
  | msg (dests : List Nat) (chan : Nat) (payload : List Dword) (o : Origin)
  /-- a port write (R11) -/
  | port (dir : Nat) (w : PortWord)
  /-- an engine push, with TSNOW of the pushing task (R157, R205) -/
  | push (q : QueueId) (jid : BitVec 32) (cmd : BitVec 256) (now : Dword) (o : Origin)
  | cf (op : CfOp)
  | kv (op : KvOp)
  | gstore (word value : Dword) (o : Origin)
  | scinc (c : Nat) (v : Dword)
  | scarm (c : Nat) (v : Dword) (chan : Nat) (o : Origin)
  | scexpect (c : Nat) (v : Dword) (chan : Dword) (o : Origin)
  | scmode (c : Nat) (byte : Bool)
  | barv (tag : Nat) (v : BitVec 32) (o : Origin)
  | barcfg (tag : Nat) (block : List Dword)
  | chcfg (ch : Nat) (e : ChEntry)
  | chmask (ch : Nat) (mask : Bool)
  | jobarm (jid : Dword) (chan : Nat) (o : Origin)
  | osfree (first count : Dword) (o : Origin)
  | jobresume (jid : BitVec 32)
  | jobcancel (jid : BitVec 32)
  | launch (lid : BitVec 32) (rcd : List Dword) (asid : Nat)
  | grdy (block : List Dword) (o : Origin)
  | gpull (block : List Dword) (o : Origin)
  | gcfg (block : List Dword)
  | rcupd (block : List Dword) (del : Bool) (o : Origin) (pages : List (Nat × Nat × Nat))
  | audit (x b : BitVec 32) (o : Origin)
  deriving DecidableEq, Repr

/-- A run (R21, R272): its event, the entry it started under, its buffers, and what an abort restores. -/
structure Run where
  ev     : Ev
  entry  : ChEntry
  urgent : Bool
  serial : Bool
  /-- write buffer: physical byte address to byte and codec of its page; 64 lines of 64 bytes -/
  wb     : Tbl (Byte × Nat)
  /-- read set: physical line numbers, up to 256 -/
  rs     : List Nat
  ob     : List OutEntry
  /-- undo log: local-store dwords with their values at task start, up to 512 -/
  undo   : Tbl Dword
  /-- the values at task start of dwords that urgent tasks have written since, and the step count at its start: what R8 asks of the log
  of a run that an urgent task has interrupted -/
  pre    : Tbl Dword
  began  : Nat
  /-- port words taken, in order (R11) -/
  taken  : List (Nat × PortWord)
  /-- operand slots claimed, and identifiers of launches and jobs reserved by the run (R149, R157, R160) -/
  claims : List Nat
  /-- the parts done of the LDM, STM, vector access, LAUNCH or KVSTAT that the run is inside of (R119, R149, R236, R277, R282) -/
  vdone  : Nat
  /-- what its loads have brought, in order: of a vector load, of LAUNCH, of KVSTAT (R149, R177, R236, R277); of a vector store that has
  stalled, the places and values that are still to be written (R169, R176) -/
  vgot   : List Nat
  lids   : List (BitVec 32)
  jobs   : List (QueueId × BitVec 32)
  /-- the local-store address of an asynchronous machine check that the run takes at its next step boundary (R371) -/
  mc     : Option Dword
  /-- the class T and E registers at task start (R32) -/
  start  : Csrs
  /-- the child offset of STATUS when the run ended, or when what it holds is committed (R148, R368) -/
  off    : Nat
  deriving DecidableEq, Repr

/-- Why an element executes nothing: not at all; its serial run found a buffer full (R133, R282); it awaits the old value of an
immediate atomic (R122, R286); it waits for room until its oldest entry frees, and then executes its instruction again (R122); or it is
inside a FENCE of a scope (R123, R129). -/
inductive Stall where
  | none | full | value | room | fence (scope : Nat)
  deriving DecidableEq, Repr

/-- A run that an urgent task interrupted, with its task-class state and sequencing state (R18, R27, R129). -/
structure Saved where
  run       : Run
  csr       : Csrs
  seq       : Seq
  bf        : Tbl (BitVec 256)
  afterEret : Bool
  /-- a serial run that was interrupted while it stalled still stalls when it goes on (R282) -/
  stall     : Stall
  deriving DecidableEq, Repr

/-- A standing lane request (R164): want, min, priority, and the arrival number and launch of the event whose run set it. -/
structure LaneReq where
  want : Nat
  min  : Nat
  prio : Nat
  num  : Nat
  lid  : BitVec 32
  deriving DecidableEq, Repr

/-- A cached translation (R305): address space, level, virtual page at that level, the entry, and where it lies. -/
structure TlbEnt where
  asid  : Nat
  level : Nat
  vpn   : Nat
  pte   : Dword
  at'   : Nat
  deriving DecidableEq, Repr

/-- A pointer entry that a walker pool caches (R305): address space, the level of its table, the index bits down to it, and the
entry. -/
structure PtrEnt where
  asid  : Nat
  level : Nat
  vpn   : Nat
  pte   : Dword
  deriving DecidableEq, Repr

/-- One element. -/
structure Elem where
  ls        : Mem
  /-- poisoned dwords of the local store (R315), and the dwords of rows with a poisoned one that have not been written since (R316) -/
  lsBad     : List Nat
  lsTodo    : List Nat
  bmask     : BitVec 8
  csr       : Csrs
  x         : XCsrs
  /-- TWP, TST and TFP of R363 -/
  twp       : BitVec 18
  tst       : Dword
  tfpf      : BitVec 7
  tfpr      : BitVec 2
  seq       : Seq
  afterEret : Bool
  bf        : Tbl (BitVec 256)
  v         : Tbl (BitVec 4096)
  m         : Tbl (BitVec 2048)
  req       : Option LaneReq
  chans     : Tbl ChEntry
  inq       : List Ev
  seqNo     : Nat
  /-- arrival numbers of port trigger occurrences that have started no run yet, by channel (R273) -/
  occ       : Tbl Nat
  fifo      : Tbl (List PortWord)
  credit    : Tbl Nat
  iq        : List Iatom
  last      : Tbl Nat
  run       : Option Run
  under     : Option Saved
  fin       : List Run
  halted    : Bool
  stopping  : Bool
  stall     : Stall
  tlb       : List TlbEnt
  deriving DecidableEq, Repr

/-! ## The cluster -/

/-- An expectation of a counter (R151, R153): value, channel address, and the values its message carries. -/
structure Expect where
  value : Dword
  chan  : Dword
  fired : Bool
  /-- OVERSHOOT armed -/
  ovr   : Bool
  o     : Origin
  deriving DecidableEq, Repr

/-- An arm of a counter (R151). -/
structure Arm where
  value : Dword
  chan  : Nat
  o     : Origin
  deriving DecidableEq, Repr

/-- A sync counter (R29). -/
structure Counter where
  value  : Dword
  byte   : Bool
  expect : Option Expect
  arm    : Option Arm
  deriving DecidableEq, Repr

/-- A lane group (R163). -/
inductive Lane where
  | free | held (el : Nat) | reserved (el : Nat)
  deriving DecidableEq, Repr

/-- A latched tile (R199, R334, R335, R337): whose it is (a launch identifier, 2^32 + a BFILL's job identifier, or 2^33 + the identifier
of an MSTREAM that has been issued), its format, its bytes in the slot layout of R194, and its column sums. -/
structure Tile where
  owner : Nat
  fmt   : Fmt
  data  : Mem
  /-- the column sums, one for each row of the tile, as values of the accumulate format (R199) -/
  sums  : List Nat
  deriving DecidableEq, Repr

/-- One cluster (R29). -/
structure Cluster where
  sc       : Tbl Counter
  opm      : Mem
  /-- poisoned 64-bit words of operand memory and of the accumulator store, by number (R315) -/
  opmBad   : List Nat
  accBad   : List Nat
  /-- words of rows with a poisoned one that have not been written since (R316) -/
  opmTodo  : List Nat
  accTodo  : List Nat
  /-- owner of each operand slot that is not free -/
  slotOwn  : Tbl (BitVec 32)
  /-- slots freed by a committed OSFREE that the matrix queue has not yet passed (R160) -/
  slotFree : List (Nat × List (BitVec 32))
  acc      : Tbl (BitVec 32)
  /-- owner of each 512-row block that is not free -/
  blkOwn   : Tbl (BitVec 32)
  tiles    : List Tile
  /-- the launches that hold one of the 16 tile contexts (R335) -/
  ctxs     : List (BitVec 32)
  lanes    : List Lane
  spb      : Nat
  rows     : Nat
  meOk     : Bool
  tlb      : List TlbEnt
  /-- erroneous array computations that are to come (R201): an input from the physical world -/
  softErr  : Nat
  deriving DecidableEq, Repr

/-! ## Engines -/

/-- A job of an engine queue (R157, R158). prog counts rows, bursts, chunks, pages or layers done; data holds what the
command settled at issue; age counts ageing steps (R333); now is TSNOW of the pushing task (R205). -/
structure Job where
  jid    : BitVec 32
  cmd    : BitVec 256
  o      : Origin
  state  : Nat
  code   : Nat
  flags  : BitVec 8
  aux    : Nat
  issued : Bool
  /-- its end code, once all its work is done; ENGINE_DONE is to come -/
  fin    : Option Nat
  prog   : Nat
  data   : List Nat
  age    : Nat
  effp   : Nat
  now    : Dword
  /-- JOBCANCEL has named the job while a step of it was under way; it ends at the boundary (R161) -/
  cancel : Bool
  /-- where the job stands inside a layer, a page or a position (R216, R242, R337) -/
  phase  : Nat
  /-- what that part of the work holds: bytes, or numbers -/
  buf    : List Nat
  deriving DecidableEq, Repr

/-- A request of JOBARM (R159). -/
structure JobArm where
  jid  : BitVec 32
  chan : Nat
  o    : Origin
  deriving DecidableEq, Repr

/-- An engine queue with its engine (R157, R158, R333). -/
structure EQueue where
  jobs    : List Job
  seq     : Nat
  ended   : List (BitVec 32 × Dword)
  arms    : List JobArm
  /-- the command that holds the engine -/
  active  : Option (BitVec 32)
  /-- a step has ended, with the bytes of a burst that has landed, and its boundary is to come (R209, R334) -/
  edge    : Option Nat
  /-- reserved entries that a commit has not yet filled, and those of them that a JOBCANCEL has named (R157, R161) -/
  held    : List (BitVec 32)
  gone    : List (BitVec 32)
  deriving DecidableEq, Repr

/-! ## Confluence -/

/-- A pending read of a CF object (R229): the operation and the bank's round number when it was admitted. -/
structure CfPend where
  op    : CfOp
  start : Nat
  deriving DecidableEq, Repr

/-- A CF object (R219). -/
structure CfObj where
  state  : Nat
  gen    : BitVec 16
  wide   : Bool
  nl     : Nat
  w      : Int
  owner  : BitVec 32
  a      : Dword
  e      : Dword
  eset   : Bool
  parked : List CfOp
  reads  : List CfPend
  /-- DUP, LATE, SQUASH, WINDOW, EXITED, PARKFULL, NOTOWNER, READBUSY -/
  counts : Tbl (BitVec 16)
  exitl  : BitVec 16
  lanes  : Tbl Dword
  bad    : List Nat
  deriving DecidableEq, Repr

/-! ## Dies -/

/-- A machine-check record (R391). -/
structure McRec where
  code  : Nat
  count : Nat
  addr  : Dword
  el    : Nat
  round : Nat
  deriving DecidableEq, Repr

/-- A fold request that a reconcile engine holds (R355): the port it came by, the device that asks, its arguments, and, once its serve has
begun, the answer and the 4 KiB bursts that are still to go. -/
structure FoldReq where
  port  : Nat
  dev   : BitVec 16
  addr  : Nat
  epoch : Nat
  b     : Nat
  seeds : List Dword
  serve : Option (Nat × List (BitVec 128) × Nat)
  deriving DecidableEq, Repr

/-- One die: C-dies 0 to 3, then I-dies 0 and 1 as 4 and 5 (R387, R390, R391). -/
structure Die where
  cf      : Tbl CfObj
  /-- telemetry dwords by offset (R390) -/
  tele    : Tbl Dword
  mclog   : List McRec
  mccount : Nat
  /-- launches that await admission on this die, in order of arrival (R324) -/
  waiting : List (BitVec 32)
  /-- the reconcile engine's registers, I-dies only (R265) -/
  seeds   : Tbl Dword
  rcb     : Nat
  rcmaxr  : Nat
  /-- whether the last peel of a record succeeded, by the record's address (R268) -/
  peels   : Tbl Bool
  /-- the pointer entries that the die's walker pool caches (R305) -/
  ptrs    : List PtrEnt
  /-- the fold requests of peers that the reconcile engine holds, at most 4, the oldest first, and those that wait at their ports (R355) -/
  folds   : List FoldReq
  portFolds : List FoldReq
  deriving DecidableEq, Repr

/-! ## Collectives -/

/-- One recorded input of a reduction slot (R255): a local element, or a child port. -/
structure Contrib where
  port  : Option Nat
  o     : Origin
  value : Dword
  arr   : Dword
  count : Nat
  part  : Bool
  nan   : Bool
  deriving DecidableEq, Repr

/-- A reduction slot (R255): state 0 OPEN, 1 FORWARDED, 2 DONE; start is the round number at its start, or at DONE. -/
structure RSlot where
  g     : Nat
  q     : Nat
  state : Nat
  start : Nat
  ins   : List Contrib
  deriving DecidableEq, Repr

/-- An announcement (R258). -/
structure Ann where
  g    : Nat
  q    : Nat
  c    : Nat
  addr : Dword
  size : Nat
  o    : Origin
  deriving DecidableEq, Repr

/-- A pull that waits for its chunk (R259). -/
structure Pull where
  block : List Dword
  o     : Origin
  start : Nat
  deriving DecidableEq, Repr

/-- A chunk that a fabric port has delivered (R262): a leaf's own, or, with comb, what a node combined. -/
structure Chunk where
  port : Nat
  g    : Nat
  q    : Nat
  leaf : Nat
  c    : Nat
  comb : Bool
  data : List Byte
  deriving DecidableEq, Repr

/-- A request for a chunk that a fabric port has brought and that is not answered yet (R259, R262): kind 0 for one leaf's chunk, 1 for the
combined chunk, 2 for every leaf's. -/
structure Ask where
  port  : Nat
  g     : Nat
  q     : Nat
  kind  : Nat
  leaf  : Nat
  c     : Nat
  start : Nat
  /-- it has gone on along the tree for what lies elsewhere -/
  sent  : Bool
  deriving DecidableEq, Repr

/-- What a port has said last for a request: nothing more comes, and which leaves it names as missing (R260, R262, R354). -/
structure ChunkEnd where
  port : Nat
  g    : Nat
  q    : Nat
  kind : Nat
  leaf : Nat
  c    : Nat
  miss : Dword
  deriving DecidableEq, Repr

/-- A barrier tag (R154, R155): arrivals hold element, value, timestamp and launch. -/
structure BarTag where
  op   : Nat
  chan : Nat
  mem  : BitVec 2048
  ep   : Nat
  arr  : List (Origin × BitVec 32)
  deriving DecidableEq, Repr

/-! ## Launches and the host -/

/-- An active launch (R318 to R325): its record, address space, scope, the dies still to admit it, the partitions taken, and
the host queue it came from. -/
structure Launch where
  rcd   : List Dword
  asid  : Nat
  scope : Nat
  /-- the cluster of its start elements, at group scope (R320) -/
  home  : Nat
  todo  : List Nat
  parts : Tbl Nat
  queue : Option Nat
  /-- 0 running; 1 no new starts; 2 stopped, between S and C; 3 captured (R373, R375) -/
  held  : Nat
  deriving DecidableEq, Repr

/-- A launch slot (R328, R357). -/
structure Slot where
  q     : Option Nat
  held  : Nat
  taken : Dword
  deriving DecidableEq, Repr

/-! ## What is in flight -/

/-- An act that has been released and has not arrived (R279, R283). -/
inductive Body where
  /-- a message or start event for an element -/
  | ev (el : Nat) (e : Ev)
  | word (el dir : Nat) (w : PortWord)
  | credit (el dir : Nat)
  | cf (op : CfOp)
  /-- a contribution for group g and sequence q -/
  | group (g q : Nat) (c : Contrib)
  /-- the parent's answer: a result with code 0 or 1, or a reply of another code (R253) -/
  | result (g q code : Nat) (value arr : Dword) (count : Nat) (nan : Bool)
  | barv (tag : Nat) (v : BitVec 32) (o : Origin)
  | barcfg (tag : Nat) (block : List Dword)
  | grdy (block : List Dword) (o : Origin)
  | gpull (block : List Dword) (o : Origin)
  /-- a cell update: place, codec of its page, item, checksum, and whether it deletes -/
  | cell (pa codec : Nat) (key dig chk : Dword) (del : Bool) (o : Origin)
  | launch (die : Nat) (lid : BitVec 32)
  /-- a request for the pre-emption unit (R372) -/
  | preempt (payload : List Dword) (o : Origin)
  /-- an engine push on its way to its queue, with what the marks of a BFILL gave (R239, R287) -/
  | push (q : QueueId) (jid : BitVec 32) (cmd : BitVec 256) (now : Dword) (o : Origin) (blocks : List Nat) (fail : Option Nat)
  deriving DecidableEq, Repr

/-- An act in flight: the unit it left, the unit it goes to, the round it was released in. -/
structure Packet where
  src   : Nat
  dst   : Nat
  round : Nat
  body  : Body
  deriving DecidableEq, Repr

/-- What comes by a fabric port (R347, R350, R353, R355): a packet, a remote request, a horizon report, a fold request. -/
inductive Arrival where
  | fab (port : Nat) (p : FabPkt)
  | remote (peer : Peer) (pa : Nat) (op : RemoteOp)
  | horizon (slid : BitVec 32) (j : Nat) (peer : Peer) (l : Dword) (part : SysPart)
  | fold (idie : Nat) (peer : Peer) (addr : Dword) (epoch : BitVec 32) (b : BitVec 5) (seeds : List Dword)
  deriving DecidableEq, Repr

/-- An arrival behind a port's marker, and the system edge that it waits for (R352). -/
structure HeldIn where
  edge : Nat
  arr  : Arrival
  deriving DecidableEq, Repr

/-- The writes of a COMMIT that await an edge, with its origin (R279). -/
structure RlPart where
  o  : Origin
  ws : Tbl (Byte × Nat)
  deriving DecidableEq, Repr

/-- What has left the package: bytes for host or remote memory, packets on fabric ports, and answers to the host and to the
management port. -/
inductive OutMsg where
  | write (pa : Nat) (bytes : List Byte)
  | packet (port : Nat) (p : FabPkt)
  | hostRead (data : Option (List Byte))
  /-- a register of the control BAR, as the host reads it (R357) -/
  | barRead (v : Dword)
  | msix (vec : Nat)
  | mgmt (status : Nat) (data : Dword)
  | report (dwords : List Dword) (sig : BitVec 512)
  /-- a marker flit on a port (R344, R352) -/
  | marker (port : Nat) (flit : BitVec 512)
  deriving DecidableEq, Repr

/-- A quantum operation held at its home (R286): of an element of this package, or of another device (R350). -/
structure QOp where
  el   : Nat
  a    : Iatom
  peer : Option Peer
  deriving DecidableEq, Repr

/-- A horizon report (R353). -/
structure HReport where
  slid : BitVec 32
  j    : Nat
  dev  : Nat
  l    : Dword
  part : SysPart
  deriving DecidableEq, Repr

/-- What the COMMITs of a system edge did, as every member knows it (log 53): the runs committed, by element address and arrival number,
the lines written, and whether the edge admitted a serial event. -/
structure SysPast where
  slid  : BitVec 32
  k     : Nat
  gone  : List (Nat × Nat)
  lines : List (Nat × Nat)
  ser   : Bool
  deriving DecidableEq, Repr

/-- What the outbox of a finished run of a system launch held at a system edge (R353). -/
structure ObRec where
  slid : BitVec 32
  j    : Nat
  el   : Nat
  num  : Nat
  lo   : Nat
  deriving DecidableEq, Repr

/-- A CF operation that has left for another device and whose last message is still to come (R274): its issuer, the channel of that
message, the handle, and what D1 of the message repeats (R221); of a management operation, the round by which a refusal has come (log 23). -/
structure CfAway where
  o    : Origin
  chan : Nat
  h    : Dword
  key  : Nat
  due  : Option Nat
  deriving DecidableEq, Repr

/-- A link with its replay (R317, R345): the sequence number of the flit that failed last, how often it has failed since the link last
carried another flit or retrained, and whether it has been retrained for it. -/
structure Link where
  seq   : Nat
  fails : Nat
  again : Bool
  deriving DecidableEq, Repr

/-- What a pre-emptive MSAVE of a pre-emption has saved (R373): the cluster, the launch, the row blocks it owned, and the image, which is
kept until the context image holds it. -/
structure MSaved where
  cl     : Nat
  lid    : BitVec 32
  blocks : List Nat
  image  : List Byte
  deriving DecidableEq, Repr

/-- The pre-emption unit (R372, R373): its stage (0 idle, 1 until edge E, 2 until S, 3 until C, 4 a RESUME or DISCARD that
waits for an edge, 5 at C), the request, E, the edge number at S, and what its pre-emptive MSAVEs have saved. -/
structure PreUnit where
  stage : Nat
  op    : Nat
  lids  : List (BitVec 32)
  img   : Dword
  cap   : Dword
  reply : Dword
  o     : Origin
  e     : Nat
  sEdge : Nat
  saves : List MSaved
  deriving DecidableEq, Repr

/-- A stopped context (R375 to R378): its launches, image, capacity and reply address, the image's size, what its copy and
backfill commands had settled at issue, the row blocks of its matrix images, with the images themselves while none is written, late events,
and how many were dropped. -/
structure Ctx where
  lids    : List (BitVec 32)
  img     : Dword
  cap     : Dword
  reply   : Dword
  written : Bool
  size    : Nat
  jobs    : List (QueueId × Job)
  saves   : List MSaved
  /-- by launch identifier: the least timestamp that the image holds -/
  least   : Tbl Nat
  late    : List (Nat × Ev)
  drops   : Nat
  deriving DecidableEq, Repr

/-- The registers of the package (R327, R346, R351, R357, R387 and the rules they name). -/
structure Regs where
  run      : Bool
  devnum   : BitVec 16
  rpset    : BitVec 5
  /-- RPERIOD: the period in force, RPSET as of the last edge (R26) -/
  rperiod  : BitVec 5
  srctl    : Dword
  srno     : Nat
  xroot    : Dword
  ageq     : BitVec 5
  fpctl    : Tbl Dword
  mdbase   : Tbl Dword
  mdlim    : Tbl Dword
  islctl   : Tbl Dword
  windows  : Tbl Dword
  sltab    : Tbl Dword
  route    : Tbl Byte
  qtbase   : Dword
  qtctl    : Dword
  winbase  : Dword
  msix     : Mem
  msixPend : Dword
  /-- table entries written since the last edge: management address and value (R387) -/
  tabPend  : List (Nat × Dword)
  meas     : Tbl (BitVec 256)
  /-- the owner public key, the spare rows that self-test may use by kind, and the storage devices' places of the stage 3 image, from the
  configuration image (R381, R383, R384) -/
  owner    : BitVec 512
  limits   : List Nat
  storage  : List (Nat × Nat)
  stage    : Nat
  recovery : Bool
  boots    : Dword
  deriving DecidableEq, Repr

/-- A turn: which agent moves. An element executes its next instruction, an engine issues or continues its selected command
(fill for a matrix engine's fill port, R193), an event of the opcode table takes place, or one of the acts that the table has no row
for: a push enters its queue (ENQUEUE, R277), a reconcile engine serves a fold request (R355), the host reads the control BAR (R357),
management software orders the reset of a memory link or CXL port (R317), an arrival that a marker has held is taken (R352). -/
inductive Turn where
  | element (el : Nat)
  | engine (q : QueueId) (fill : Bool)
  | event (i : Instr)
  | push (n : Nat)
  | fold (idie : Nat)
  | barRead (off : Nat)
  | linkReset (l : LinkId)
  | held (a : Arrival)
  deriving DecidableEq, Repr

/-- Who stops the machine. -/
inductive Fault where
  /-- Raised by step when boot has entered recovery and no turn is planned: the device then serves nothing but attestation
  requests (R383). Safe: the device does nothing either. -/
  | recovery
  deriving DecidableEq, Repr

/-- Why an instruction has no meaning. -/
inductive Refusal where
  /-- Raised by exec for an instruction whose meaning is not written. Safe: nothing is claimed of it. -/
  | notModelled (mnemonic : String)
  deriving DecidableEq, Repr

/-- What a step has done that outlives it even when it ends in a trap or a job's fault: bits set in a page-table entry (R304), or a
request that an I-die's route table dropped (R348). -/
inductive Kept where
  | pte (addr : Nat) (bits : Dword) | drop (idie : Nat)
  deriving DecidableEq, Repr

/-- The state of the package. -/
structure State where
  /-- the turns that are to come; when there is none, step chooses one (log 2) -/
  agenda   : List Turn
  /-- the model's own counter, advanced by every step, that free values are applied to (log 3) -/
  tick     : Nat
  /-- the element, the engine queue and its job whose turn it is -/
  cur      : Nat
  /-- what this step has done that a trap or a job's fault keeps, the latest first (R304, R348) -/
  marks    : List Kept
  curQ     : QueueId
  curJ     : BitVec 32
  elems    : Tbl Elem
  clusters : Tbl Cluster
  dies     : Tbl Die
  queues   : Tbl EQueue
  regs     : Regs
  /-- physical memory: near, far and scratchpad regions, as stored, compression states in their metadata regions (R294, R306) -/
  mem      : Mem
  /-- poisoned words of it (R315), and those of scratchpad rows with a poisoned one that have not been written since (R316) -/
  memBad   : List Nat
  memTodo  : List Nat
  /-- states of cblocks, by their bit address in memory, that have been written since their word was poisoned (R306, R315) -/
  stateSet : List Nat
  /-- memory as it stood after the last edge's quantum combination (R286) -/
  memEdge  : Mem
  nearCap  : Nat
  farCap   : Tbl Nat
  nearDown : List Nat
  farDown  : List Nat
  /-- fabric ports that are down until management software orders a reset of them (R345) -/
  fabDown  : List Nat
  /-- fabric ports that were up at the last package edge, as the combining node sees them (R354) -/
  portEdge : List Nat
  /-- links whose replay is under way, by number (R317, R345) -/
  links    : Tbl Link
  /-- spare rows in use by bank, correctable reads by row, and the banks that needed a spare and had none (R316) -/
  spares   : Tbl Nat
  rowHits  : Tbl Nat
  spent    : List Nat
  deadEl   : List Nat
  launches : Tbl Launch
  lidLast  : Nat
  slots    : Tbl Slot
  waited   : Tbl Nat
  tailSeen : Tbl Nat
  /-- by group domain: the release set, COMMIT by COMMIT in commit order (R279) -/
  rl       : Tbl (List RlPart)
  quants   : List QOp
  net      : List Packet
  bars     : Tbl BarTag
  groups   : Tbl (Dword × Dword)
  hseq     : Tbl Nat
  rslots   : List RSlot
  anns     : List Ann
  /-- this leaf's chunks that were asked for before HSEQ passed their sequence, as they were read then; no bytes where they could not be
  (R258, R262) -/
  annKept  : List Chunk
  pulls    : List Pull
  chunks   : List Chunk
  asks     : List Ask
  ends     : List ChunkEnd
  /-- reductions of an entry that GCFG ended whose answer from the parent is still to come (R252) -/
  stale    : List (Nat × Nat)
  /-- groups whose enabled entry GCFG has replaced (R252) -/
  renewed  : List Nat
  cfAway   : List CfAway
  /-- the last bulk job that ended, by group and sequence: delivered chunks and missing leaves (R260) -/
  bulk     : List (Nat × Nat × Nat × Dword)
  roundGen : Nat
  roundNo  : Nat
  sysStart : Nat
  sysSeen  : Tbl Nat
  reports  : List HReport
  /-- what has come by ports behind their markers (R352) -/
  heldIn   : List HeldIn
  obHist   : List ObRec
  /-- the COMMITs of the last system edges (log 53) -/
  sysHist  : List SysPast
  /-- system launches whose part on this device has ended (R353) -/
  slDone   : List Nat
  /-- by system launch: H, the other members' H_O, and the edge whose reports gave them (R353) -/
  hor      : Tbl (Dword × Dword × Nat)
  /-- by island: the thermal step, and EDIV (R389) -/
  thermal  : Tbl (Nat × Nat)
  /-- the element whose next access to host memory finds a host request timed out (R359) -/
  hostLost : Option Nat
  pre      : PreUnit
  ctxs     : List Ctx
  out      : List OutMsg
  deriving DecidableEq, Repr

/-! ## Reset -/

/-- The class T and E registers after reset (R33): STATUS 0x1_0000_0000, every other one 0. -/
def Csrs.reset : Csrs :=
  { status := 0x100000000, wp := 0, tsnow := 0, trun := 0, launchid := 0, xferid := 0, fpflags := 0, fprm := 0, vgrant := 0,
    cxdelta := 0, cxeps := 0, axmode := 0, axtau := 0, audrate := 0, axwsum := 0 }

/-- The class X registers after reset (R33). -/
def XCsrs.reset : XCsrs := { epc0 := 0, epc1 := 0, epc2 := 0, eann := 0, ecause := 0, eval := 0, eprog := 0 }

/-- The sequencing state after reset (DESIGN CHOICE 0, log 5). -/
def Seq.reset : Seq := { p := 0, n1 := 0, n2 := 0, ap := false, a1 := false, a2 := false }

/-- A handler-table entry after reset: every field 0 except MASK, D2[6], which is 1 (R13). -/
def ChEntry.reset : ChEntry := { d0 := 0, d1 := 0, d2 := 0x40 }

/-- An element after reset (INVENTORY.md; logs 5 and 7). -/
def Elem.reset : Elem :=
  { ls := [], lsBad := [], lsTodo := [], bmask := 0xFF, csr := Csrs.reset, x := XCsrs.reset, twp := 0, tst := 0, tfpf := 0, tfpr := 0,
    seq := Seq.reset, afterEret := false, bf := [], v := [], m := [], req := none, chans := [], inq := [], seqNo := 0, occ := [],
    fifo := [], credit := [], iq := [], last := [], run := none, under := none, fin := [], halted := false,
    stopping := false, stall := .none, tlb := [] }

/-- A counter after reset (R29). -/
def Counter.reset : Counter := { value := 0, byte := false, expect := none, arm := none }

/-- A cluster after reset (R29; logs 5 and 7). -/
def Cluster.reset : Cluster :=
  { sc := [], opm := [], opmBad := [], accBad := [], opmTodo := [], accTodo := [], slotOwn := [], slotFree := [], acc := [], blkOwn := [], tiles := [], ctxs := [],
    lanes := [.free, .free, .free, .free, .free, .free, .free, .free], spb := 32, rows := 8192, meOk := true, tlb := [],
    softErr := 0 }

/-- A CF object after reset: FREE with every field zero (R219). -/
def CfObj.reset : CfObj :=
  { state := 0, gen := 0, wide := false, nl := 0, w := 0, owner := 0, a := 0, e := 0, eset := false, parked := [], reads := [],
    counts := [], exitl := 0, lanes := [], bad := [] }

/-- A die after reset (R265, R390, R391; log 5). -/
def Die.reset : Die :=
  { cf := [], tele := [], mclog := [], mccount := 0, waiting := [], seeds := [], rcb := 6, rcmaxr := 4, peels := [], ptrs := [], folds := [], portFolds := [] }

/-- An engine queue after reset (R157). -/
def EQueue.reset : EQueue := { jobs := [], seq := 0, ended := [], arms := [], active := none, edge := none, held := [], gone := [] }

/-- A barrier tag after reset (R154). -/
def BarTag.reset : BarTag := { op := 0, chan := 0, mem := 0, ep := 0, arr := [] }

/-- A launch slot after reset (R357). -/
def Slot.reset : Slot := { q := none, held := 0, taken := 0 }

/-- An origin that names no task: launch identifier 0, timestamp 0 (R368). -/
def Origin.none : Origin := { el := 0, chan := 0, mode := 0, ts := 0, lid := 0, asid := 0 }

/-- The pre-emption unit, idle. -/
def PreUnit.idle : PreUnit :=
  { stage := 0, op := 0, lids := [], img := 0, cap := 0, reply := 0, o := Origin.none, e := 0, sEdge := 0, saves := [] }

/-- The package registers after reset (R327, R387, R389). -/
def Regs.reset : Regs :=
  { run := false, devnum := 0, rpset := 10, rperiod := 10, srctl := 0, srno := 0, xroot := 0, ageq := 12, fpctl := [], mdbase := [],
    mdlim := [], islctl := [], windows := [], sltab := [], route := [], qtbase := 0, qtctl := 0x110040000, winbase := 0,
    msix := [], msixPend := 0, tabPend := [], meas := [], owner := 0, limits := [4, 8, 2, 128], storage := [], stage := 0, recovery := false, boots := 0 }

/-- The machine right after reset. -/
def State.reset : State :=
  { agenda := [], tick := 0, cur := 0, marks := [], curQ := { eng := 0, idx := 0 }, curJ := 0, elems := [], clusters := [], dies := [], queues := [],
    regs := Regs.reset, mem := [], memBad := [], memTodo := [], stateSet := [], memEdge := [], nearCap := 6 * 2 ^ 40, farCap := [],
    nearDown := [], farDown := [], fabDown := [], portEdge := [], links := [], spares := [], rowHits := [], spent := [], deadEl := [], launches := [], lidLast := 0, slots := [], waited := [], tailSeen := [],
    rl := [], quants := [], net := [], bars := [], groups := [], hseq := [], rslots := [], anns := [], annKept := [], pulls := [],
    chunks := [], asks := [], ends := [], stale := [], renewed := [], cfAway := [], bulk := [], roundGen := 0, roundNo := 0, sysStart := 0, sysSeen := [], reports := [], heldIn := [], obHist := [], sysHist := [], slDone := [], hor := [],
    thermal := [], hostLost := none, pre := PreUnit.idle, ctxs := [], out := [] }

end Sys2Proof.Machine
end

