-- ==== Sys2Proof/Machine/Table.lean ====
section
/-! DEFINITION. Reading and writing the tables and memories of State, little-endian byte strings (R92), bit fields, and the
list helpers every chapter uses. -/

namespace Sys2Proof.Machine

/-! ## Tables -/

/-- The value listed under a key, or the default. -/
def tget {α : Type} : Tbl α → Nat → α → α
  | [], _, d => d
  | (k, v) :: t, a, d => if k == a then v else tget t a d

/-- The value listed under a key, if there is one. -/
def tfind {α : Type} : Tbl α → Nat → Option α
  | [], _ => none
  | (k, v) :: t, a => if k == a then some v else tfind t a

/-- Write a key, keeping the keys rising. -/
def tput {α : Type} : Tbl α → Nat → α → Tbl α
  | [], a, x => [(a, x)]
  | (k, v) :: t, a, x =>
    if a < k then (a, x) :: (k, v) :: t
    else if a == k then (a, x) :: t
    else (k, v) :: tput t a x

/-- Remove a key. -/
def tdel {α : Type} : Tbl α → Nat → Tbl α
  | [], _ => []
  | (k, v) :: t, a => if k == a then t else (k, v) :: tdel t a

/-- Change the value under a key. -/
def tmod {α : Type} (t : Tbl α) (a : Nat) (d : α) (f : α → α) : Tbl α := tput t a (f (tget t a d))

/-- The keys rise strictly. -/
def rising {α : Type} : Tbl α → Bool
  | [] => true
  | [_] => true
  | (k, _) :: (j, w) :: t => Nat.blt k j && rising ((j, w) :: t)

/-! ## Memories -/

/-- One byte of a memory: 0 where nothing is listed. -/
def memGet (m : Mem) (a : Nat) : Byte := tget m a 0

/-- Write one byte: a 0 is not listed. -/
def memPut (m : Mem) (a : Nat) (b : Byte) : Mem := if b == 0 then tdel m a else tput m a b

/-- No listed byte is 0. -/
def noZero : Mem → Bool
  | [] => true
  | (_, b) :: m => (b != 0) && noZero m

/-- The canonical form: addresses strictly rising, no entry equal to what an unlisted address reads as. -/
def Memory.wf (m : Mem) : Bool := rising m && noZero m

/-- n bytes from an address on. -/
def memRead (m : Mem) (a : Nat) : Nat → List Byte
  | 0 => []
  | n + 1 => memGet m a :: memRead m (a + 1) n

/-- Bytes from an address on. -/
def memWrite (m : Mem) (a : Nat) : List Byte → Mem
  | [] => m
  | b :: bs => memWrite (memPut m a b) (a + 1) bs

/-- The number a little-endian byte string stands for (R92). -/
def leNat : List Byte → Nat
  | [] => 0
  | b :: bs => b.toNat + 256 * leNat bs

/-- A number as n bytes, little-endian (R92). -/
def leBytes : Nat → Nat → List Byte
  | 0, _ => []
  | n + 1, v => BitVec.ofNat 8 v :: leBytes n (v / 256)

/-- An n-byte little-endian number in memory. -/
def memNat (m : Mem) (a n : Nat) : Nat := leNat (memRead m a n)

/-- Write an n-byte little-endian number. -/
def memPutNat (m : Mem) (a n v : Nat) : Mem := memWrite m a (leBytes n v)

/-- A dword of memory. -/
def memDword (m : Mem) (a : Nat) : Dword := BitVec.ofNat 64 (memNat m a 8)

/-- Clear the bytes of a range. -/
def memClear (m : Mem) (a n : Nat) : Mem := m.filter (fun c => Nat.blt c.1 a || Nat.ble (a + n) c.1)

/-- The part of a memory in a range, with its addresses. -/
def memSlice (m : Mem) (a n : Nat) : Mem := m.filter (fun c => Nat.ble a c.1 && Nat.blt c.1 (a + n))

/-! ## Bits and numbers -/

/-- Bits hi to lo of a number. -/
def nbits (v hi lo : Nat) : Nat := (v >>> lo) % 2 ^ (hi + 1 - lo)

/-- Bits hi to lo of a dword, as a number. -/
def fld (v : Dword) (hi lo : Nat) : Nat := nbits v.toNat hi lo

/-- One bit of a dword. -/
def dbit (v : Dword) (i : Nat) : Bool := v.toNat.testBit i

/-- A dword from a number, modulo 2^64. -/
def dw (n : Nat) : Dword := BitVec.ofNat 64 n

/-- 1 for true, 0 for false. -/
def bnat (b : Bool) : Nat := if b then 1 else 0

/-- The least multiple of m that is not below n. -/
def roundUp (n m : Nat) : Nat := (n + m - 1) / m * m

/-- The number of elements of a list that satisfy a test. -/
def countIf {α : Type} (p : α → Bool) (l : List α) : Nat := (l.filter p).length

/-- The numbers from a to a + n - 1. -/
def span (a : Nat) : Nat → List Nat
  | 0 => []
  | n + 1 => a :: span (a + 1) n

/-- The least number of a list, or d when it is empty. -/
def leastOf (d : Nat) : List Nat → Nat
  | [] => d
  | x :: xs => Nat.min x (leastOf d xs)

/-- The list without its n-th entry. -/
def dropAt {α : Type} : List α → Nat → List α
  | [], _ => []
  | _ :: l, 0 => l
  | x :: l, n + 1 => x :: dropAt l n

/-- Insert before the first entry that is greater by the order lt: a stable insertion. -/
def insertBy {α : Type} (lt : α → α → Bool) (x : α) : List α → List α
  | [] => [x]
  | y :: l => if lt x y then x :: y :: l else y :: insertBy lt x l

/-- Insert before the first entry that is not less. -/
def insertBefore {α : Type} (lt : α → α → Bool) (x : α) : List α → List α
  | [] => [x]
  | y :: l => if lt y x then y :: insertBefore lt x l else x :: y :: l

/-- A stable sort: x stands before the equal entries that follow it. -/
def sortBy {α : Type} (lt : α → α → Bool) : List α → List α
  | [] => []
  | x :: l => insertBefore lt x (sortBy lt l)

/-- The list without repeats, each entry at its first place. -/
def distinct (l : List Nat) : List Nat := (l.foldl (fun acc x => if acc.contains x then acc else x :: acc) []).reverse

/-- Split a list into pieces of n (with fuel the list's length). -/
def piecesAux {α : Type} (n : Nat) : Nat → List α → List (List α)
  | 0, _ => []
  | _ + 1, [] => []
  | k + 1, l => l.take n :: piecesAux n k (l.drop n)

/-- Split a list into pieces of n. -/
def pieces {α : Type} (n : Nat) (l : List α) : List (List α) := piecesAux n l.length l

/-- The dwords a byte string holds. -/
def bytesDwords (l : List Byte) : List Dword := (pieces 8 l).map (fun p => dw (leNat p))

/-- The bytes of dwords, in memory order. -/
def dwordsBytes (l : List Dword) : List Byte := l.flatMap (fun d => leBytes 8 d.toNat)

/-- Dword i of a list, 0 beyond it. -/
def dwAt (l : List Dword) (i : Nat) : Dword := l.getD i 0

end Sys2Proof.Machine
end

