-- ==== Sys2Proof/Machine/Fp.lean ====
section
/-! DEFINITION. Number formats and arithmetic (R85 to R107): every operation is computed exactly and rounded once. A result
is a pair: the bits, and the flags raised, numbered as the bits of FPFLAGS (R35). -/

namespace Sys2Proof.Machine

/-! ## Flags (R35, R95) -/

/-- Invalid. -/
def flNV : Nat := 1
/-- Division by zero. -/
def flDZ : Nat := 2
/-- Overflow. -/
def flOF : Nat := 4
/-- Underflow. -/
def flUF : Nat := 8
/-- Inexact. -/
def flNX : Nat := 16
/-- TERN2 pattern 0b10 read. -/
def flTern : Nat := 32
/-- A saturating conversion clipped. -/
def flSat : Nat := 64

/-! ## Formats (R85) -/

/-- Fraction bits of a floating format. -/
def fracBits : Fmt → Nat
  | .fp64 => 52 | .fp32 => 23 | .fp16 => 10 | .bf16 => 7 | .e4m3 => 3 | .e5m2 => 2
  | .int8 => 0 | .int16 => 0 | .int32 => 0 | .int64 => 0 | .uint8 => 0 | .uint16 => 0 | .uint32 => 0 | .tern2 => 0 | .cfx64 => 0

/-- Exponent bits of a floating format. -/
def expBits (f : Fmt) : Nat := fmtBits f - 1 - fracBits f

/-- The bias. -/
def fpBias (f : Fmt) : Nat := 2 ^ (expBits f - 1) - 1

/-- Codes 0 to 5: the floating formats. -/
def isFloat (f : Fmt) : Bool := decide ((fmtCode f).toNat ≤ 5)

/-- Signed integer formats, TERN2 and CFX64 among them. -/
def isSigned : Fmt → Bool
  | .int8 => true | .int16 => true | .int32 => true | .int64 => true | .tern2 => true | .cfx64 => true
  | .fp64 => false | .fp32 => false | .fp16 => false | .bf16 => false | .e4m3 => false | .e5m2 => false
  | .uint8 => false | .uint16 => false | .uint32 => false

/-- The bits of infinity, sign 0; E4M3 has none, and the place is its NaN (R99). -/
def fpInfBits (f : Fmt) : Nat := if f == .e4m3 then 0x7F else (2 ^ expBits f - 1) * 2 ^ fracBits f

/-- The largest finite value, sign 0. -/
def fpMaxBits (f : Fmt) : Nat := fpInfBits f - 1

/-- The canonical NaN (R87). -/
def fpCanon (f : Fmt) : Nat := if f == .e4m3 then 0x7F else fpInfBits f + 2 ^ (fracBits f - 1)

/-- The sign bit's place value. -/
def signBit (f : Fmt) : Nat := 2 ^ (fmtBits f - 1)

/-- A value: a NaN with its sign, whether it signals, and its fraction field; an infinity; or m times 2^e, with a sign that a
zero keeps. -/
inductive FpVal where
  | nan (s sig : Bool) (fr : Nat)
  | inf (s : Bool)
  | fin (s : Bool) (m : Nat) (e : Int)
  deriving DecidableEq, Repr

/-- The value a bit pattern denotes (R85, R86). -/
def fpDecode (f : Fmt) (b : Nat) : FpVal :=
  let s := b.testBit (fmtBits f - 1)
  let fr := b % 2 ^ fracBits f
  let ex := b / 2 ^ fracBits f % 2 ^ expBits f
  if f == .e4m3 then
    if ex == 15 && fr == 7 then .nan s false fr
    else if ex == 0 then .fin s fr (1 - (fpBias f : Int) - fracBits f)
    else .fin s (fr + 2 ^ fracBits f) ((ex : Int) - fpBias f - fracBits f)
  else if ex == 2 ^ expBits f - 1 then
    if fr == 0 then .inf s else .nan s (!fr.testBit (fracBits f - 1)) fr
  else if ex == 0 then .fin s fr (1 - (fpBias f : Int) - fracBits f)
  else .fin s (fr + 2 ^ fracBits f) ((ex : Int) - fpBias f - fracBits f)

/-- A NaN. -/
def FpVal.isNan : FpVal → Bool
  | .nan _ _ _ => true | .inf _ => false | .fin _ _ _ => false

/-- A signalling NaN. -/
def FpVal.isSig : FpVal → Bool
  | .nan _ g _ => g | .inf _ => false | .fin _ _ _ => false

/-- A zero. -/
def FpVal.isZero : FpVal → Bool
  | .nan _ _ _ => false | .inf _ => false | .fin _ m _ => m == 0

/-- The sign. -/
def FpVal.sign : FpVal → Bool
  | .nan s _ _ => s | .inf s => s | .fin s _ _ => s

/-- Put a sign on bits. -/
def withSign (f : Fmt) (s : Bool) (b : Nat) : Nat := if s then b + signBit f else b

/-- A NaN operand made quiet, sign and payload kept (R96). -/
def quieten (f : Fmt) (b : Nat) : Nat := if f == .e4m3 then b else b ||| 2 ^ (fracBits f - 1)

/-! ## Rounding (R93, R94) -/

/-- The number of bits of a number. -/
def bitLen (n : Nat) : Nat := if n == 0 then 0 else Nat.log2 n + 1

/-- Round m / 2^k to an integer in mode rm, for a value of sign s: the integer, and whether it is inexact (R93). -/
def roundShift (rm : Nat) (s : Bool) (m k : Nat) : Nat × Bool :=
  let q := m >>> k
  let r := m % 2 ^ k
  if r == 0 then (q, false)
  else
    let up :=
      if rm == 0 then decide (2 ^ k < 2 * r) || (2 * r == 2 ^ k && q % 2 == 1)
      else if rm == 1 then false
      else if rm == 2 then s
      else !s
    (if up then q + 1 else q, true)

/-- What R94 delivers on overflow: true for infinity, false for the largest finite value. -/
def overInf (rm : Nat) (s : Bool) : Bool :=
  if rm == 0 then true else if rm == 1 then false else if rm == 2 then s else !s

/-- Round the value (-1)^s m 2^e once to format f, saturating for sat (R93, R94, R95, R99). -/
def fpRound (f : Fmt) (rm : Nat) (sat : Bool) (s : Bool) (m : Nat) (e : Int) : Nat × Nat :=
  if m == 0 then (withSign f s 0, 0)
  else
    let emin : Int := 1 - (fpBias f : Int)
    let ex : Int := max (e + bitLen m - 1) emin
    let q : Int := ex - fracBits f
    let d : Int := q - e
    let mr := if 0 < d then roundShift rm s m d.toNat else (m <<< (-d).toNat, false)
    -- a carry out of the fraction moves to the next exponent; the value is mr.1 * 2^q
    let carry := decide (2 ^ (fracBits f + 1) ≤ mr.1)
    let fr := if carry then mr.1 / 2 else mr.1
    let q' : Int := if carry then q + 1 else q
    let biased : Int := if fr < 2 ^ fracBits f then 0 else q' + fracBits f + fpBias f
    let mag : Nat := if biased ≤ 0 then fr else (biased.toNat) * 2 ^ fracBits f + fr % 2 ^ fracBits f
    if decide (fpMaxBits f < mag) then
      if sat then (withSign f s (fpMaxBits f), flSat)
      else (withSign f s (if overInf rm s then fpInfBits f else fpMaxBits f), flOF ||| flNX)
    else
      let uf := mr.2 && decide (mag < 2 ^ fracBits f)
      (withSign f s mag, (if mr.2 then flNX else 0) ||| (if uf then flUF else 0))

/-- A value strictly between m and m + 1 units of 2^e stands for every such value in rounding, if m has two bits more than
the result. -/
def sticky (m : Nat) (inexact : Bool) (e : Int) : Nat × Int := (4 * m + (if inexact then 1 else 0), e - 2)

/-- The largest r with r * r ≤ n, by bits from i down. -/
def isqrtBits (n : Nat) : Nat → Nat → Nat
  | 0, r => r
  | i + 1, r => let t := r + 2 ^ i; isqrtBits n i (if t * t ≤ n then t else r)

/-- The integer square root. -/
def isqrt (n : Nat) : Nat := isqrtBits n (bitLen n / 2 + 1) 0

/-! ## Arithmetic (R95, R96, R97, R114) -/

/-- The NaN that a list of operands, in operand order, gives: the first NaN, quiet, and NV if any signals (R96). -/
def nanOf (f : Fmt) (ops : List Nat) : Option (Nat × Nat) :=
  match ops.find? (fun b => (fpDecode f b).isNan) with
  | none => none
  | some b => some (quieten f b, if ops.any (fun x => (fpDecode f x).isSig) then flNV else 0)

/-- The sum of two signed dyadic values: sign, magnitude, exponent; a zero gets the sign of R94. -/
def dyAdd (rm : Nat) (s1 : Bool) (m1 : Nat) (e1 : Int) (s2 : Bool) (m2 : Nat) (e2 : Int) : Bool × Nat × Int :=
  let e := min e1 e2
  let a : Int := (if s1 then -1 else 1) * (m1 <<< (e1 - e).toNat : Nat)
  let b : Int := (if s2 then -1 else 1) * (m2 <<< (e2 - e).toNat : Nat)
  let t := a + b
  if t == 0 then ((if s1 == s2 then s1 else rm == 2), 0, e) else (decide (t < 0), t.natAbs, e)

/-- round(a + b). -/
def fpAdd (f : Fmt) (rm : Nat) (a b : Nat) : Nat × Nat :=
  match nanOf f [a, b] with
  | some r => r
  | none =>
    match fpDecode f a, fpDecode f b with
    | .inf s, .inf t => if s == t then (withSign f s (fpInfBits f), 0) else (fpCanon f, flNV)
    | .inf s, _ => (withSign f s (fpInfBits f), 0)
    | _, .inf t => (withSign f t (fpInfBits f), 0)
    | .fin s m e, .fin t n g => let r := dyAdd rm s m e t n g; fpRound f rm false r.1 r.2.1 r.2.2
    | _, _ => (fpCanon f, 0)

/-- The bits with the sign inverted. -/
def fpFlip (f : Fmt) (b : Nat) : Nat := b ^^^ signBit f

/-- round(a - b); a NaN b keeps its own sign (R96). -/
def fpSub (f : Fmt) (rm : Nat) (a b : Nat) : Nat × Nat :=
  match nanOf f [a, b] with
  | some r => r
  | none => fpAdd f rm a (fpFlip f b)

/-- round(a × b). -/
def fpMul (f : Fmt) (rm : Nat) (a b : Nat) : Nat × Nat :=
  match nanOf f [a, b] with
  | some r => r
  | none =>
    match fpDecode f a, fpDecode f b with
    | .inf s, .inf t => (withSign f (s != t) (fpInfBits f), 0)
    | .inf s, .fin t n _ => if n == 0 then (fpCanon f, flNV) else (withSign f (s != t) (fpInfBits f), 0)
    | .fin s m _, .inf t => if m == 0 then (fpCanon f, flNV) else (withSign f (s != t) (fpInfBits f), 0)
    | .fin s m e, .fin t n g => fpRound f rm false (s != t) (m * n) (e + g)
    | _, _ => (fpCanon f, 0)

/-- The product of two values, exact, for a fused operation: none for 0 × ∞. -/
def exactMul (a b : FpVal) : Option FpVal :=
  match a, b with
  | .inf s, .inf t => some (.inf (s != t))
  | .inf s, .fin t n _ => if n == 0 then none else some (.inf (s != t))
  | .fin s m _, .inf t => if m == 0 then none else some (.inf (s != t))
  | .fin s m e, .fin t n g => some (.fin (s != t) (m * n) (e + g))
  | _, _ => none

/-- round(a × b + c), with a and b in format g and c and the result in format f; NaN order c, a, b (R96, R102). -/
def fpFmaIn (f g : Fmt) (rm : Nat) (a b c : Nat) : Nat × Nat :=
  let va := fpDecode g a
  let vb := fpDecode g b
  let vc := fpDecode f c
  let inv := !va.isNan && !vb.isNan && (exactMul va vb).isNone
  let sig := va.isSig || vb.isSig || vc.isSig || inv
  let nv := if sig then flNV else 0
  -- a NaN of the narrower format is taken through R98
  let widen (x : Nat) (v : FpVal) : Nat :=
    if f == g then quieten f x
    else if g == .e4m3 then withSign f v.sign (fpCanon f)
    else withSign f v.sign (quieten f (fpInfBits f + (x % 2 ^ fracBits g) <<< (fracBits f - fracBits g)))
  if vc.isNan then (quieten f c, nv)
  else if va.isNan then (widen a va, nv)
  else if vb.isNan then (widen b vb, nv)
  else
    match exactMul va vb, vc with
    | none, _ => (fpCanon f, flNV)
    | some (.inf s), .inf t => if s == t then (withSign f s (fpInfBits f), 0) else (fpCanon f, flNV)
    | some (.inf s), _ => (withSign f s (fpInfBits f), 0)
    | some _, .inf t => (withSign f t (fpInfBits f), 0)
    | some (.fin s m e), .fin t n h => let r := dyAdd rm s m e t n h; fpRound f rm false r.1 r.2.1 r.2.2
    | some _, _ => (fpCanon f, 0)

/-- round(a × b + c) in one format. -/
def fpFma (f : Fmt) (rm : Nat) (a b c : Nat) : Nat × Nat := fpFmaIn f f rm a b c

/-- round(a / b). -/
def fpDiv (f : Fmt) (rm : Nat) (a b : Nat) : Nat × Nat :=
  match nanOf f [a, b] with
  | some r => r
  | none =>
    match fpDecode f a, fpDecode f b with
    | .inf _, .inf _ => (fpCanon f, flNV)
    | .inf s, .fin t _ _ => (withSign f (s != t) (fpInfBits f), 0)
    | .fin s _ _, .inf t => (withSign f (s != t) 0, 0)
    | .fin s m e, .fin t n g =>
      if n == 0 then
        if m == 0 then (fpCanon f, flNV) else (withSign f (s != t) (fpInfBits f), flDZ)
      else if m == 0 then (withSign f (s != t) 0, 0)
      else
        let k := bitLen n + fracBits f + 4
        let q := (m <<< k) / n
        let r := sticky q (q * n != m <<< k) (e - g - k)
        fpRound f rm false (s != t) r.1 r.2
    | _, _ => (fpCanon f, 0)

/-- A positive dyadic m 2^e with an even exponent. -/
def evenExp (m : Nat) (e : Int) : Nat × Int := if e % 2 == 0 then (m, e) else (2 * m, e - 1)

/-- round(√a). -/
def fpSqrt (f : Fmt) (rm : Nat) (a : Nat) : Nat × Nat :=
  match nanOf f [a] with
  | some r => r
  | none =>
    match fpDecode f a with
    | .inf s => if s then (fpCanon f, flNV) else (fpInfBits f, 0)
    | .fin s m e =>
      if m == 0 then (withSign f s 0, 0)
      else if s then (fpCanon f, flNV)
      else
        let v := evenExp m e
        let k := fracBits f + 4
        let n := v.1 <<< (2 * k)
        let r := isqrt n
        let t := sticky r (r * r != n) (v.2 / 2 - k)
        fpRound f rm false false t.1 t.2
    | .nan _ _ _ => (fpCanon f, 0)

/-- round(1 / √a), with the special operands of R182. -/
def fpRsqrt (f : Fmt) (rm : Nat) (a : Nat) : Nat × Nat :=
  match nanOf f [a] with
  | some r => r
  | none =>
    match fpDecode f a with
    | .inf s => if s then (fpCanon f, flNV) else (0, 0)
    | .fin s m e =>
      if m == 0 then (withSign f s (fpInfBits f), flDZ)
      else if s then (fpCanon f, flNV)
      else
        let v := evenExp m e
        let k := bitLen v.1 + fracBits f + 4
        let n := 2 ^ (2 * k) / v.1
        let r := isqrt n
        let t := sticky r (r * r * v.1 != 2 ^ (2 * k)) (-k - v.2 / 2)
        fpRound f rm false false t.1 t.2
    | .nan _ _ _ => (fpCanon f, 0)

/-- round(1 / a), with the special operands of R182. -/
def fpRcp (f : Fmt) (rm : Nat) (a : Nat) : Nat × Nat := fpDiv f rm (fpBias f * 2 ^ fracBits f) a

/-- Compare two values that are not NaNs: their order as real numbers with infinities. -/
def valCmp (a b : FpVal) : Ordering :=
  match a, b with
  | .inf s, .inf t => if s == t then .eq else if s then .lt else .gt
  | .inf s, _ => if s then .lt else .gt
  | _, .inf t => if t then .gt else .lt
  | .fin s m e, .fin t n g =>
    let h := min e g
    let x : Int := (if s then -1 else 1) * (m <<< (e - h).toNat : Nat)
    let y : Int := (if t then -1 else 1) * (n <<< (g - h).toNat : Nat)
    compare x y
  | _, _ => .eq

/-- a is less than b, −0 counting as less than +0 (R97). -/
def minLt (a b : FpVal) : Bool :=
  match valCmp a b with
  | .lt => true
  | .gt => false
  | .eq => a.sign && !b.sign

/-- Minimum (R97). -/
def fpMin (f : Fmt) (a b : Nat) : Nat × Nat :=
  match nanOf f [a, b] with
  | some r => r
  | none => (if minLt (fpDecode f b) (fpDecode f a) then b else a, 0)

/-- Maximum (R97). -/
def fpMax (f : Fmt) (a b : Nat) : Nat × Nat :=
  match nanOf f [a, b] with
  | some r => r
  | none => (if minLt (fpDecode f a) (fpDecode f b) then b else a, 0)

/-- Some operand is a NaN, or a signalling one. -/
def anyNan (f : Fmt) (a b : Nat) : Bool := (fpDecode f a).isNan || (fpDecode f b).isNan
/-- Some operand is a signalling NaN. -/
def anySig (f : Fmt) (a b : Nat) : Bool := (fpDecode f a).isSig || (fpDecode f b).isSig

/-- a == b; NV only for a signalling NaN (R114). -/
def fpEq (f : Fmt) (a b : Nat) : Bool × Nat :=
  (!anyNan f a b && valCmp (fpDecode f a) (fpDecode f b) == .eq, if anySig f a b then flNV else 0)

/-- a < b; NV for any NaN. -/
def fpLt (f : Fmt) (a b : Nat) : Bool × Nat :=
  (!anyNan f a b && valCmp (fpDecode f a) (fpDecode f b) == .lt, if anyNan f a b then flNV else 0)

/-- a ≤ b; NV for any NaN. -/
def fpLe (f : Fmt) (a b : Nat) : Bool × Nat :=
  (!anyNan f a b && valCmp (fpDecode f a) (fpDecode f b) != .gt, if anyNan f a b then flNV else 0)

/-- The class mask of R115. -/
def fpClass (f : Fmt) (a : Nat) : Nat :=
  match fpDecode f a with
  | .nan _ sig _ => if sig then 0x100 else 0x200
  | .inf s => if s then 0x1 else 0x80
  | .fin s m _ =>
    if m == 0 then (if s then 0x8 else 0x10)
    else if m < 2 ^ fracBits f then (if s then 0x4 else 0x20)
    else (if s then 0x2 else 0x40)

/-- The sign bit cleared. -/
def fpAbsBits (f : Fmt) (b : Nat) : Nat := b % signBit f

/-! ## The functions of R182

A result that is not exactly representable is irrational; it is cut to far more bits than any format holds and marked
inexact (DEDUCED, log 11). -/

/-- Working precision, in bits after the point. -/
def sfuBits : Nat := 256

/-- 2^f for f = k / 2^t in [0, 1), in fixed point with sfuBits bits: the product of 2^(2^-i) over the bits of f; r is
2^(2^-i) for the next bit. -/
def exp2Frac (k : Nat) : Nat → Nat → Nat → Nat
  | 0, _, acc => acc
  | t + 1, r, acc =>
    let r' := isqrt (r <<< sfuBits)
    exp2Frac k t r' (if k.testBit t then (acc * r') >>> sfuBits else acc)

/-- round(2^a). -/
def fpExp2 (f : Fmt) (rm : Nat) (a : Nat) : Nat × Nat :=
  match nanOf f [a] with
  | some r => r
  | none =>
    match fpDecode f a with
    | .inf s => if s then (0, 0) else (fpInfBits f, 0)
    | .fin s m e =>
      let one := fpBias f * 2 ^ fracBits f
      if m == 0 then (one, 0)
      else if decide (12 < e + bitLen m) then
        -- |a| is at least 2^12: beyond every exponent
        if s then fpRound f rm false false 1 (-(2 ^ 20 : Nat) : Int) else fpRound f rm false false 1 (2 ^ 20 : Nat)
      else
        let t := (-e).toNat
        let v : Int := (if s then -1 else 1) * (m <<< e.toNat : Nat)
        let n := v / (2 ^ t : Nat)
        let k := (v - n * (2 ^ t : Nat)).toNat
        if k == 0 then fpRound f rm false false 1 n
        else
          let y := exp2Frac k t (2 <<< sfuBits) (2 ^ sfuBits)
          let z := sticky (y >>> 64) true (n - ((sfuBits - 64 : Nat) : Int))
          fpRound f rm false false z.1 z.2
    | .nan _ _ _ => (fpCanon f, 0)

/-- The Taylor sum of e^y for 0 <= y < 1, from the k-th term on, in fixed point with p bits. -/
def expTaylor (p y : Nat) : Nat → Nat → Nat → Nat → Nat
  | 0, _, _, acc => acc
  | n + 1, k, term, acc => expTaylor p y n (k + 1) ((term * y) / (k * 2 ^ p)) (acc + (term * y) / (k * 2 ^ p))

/-- A fixed-point number with p bits, squared n times. -/
def squares (p : Nat) : Nat → Nat → Nat
  | 0, x => x
  | n + 1, x => squares p n ((x * x) >>> p)

/-- exp of the exact number (-1)^s * m * 2^e, rounded once to a format. -/
def expExact (f : Fmt) (rm : Nat) (s : Bool) (m : Nat) (e : Int) : Nat × Nat :=
  if m == 0 then (fpBias f * 2 ^ fracBits f, 0)
  else if decide (12 < e + bitLen m) then
    if s then fpRound f rm false false 1 (-(2 ^ 20 : Nat) : Int) else fpRound f rm false false 1 (2 ^ 20 : Nat)
  else
    let p : Nat := 400
    let y := if 0 ≤ e + (p : Int) - 12 then m <<< (e + (p : Int) - 12).toNat else m >>> (-(e + (p : Int) - 12)).toNat
    let x := squares p 12 (expTaylor p y 100 1 (2 ^ p) (2 ^ p))
    let w := bitLen x + 200
    let z := if s then sticky (2 ^ (p + w) / x - 1) true (-(w : Int)) else sticky x true (-(p : Int))
    fpRound f rm false false z.1 z.2

/-- round(e^a) (R244, R248). -/
def fpExp (f : Fmt) (rm : Nat) (a : Nat) : Nat × Nat :=
  match nanOf f [a] with
  | some r => r
  | none =>
    match fpDecode f a with
    | .inf s => if s then (0, 0) else (fpInfBits f, 0)
    | .fin s m e =>
      expExact f rm s m e
    | .nan _ _ _ => (fpCanon f, 0)

/-- The first n bits of log2 y for y in [1, 2), fixed point with sfuBits + 128 bits. -/
def log2Frac : Nat → Nat → Nat → Nat
  | 0, _, acc => acc
  | n + 1, y, acc =>
    let p := sfuBits + 128
    let z := (y * y) >>> p
    if z < 2 <<< p then log2Frac n z (2 * acc) else log2Frac n (z / 2) (2 * acc + 1)

/-- round(log2 a). -/
def fpLog2 (f : Fmt) (rm : Nat) (a : Nat) : Nat × Nat :=
  match nanOf f [a] with
  | some r => r
  | none =>
    match fpDecode f a with
    | .inf s => if s then (fpCanon f, flNV) else (fpInfBits f, 0)
    | .fin s m e =>
      if m == 0 then (withSign f true (fpInfBits f), flDZ)
      else if s then (fpCanon f, flNV)
      else
        let l := bitLen m
        let n : Int := e + l - 1
        if m == 2 ^ (l - 1) then fpRound f rm false (decide (n < 0)) n.natAbs 0
        else
          let frac := log2Frac 200 (m <<< (sfuBits + 128 + 1 - l)) 0
          let v : Int := n * (2 ^ 200 : Nat) + frac
          let z := if v < 0 then sticky (v.natAbs - 1) true (-200) else sticky v.natAbs true (-200)
          fpRound f rm false (decide (v < 0)) z.1 z.2
    | .nan _ _ _ => (fpCanon f, 0)

/-! ## Conversions (R98, R99) -/

/-- A NaN of format g in format f (R98). -/
def nanConv (g f : Fmt) (b : Nat) : Nat :=
  let s := b.testBit (fmtBits g - 1)
  if g == .e4m3 || f == .e4m3 then withSign f s (fpCanon f)
  else
    let fr := b % 2 ^ fracBits g
    let fr' := if fracBits g ≤ fracBits f then fr <<< (fracBits f - fracBits g) else fr >>> (fracBits g - fracBits f)
    withSign f s (fpInfBits f ||| quieten f fr')

/-- The least and the greatest integer of an integer format or TERN2 (R89, R90). -/
def intRange (f : Fmt) : Int × Int :=
  if f == .tern2 then (-1, 1)
  else if isSigned f then (-(2 ^ (fmtBits f - 1) : Nat), (2 ^ (fmtBits f - 1) : Nat) - 1)
  else (0, (2 ^ fmtBits f : Nat) - 1)

/-- The integer that bits of an integer format denote, with INVTERN for the pattern 0b10 (R89, R90). -/
def intOf (f : Fmt) (b : Nat) : Int × Nat :=
  if f == .tern2 then
    if b % 4 == 1 then (1, 0) else if b % 4 == 3 then (-1, 0) else if b % 4 == 2 then (0, flTern) else (0, 0)
  else if isSigned f && b.testBit (fmtBits f - 1) then ((b % 2 ^ fmtBits f : Nat) - (2 ^ fmtBits f : Nat), 0)
  else ((b % 2 ^ fmtBits f : Nat), 0)

/-- An integer as bits of width n, two's complement. -/
def intBits (n : Nat) (v : Int) : Nat := (v % (2 ^ n : Nat)).toNat

/-- Clip a rounded integer to a format's range: the nearest extreme with NV, or SAT (R99). -/
def clipInt (f : Fmt) (sat : Bool) (v : Int) (nx : Bool) : Nat × Nat :=
  let r := intRange f
  let out := if sat then flSat else flNV
  if v < r.1 then (intBits (fmtBits f) r.1, out)
  else if r.2 < v then (intBits (fmtBits f) r.2, out)
  else (intBits (fmtBits f) v, if nx then flNX else 0)

/-- Convert a value to an integer format or TERN2 (R99). -/
def valToInt (f : Fmt) (rm : Nat) (sat : Bool) (v : FpVal) : Nat × Nat :=
  match v with
  | .nan _ _ _ => (0, flNV)
  | .inf s => let r := intRange f; (intBits (fmtBits f) (if s then r.1 else r.2), if sat then flSat else flNV)
  | .fin s m e =>
    let q := if e < 0 then roundShift rm s m (-e).toNat else (m <<< e.toNat, false)
    clipInt f sat (if s then -(q.1 : Int) else q.1) q.2

/-- Convert a value that is not a NaN to a floating format (R99). -/
def valToFp (f : Fmt) (rm : Nat) (sat : Bool) (v : FpVal) : Nat × Nat :=
  match v with
  | .nan s sig _ => (withSign f s (fpCanon f), if sig then flNV else 0)
  | .inf s =>
    if sat then (withSign f s (fpMaxBits f), flSat)
    else (withSign f s (fpInfBits f), if f == .e4m3 then flNV else 0)
  | .fin s m e => fpRound f rm sat s m e

/-- Convert bits of format g to format f (R98 to R100). DESIGN CHOICE (log 49): a widening conversion between integer formats sign-extends
without a flag, as the bullet of R99 says, also where a negative value goes to an unsigned format, which the table's integer row would
clip. -/
def fpConvert (g f : Fmt) (rm : Nat) (sat : Bool) (b : Nat) : Nat × Nat :=
  if isFloat g then
    let v := fpDecode g b
    if isFloat f then
      if v.isNan then (nanConv g f b, if v.isSig then flNV else 0) else valToFp f rm sat v
    else valToInt f rm sat v
  else
    let i := intOf g b
    if isFloat f then
      let r := valToFp f rm sat (.fin (decide (i.1 < 0)) i.1.natAbs 0)
      (r.1, r.2 ||| i.2)
    else if fmtBits g < fmtBits f then (intBits (fmtBits f) i.1, i.2)
    else let r := clipInt f sat i.1 false; (r.1, r.2 ||| i.2)

/-! ## AMAX (R106) -/

/-- The larger magnitude of two operands; the canonical NaN for a NaN, NV for a signalling one. -/
def fpAmax (f : Fmt) (a b : Nat) : Nat × Nat :=
  if anyNan f a b then (fpCanon f, if anySig f a b then flNV else 0)
  else (Nat.max (fpAbsBits f a) (fpAbsBits f b), 0)

/-- AMAX of a single input. -/
def fpAmax1 (f : Fmt) (a : Nat) : Nat × Nat := fpAmax f a a

/-! ## Integers of a format's width -/

/-- The signed or unsigned value of bits, by the format's signedness. -/
def intVal (f : Fmt) (b : Nat) : Int := (intOf f b).1

/-! ## Scaling (R184, R203) -/

/-- The value that bits of any format denote, with its flags. -/
def srcVal (g : Fmt) (b : Nat) : FpVal × Nat :=
  if isFloat g then (fpDecode g b, 0) else ((.fin (decide ((intOf g b).1 < 0)) (intOf g b).1.natAbs 0), (intOf g b).2)

/-- CONVERT(x × scale): the exact product of x, in format g, and an FP32 scale, rounded once to format f. -/
def fpScale (g f : Fmt) (rm : Nat) (sat : Bool) (x sc : Nat) : Nat × Nat :=
  let v := srcVal g x
  let c := fpDecode .fp32 sc
  let nv := if v.1.isSig || c.isSig then flNV else 0
  if v.1.isNan then (if isFloat f then (nanConv g f x, nv) else (0, flNV))
  else if c.isNan then (if isFloat f then (nanConv .fp32 f sc, nv) else (0, flNV))
  else
    match exactMul v.1 c with
    | none => (if isFloat f then fpCanon f else 0, flNV)
    | some p => let r := if isFloat f then valToFp f rm sat p else valToInt f rm sat p; (r.1, r.2 ||| v.2)

end Sys2Proof.Machine
end

