-- ==== Sys2Proof/Machine/Elem.lean ====
section
/-! DEFINITION. Elements and clusters: numbering (R23), local store (R7, R8), the workspace (R9, R10), buffer records (R81),
CSR fields (R34, R35). -/

namespace Sys2Proof.Machine

/-! ## Numbering

Element e is die * 512 + cl * 8 + el; cluster c is e / 8; C-die d is e / 512. -/

/-- Elements of the package. -/
def elCount : Nat := 2048

/-- The cluster of an element. -/
def clOf (e : Nat) : Nat := e / 8

/-- The C-die of an element. -/
def dieOf (e : Nat) : Nat := e / 512

/-- The 27-bit address of an element of this device (R23). -/
def elAddr (s : State) (e : Nat) : Nat := s.regs.devnum.toNat * 2048 + e

/-- A channel address: [32:27] channel, [26:0] element (R20). -/
def chanAddr (s : State) (e ch : Nat) : Nat := ch * 2 ^ 27 + elAddr s e

/-- The element is usable (CAPS, R316). -/
def elUsable (s : State) (e : Nat) : Bool := decide (e < elCount) && !s.deadEl.contains e

/-- The cluster is usable: one of its elements is (R321). -/
def clUsable (s : State) (c : Nat) : Bool := (span (8 * c) 8).any (elUsable s)

/-- The die is usable (R321). -/
def dieUsable (s : State) (d : Nat) : Bool := (span (64 * d) 64).any (clUsable s)

/-- The I-die whose reconcile engine and router serve a C-die (R157). -/
def idieOf (d : Nat) : Nat := d / 2

/-- The neighbour an element's port faces: 0 xn, 1 xe, 2 xs, 3 xw (R23). -/
def neighbour (s : State) (e dir : Nat) : Option Nat :=
  let d := dieOf e
  let c := e / 8 % 64
  let col := 4 * (c % 8) + e % 4
  let row := 2 * (c / 8) + e % 8 / 4
  let at' (r k : Nat) : Nat := d * 512 + ((r / 2) * 8 + k / 4) * 8 + (r % 2) * 4 + k % 4
  let n : Option Nat :=
    if dir == 0 then (if row == 0 then none else some (at' (row - 1) col))
    else if dir == 1 then (if col == 31 then none else some (at' row (col + 1)))
    else if dir == 2 then (if row == 15 then none else some (at' (row + 1) col))
    else (if col == 0 then none else some (at' row (col - 1)))
  match n with
  | none => none
  | some x => if elUsable s x then some x else none

/-- The port of the neighbour that faces back. -/
def facing (dir : Nat) : Nat := (dir + 2) % 4

/-! ## Reading and writing parts of State -/

/-- An element. -/
def elem (s : State) (e : Nat) : Elem := tget s.elems e Elem.reset

/-- Write an element. -/
def setElem (s : State) (e : Nat) (x : Elem) : State := { s with elems := tput s.elems e x }

/-- Change an element. -/
def modElem (s : State) (e : Nat) (f : Elem → Elem) : State := setElem s e (f (elem s e))

/-- The element whose turn it is. -/
def curElem (s : State) : Elem := elem s s.cur

/-- Change the element whose turn it is. -/
def modCur (s : State) (f : Elem → Elem) : State := modElem s s.cur f

/-- A cluster. -/
def clus (s : State) (c : Nat) : Cluster := tget s.clusters c Cluster.reset

/-- Change a cluster. -/
def modClus (s : State) (c : Nat) (f : Cluster → Cluster) : State := { s with clusters := tput s.clusters c (f (clus s c)) }

/-- A die: 0 to 3 the C-dies, 4 and 5 the I-dies. -/
def die (s : State) (d : Nat) : Die := tget s.dies d Die.reset

/-- Change a die. -/
def modDie (s : State) (d : Nat) (f : Die → Die) : State := { s with dies := tput s.dies d (f (die s d)) }

/-- The key of an engine queue. -/
def qKey (q : QueueId) : Nat := q.eng * 1024 + q.idx

/-- The queue of a key. -/
def qOfKey (k : Nat) : QueueId := { eng := k / 1024, idx := k % 1024 }

/-- An engine queue. -/
def queue (s : State) (q : QueueId) : EQueue := tget s.queues (qKey q) EQueue.reset

/-- Change an engine queue. -/
def modQueue (s : State) (q : QueueId) (f : EQueue → EQueue) : State :=
  { s with queues := tput s.queues (qKey q) (f (queue s q)) }

/-- A handler-table entry of an element (R13). -/
def chEntry (x : Elem) (ch : Nat) : ChEntry := tget x.chans ch ChEntry.reset

/-! ## Handler-table fields (R13) -/

/-- The handler PC. -/
def ChEntry.pc (c : ChEntry) : Addr := BitVec.ofNat 55 (fld c.d0 54 2 * 4)
/-- The mailbox offset. -/
def ChEntry.mbx (c : ChEntry) : Nat := fld c.d1 41 32 * 256
/-- The workspace pointer. -/
def ChEntry.wpo (c : ChEntry) : Nat := fld c.d1 17 3 * 8
/-- The port trigger's word count. -/
def ChEntry.tcnt (c : ChEntry) : Nat := fld c.d2 63 56
/-- The port trigger's port. -/
def ChEntry.tport (c : ChEntry) : Nat := fld c.d2 55 54
/-- The launch identifier of port- and counter-started tasks. -/
def ChEntry.lid (c : ChEntry) : BitVec 32 := BitVec.ofNat 32 (fld c.d2 47 16)
/-- The rounding mode at task start. -/
def ChEntry.rm (c : ChEntry) : Nat := fld c.d2 11 10
/-- The trigger: 0 message, 1 port word count, 2 counter-armed. -/
def ChEntry.trig (c : ChEntry) : Nat := fld c.d2 9 8
/-- The mode: 0 user, 1 supervisor. -/
def ChEntry.mode (c : ChEntry) : Nat := fld c.d2 7 7
/-- The handler is not selected. -/
def ChEntry.mask (c : ChEntry) : Bool := dbit c.d2 6
/-- The priority; 7 is urgent. -/
def ChEntry.prio (c : ChEntry) : Nat := fld c.d2 2 0
/-- Set or clear MASK. -/
def ChEntry.setMask (c : ChEntry) (b : Bool) : ChEntry :=
  { c with d2 := if b then c.d2 ||| 0x40 else c.d2 &&& ~~~(0x40 : Dword) }

/-! ## STATUS (R34) and LAUNCHID (R35) -/

/-- MODE. -/
def stMode (st : Dword) : Nat := fld st 1 0
/-- SER. -/
def stSer (st : Dword) : Bool := dbit st 2
/-- TRAP. -/
def stTrap (st : Dword) : Bool := dbit st 3
/-- IE. -/
def stIe (st : Dword) : Bool := dbit st 4
/-- CHAN. -/
def stChan (st : Dword) : Nat := fld st 13 8
/-- PRIO. -/
def stPrio (st : Dword) : Nat := fld st 16 14
/-- CHOFF. -/
def stChoff (st : Dword) : Nat := fld st 63 32

/-- A STATUS value from its fields; every rsv bit 0. -/
def mkStatus (choff prio chan : Nat) (ie trap ser : Bool) (mode : Nat) : Dword :=
  dw (choff % 2 ^ 32 * 2 ^ 32 + prio % 8 * 2 ^ 14 + chan % 64 * 2 ^ 8 + bnat ie * 16 + bnat trap * 8 + bnat ser * 4 + mode % 4)

/-- Replace MODE. -/
def setMode (st : Dword) (m : Nat) : Dword := (st &&& ~~~(3 : Dword)) ||| dw (m % 4)
/-- Replace TRAP. -/
def setTrap (st : Dword) (b : Bool) : Dword := if b then st ||| 8 else st &&& ~~~(8 : Dword)
/-- Replace IE. -/
def setIe (st : Dword) (b : Bool) : Dword := if b then st ||| 16 else st &&& ~~~(16 : Dword)
/-- Replace CHOFF. -/
def setChoff (st : Dword) (v : Nat) : Dword := (st &&& 0xFFFFFFFF) ||| dw (v % 2 ^ 32 * 2 ^ 32)

/-- The launch identifier of the running task. -/
def Csrs.lid (c : Csrs) : BitVec 32 := c.launchid.setWidth 32

/-- TSNOW plus the child offset, as a number that may exceed 64 bits (R24). -/
def childTs (c : Csrs) : Nat := c.tsnow.toNat + stChoff c.status

/-- Groups granted (R35). -/
def Csrs.g (c : Csrs) : Nat := c.vgrant.toNat % 16
/-- Groups held, one bit per group (R35). -/
def Csrs.gmask (c : Csrs) : Nat := c.vgrant.toNat / 16

/-! ## Local store (R7) -/

/-- The first address of the local-store window. -/
def lsBase : Nat := 0x7FFFFFFFFC0000

/-- The number of one bits among the low n bits. -/
def popCount (v : Nat) : Nat → Nat
  | 0 => 0
  | n + 1 => popCount v n + bnat (v.testBit n)

/-- Usable banks, ELCAP.NBANK. -/
def nbank (x : Elem) : Nat := popCount x.bmask.toNat 8

/-- Usable bytes of local store (R7). -/
def lsSize (x : Elem) : Nat := nbank x * 32768

/-- The address lies in the local-store window. -/
def inLs (a : Nat) : Bool := decide (lsBase ≤ a ∧ a < 2 ^ 55)

/-- The virtual address of a local-store offset. -/
def lsVa (off : Nat) : Dword := dw (lsBase + off)

/-- Some dword of the n bytes at an offset is poisoned (R315). -/
def lsPoisoned (x : Elem) (off n : Nat) : Bool := x.lsBad.any (fun d => decide (off / 8 ≤ d ∧ d ≤ (off + n - 1) / 8))

/-- Where the first poisoned dword of the n bytes at an offset is met: the offset itself, where its own dword is poisoned (R315). -/
def lsBadAt (x : Elem) (off n : Nat) : Nat :=
  match (span (off / 8) ((off + n - 1) / 8 + 1 - off / 8)).find? (x.lsBad.contains ·) with
  | some d => Nat.max off (8 * d)
  | none => off

/-- Write n bytes, at most a dword's and within one dword; a whole dword clears its poison, part of a poisoned dword is
discarded (R315). -/
def lsWrite (x : Elem) (off n v : Nat) : Elem :=
  if n == 8 then
    { x with ls := memPutNat x.ls off 8 v, lsBad := x.lsBad.filter (· != off / 8), lsTodo := x.lsTodo.filter (· != off / 8) }
  else if x.lsBad.contains (off / 8) then x
  else { x with ls := memPutNat x.ls off n v }

/-! ## The workspace (R9, R10) -/

/-- The local-store offset of workspace register n under WP. -/
def wOff (x : Elem) (n : Nat) : Nat := x.csr.wp.toNat + 8 * n

/-- The value of a workspace register as the local store holds it; w0 reads 0 (R9). -/
def getW (x : Elem) (r : Reg) : Dword := if r == 0 then 0 else memDword x.ls (wOff x r.toNat)

/-- A workspace pointer within the limits of R10. -/
def wpOk (x : Elem) (wp : Nat) : Bool := decide (wp % 8 = 0 ∧ wp + 224 ≤ lsSize x)

/-! ## Buffer records (R81) -/

/-- A buffer-record register; bf0 is the flat record: base 0, maximum extent, no check (R27). -/
def bfReg (x : Elem) (n : Nat) : BitVec 256 := if n == 0 then BitVec.ofNat 256 ((2 ^ 48 - 1) * 2 ^ 64) else tget x.bf n 0

/-- BASE. -/
def recBase (r : BitVec 256) : Nat := nbits r.toNat 63 0
/-- EXTENT. -/
def recExtent (r : BitVec 256) : Nat := nbits r.toNat 111 64
/-- STRIDE1, signed. -/
def recStride1 (r : BitVec 256) : Int := (BitVec.ofNat 32 (nbits r.toNat 143 112)).toInt
/-- STRIDE2, signed. -/
def recStride2 (r : BitVec 256) : Int := (BitVec.ofNat 32 (nbits r.toNat 175 144)).toInt
/-- BMODE: 0 TRAP, 1 CLAMP, 2 ZERO. -/
def recBmode (r : BitVec 256) : Nat := nbits r.toNat 181 180
/-- UNTR. -/
def recUntr (r : BitVec 256) : Bool := r.toNat.testBit 187
/-- ASID. -/
def recAsid (r : BitVec 256) : Nat := nbits r.toNat 207 192

/-- The checks of R82 on a record that BFLD loads. -/
def recOk (r : BitVec 256) : Bool :=
  nbits r.toNat 255 208 == 0 && nbits r.toNat 191 188 == 0 && decide (nbits r.toNat 186 184 < 4) && recBmode r != 3
    && nbits r.toNat 179 176 != 15 && decide (recBase r + recExtent r ≤ 2 ^ 55)

end Sys2Proof.Machine
end

