-- ==== Sys2Proof/Machine/Phys.lean ====
section
/-! DEFINITION. Physical memory: regions (R294 to R298), compression (R306 to R312), poison and reach (R315). -/

namespace Sys2Proof.Machine

/-! ## Regions (R294) -/

/-- PA[51:48]. -/
def paRegion (pa : Nat) : Nat := pa / 2 ^ 48 % 16
/-- PA[47:0]. -/
def paOff (pa : Nat) : Nat := pa % 2 ^ 48
/-- The CXL port of a far address. -/
def farPort (pa : Nat) : Nat := pa / 2 ^ 45 % 8
/-- The offset of a far address. -/
def farOff (pa : Nat) : Nat := pa % 2 ^ 45
/-- The cluster of a scratchpad address. -/
def spCluster (pa : Nat) : Nat := pa / 2 ^ 22 % 256
/-- The offset of a scratchpad address in its cluster. -/
def spOff (pa : Nat) : Nat := pa % 2 ^ 22
/-- The scratchpad address of an offset in a cluster. -/
def spAddr (c off : Nat) : Nat := 3 * 2 ^ 48 + c * 2 ^ 22 + off
/-- The remote window of an address of region 0x8. -/
def winOf (pa : Nat) : Nat := pa / 2 ^ 40 % 256

/-- The physical address is populated (R294). -/
def populated (s : State) (pa : Nat) : Bool :=
  decide (pa < 2 ^ 52) &&
  match paRegion pa with
  | 0 => decide (paOff pa < s.nearCap)
  | 1 => decide (farOff pa < tget s.farCap (farPort pa) 0)
  | 2 => true
  | 3 => decide (paOff pa < 2 ^ 30) && clUsable s (spCluster pa)
  | 8 => dbit (tget s.regs.windows (winOf pa) 0) 63
  | _ => false

/-- The link a near address lies on (R295). -/
def nearLink (pa : Nat) : Nat := paOff pa / 4096 % 48

/-! ## Routing (R347, R348) -/

/-- A fabric port is enabled and up (R346). -/
def portUp (s : State) (p : Nat) : Bool :=
  decide (p < 16) && dbit (tget s.regs.fpctl p 0) 0 && dbit (tget s.regs.fpctl p 0) 8

/-- The port a packet for another device leaves on, when it can leave (R348). -/
def routePort (s : State) (dev : Nat) : Option Nat :=
  let r := (tget s.regs.route dev 0).toNat
  if r / 128 == 1 && portUp s (r % 32) then some (r % 32) else none

/-- The device of a remote window. -/
def winDev (s : State) (pa : Nat) : Nat := fld (tget s.regs.windows (winOf pa) 0) 43 28

/-- The remote physical address that a window address names (R297): (RBASE << 40) | PA[39:0]. -/
def remotePa (s : State) (pa : Nat) : Nat := fld (tget s.regs.windows (winOf pa) 0) 11 0 * 2 ^ 40 + pa % 2 ^ 40

/-- A route leads to the device of a window (R348). -/
def winRouted (s : State) (pa : Nat) : Bool := (routePort s (winDev s pa)).isSome

/-- The remote device takes an access through a window (R297, R348, R350): the remote address lies in region 0x0, 0x1 or 0x3, and a
route leads there. -/
def winOpen (s : State) (pa : Nat) : Bool :=
  let r := paRegion (remotePa s pa)
  (r == 0 || r == 1 || r == 3) && winRouted s pa

/-- The line of an address can be reached (R315, R317): its link or port is up, or the host or remote device answers. -/
def reachable (s : State) (pa : Nat) : Bool :=
  match paRegion pa with
  | 0 => !s.nearDown.contains (nearLink pa)
  | 1 => !s.farDown.contains (farPort pa)
  | 2 => s.hostLost != some s.cur && Config.extReachable s.tick (pa / 64)
  | 8 => winOpen s pa && Config.remoteReachable s.tick (BitVec.ofNat 16 (winDev s pa)) (remotePa s pa / 64)
  | _ => true

/-- The address lies outside the package: host memory or a remote device. -/
def external (pa : Nat) : Bool := paRegion pa == 2 || paRegion pa == 8

/-- A byte that the host or a remote device returns. -/
def externalByte (s : State) (pa : Nat) : Byte :=
  if paRegion pa == 8 then Config.remoteByte s.tick (BitVec.ofNat 16 (winDev s pa)) (remotePa s pa) else Config.extByte s.tick pa

/-! ## Compression metadata (R306, R307) -/

/-- The compression space of an address: 0 near memory, 1 to 8 the far ports. -/
def spaceOf (pa : Nat) : Option Nat :=
  match paRegion pa with
  | 0 => some 0
  | 1 => some (1 + farPort pa)
  | _ => none

/-- The cblock number of an address in its space. -/
def cbIndex (pa : Nat) : Nat := (if paRegion pa == 1 then farOff pa else paOff pa) / 512

/-- The first address of a cblock. -/
def cbBase (pa : Nat) : Nat := pa / 512 * 512

/-- MDLIM of a space. -/
def mdLim (s : State) (sp : Nat) : Nat := fld (tget s.regs.mdlim sp 0) 35 0

/-- MDBASE of a space. -/
def mdBase (s : State) (sp : Nat) : Nat := fld (tget s.regs.mdbase sp 0) 51 6 * 64

/-- The cblock of an address has a compression state: its number is below its space's limit. -/
def cbCovered (s : State) (pa : Nat) : Bool :=
  match spaceOf pa with
  | none => false
  | some sp => decide (cbIndex pa < mdLim s sp)

/-- The bits of state n of a metadata region that begins at an address (R306). -/
def stateBits (m : Mem) (base n : Nat) : Nat := memNat m (base + 3 * n / 8) 2 / 2 ^ (3 * n % 8) % 8

/-- Set them, and no other bit. -/
def putStateBits (m : Mem) (base n st : Nat) : Mem :=
  let a := base + 3 * n / 8
  memPutNat m a 2 (memNat m a 2 - stateBits m base n * 2 ^ (3 * n % 8) + st % 8 * 2 ^ (3 * n % 8))

/-- The bit address of state n of a metadata region. -/
def stateAt (base n : Nat) : Nat := 8 * base + 3 * n

/-- State n of a metadata region lies in a poisoned word, and has not been written since (R315). -/
def stateBad (s : State) (base n : Nat) : Bool :=
  s.memBad.any (fun w => w == stateAt base n / 64 || w == (stateAt base n + 2) / 64) && !s.stateSet.contains (stateAt base n)

/-- State n of a metadata region lies behind a link that is down (R315, R317). -/
def stateDown (s : State) (base n : Nat) : Bool :=
  s.nearDown.contains (nearLink (stateAt base n / 8)) || s.nearDown.contains (nearLink ((stateAt base n + 2) / 8))

/-- The state of a cblock: 0 ZERO, 1 to 3 sectors, 4 RAW, 5 to 7 reserved; RAW where none is kept. A state that cannot be read is taken as
a reserved one (R306, R315). -/
def cbState (s : State) (pa : Nat) : Nat :=
  match spaceOf pa with
  | none => 4
  | some sp =>
    if mdLim s sp ≤ cbIndex pa then 4
    else if stateBad s (mdBase s sp) (cbIndex pa) || stateDown s (mdBase s sp) (cbIndex pa) then 5
    else stateBits s.mem (mdBase s sp) (cbIndex pa)

/-- The state of a cblock that keeps one cannot be reached (R306, R315). -/
def stateLost (s : State) (pa : Nat) : Bool :=
  match spaceOf pa with
  | none => false
  | some sp => cbCovered s pa && stateDown s (mdBase s sp) (cbIndex pa)

/-- The KIND of a write to an address that could not be made: UNREACH where its bytes or its state cannot be reached, else POISONWRITE
(R315, R368). -/
def lostKind (s : State) (pa : Nat) : Nat := if reachable s pa && !stateLost s pa then 8 else 9

/-- The space whose metadata region holds a byte address of near memory (R307). -/
def metaSpace (s : State) (pa : Nat) : Option Nat :=
  (span 0 9).find? (fun sp => decide (0 < mdLim s sp ∧ mdBase s sp ≤ pa ∧ pa < mdBase s sp + (3 * mdLim s sp + 7) / 8))

/-- A byte that holds states 8k/3 and on, of which lim are RAW, the bits after them as they were. -/
def rawByte (lim k : Nat) (old : Byte) : Byte :=
  BitVec.ofNat 8 ((span 0 8).foldl (fun v b =>
    v + bnat (if 8 * k + b < 3 * lim then (8 * k + b) % 3 == 2 else old.getLsbD b) * 2 ^ b) 0)

/-- Set the first lim states of a region RAW (R307). -/
def rawStates (m : Mem) (base lim : Nat) : Mem :=
  (span 0 ((3 * lim + 7) / 8)).foldr (fun k t => memPut t (base + k) (rawByte lim k (memGet m (base + k)))) m

/-! ## The code (R308 to R310) -/

/-- The width a selector code names. -/
def selWidth (c : Nat) : Nat := if c == 0 then 0 else if c == 1 then 2 else if c == 2 then 4 else 8

/-- Bytes of the deltas of a group of m with width w. -/
def deltaBytes (m w : Nat) : Nat := ((m - 1) * w + 7) / 8

/-- Sign extension of the low w bits, as a number modulo 256. -/
def sext8 (v w : Nat) : Nat := if w == 0 then 0 else if (v % 2 ^ w).testBit (w - 1) then 256 + v % 2 ^ w - 2 ^ w else v % 2 ^ w

/-- Decode the groups of a plane from byte p on: the plane, and the place after them (R309). -/
def decodeGroups (code : List Byte) (sel m : Nat) : Nat → Nat → List Byte → List Byte × Nat
  | 0, p, acc => (acc, p)
  | k + 1, p, acc =>
    let w := selWidth (sel / 4 ^ (15 - k) % 4)
    let b0 := (code.getD p 0).toNat
    let n := leNat ((code.drop (p + 1)).take (deltaBytes m w))
    let grp := b0 :: (span 0 (m - 1)).map (fun i => (b0 + sext8 (n / 2 ^ (w * i)) w) % 256)
    decodeGroups code sel m k (p + 1 + deltaBytes m w) (acc ++ grp.map (BitVec.ofNat 8))

/-- Interleave the low and high bytes of P16. -/
def interleave : List Byte → List Byte → List Byte
  | l :: ls, h :: hs => l :: h :: interleave ls hs
  | _, _ => []

/-- Decode a cblock in state 1 to 3 from its stored bytes; none when poisoned (R309). -/
def decodeCb (state : Nat) (code : List Byte) : Option (List Byte) :=
  let fl := (code.getD 4 0).toNat
  let kind := fl / 2 % 2
  let lowz := fl % 2
  if code.getD 5 0 != 0 || decide (fl / 4 ≠ 0) || (kind == 1 && lowz == 1) then none
  else
    let m := if kind == 0 then 16 else 32
    let g := decodeGroups code (leNat (code.take 4)) m 16 6 []
    let p := if kind == 0 && lowz == 0 then g.2 + 256 else g.2
    if 128 * state < p then none
    else if kind == 1 then some g.1
    else
      let low := if lowz == 0 then (code.drop g.2).take 256 else List.replicate 256 (0 : Byte)
      some (interleave low g.1)

/-- The least width code for a group (R310). -/
def groupCode (grp : List Byte) : Nat :=
  let b0 := (grp.headD 0).toNat
  let fits (w : Nat) : Bool := grp.all (fun b =>
    let d := (b.toNat + 256 - b0) % 256
    let sd : Int := if 128 ≤ d then (d : Int) - 256 else d
    if w == 0 then d == 0 else decide (-(2 ^ (w - 1) : Nat) ≤ sd ∧ sd ≤ (2 ^ (w - 1) : Nat) - 1))
  if fits 0 then 0 else if fits 2 then 1 else if fits 4 then 2 else 3

/-- The bytes of a group with its width code. -/
def groupBytes (c : Nat) (grp : List Byte) : List Byte :=
  let w := selWidth c
  let b0 := (grp.headD 0).toNat
  let n := ((grp.drop 1).foldr (fun b acc => (b.toNat + 256 - b0) % 256 % 2 ^ w + 2 ^ w * acc) 0)
  grp.headD 0 :: leBytes (deltaBytes grp.length w) n

/-- Every second byte, starting at the first (true) or the second. -/
def halfBytes (first : Bool) : List Byte → List Byte
  | a :: b :: l => (if first then a else b) :: halfBytes first l
  | _ => []

/-- Encode 512 bytes under CODEC 0, 1 or 2: the state, and what is stored (R310). -/
def encodeCb (codec : Nat) (bytes : List Byte) : Nat × List Byte :=
  if codec == 0 then (4, bytes)
  else if bytes.all (· == 0) then (0, [])
  else
    let plane := if codec == 1 then halfBytes false bytes else bytes
    let low := if codec == 1 then halfBytes true bytes else []
    let lowz := codec == 1 && low.all (· == 0)
    let groups := pieces (if codec == 1 then 16 else 32) plane
    let codes := groups.map groupCode
    let sel := codes.foldr (fun c acc => c + 4 * acc) 0
    let fl := bnat lowz + (if codec == 1 then 0 else 2)
    let code := leBytes 4 sel ++ [BitVec.ofNat 8 fl, 0] ++ (List.zipWith groupBytes codes groups).flatten
      ++ (if lowz then [] else low)
    if code.length ≤ 384 then
      let n := (code.length + 127) / 128
      (n, code ++ List.replicate (128 * n - code.length) (0 : Byte))
    else (4, bytes)

/-! ## Reading (R311, R315) -/

/-- A 64-bit word of the n bytes at an address is poisoned. -/
def anyBad (s : State) (pa n : Nat) : Bool := s.memBad.any (fun w => decide (pa / 8 ≤ w ∧ w ≤ (pa + n - 1) / 8))

/-- The 512 decoded bytes of a cblock that is not RAW; none when it is poisoned (R309, R313, R315). -/
def cbDecoded (s : State) (base : Nat) : Option (List Byte) :=
  let st := cbState s base
  if st == 0 then some (List.replicate 512 (0 : Byte))
  else if decide (4 < st) || anyBad s base (128 * st) then none
  else decodeCb st (memRead s.mem base (128 * st))

/-- n bytes of near memory, far memory or scratchpad within one cblock, of which none lies in a metadata region; none when poisoned. -/
def readPlain (s : State) (pa n : Nat) : Option (List Byte) :=
  if cbState s pa == 4 then
    if anyBad s pa n then none else some (memRead s.mem pa n)
  else
    match cbDecoded s (cbBase pa) with
    | none => none
    | some l => some ((l.drop (pa % 512)).take n)

/-- Some byte of a range lies in a metadata region (R307). -/
def anyMeta (s : State) (pa n : Nat) : Bool :=
  (span 0 9).any (fun sp => decide (0 < mdLim s sp ∧ mdBase s sp < pa + n ∧ pa < mdBase s sp + (3 * mdLim s sp + 7) / 8))

/-- The bytes of a range one by one: those of a metadata region are the packed states, as they lie (R307). -/
def readMixed (s : State) (pa : Nat) : Nat → Option (List Byte)
  | 0 => some []
  | n + 1 =>
    let b := if (metaSpace s pa).isNone then readPlain s pa 1 else if anyBad s pa 1 then none else some [memGet s.mem pa]
    match b, readMixed s (pa + 1) n with
    | some l, some r => some (l ++ r)
    | _, _ => none

/-- n bytes of near memory, far memory or scratchpad within one cblock; none when poisoned. -/
def readCb (s : State) (pa n : Nat) : Option (List Byte) := if anyMeta s pa n then readMixed s pa n else readPlain s pa n

/-- n bytes within one cblock at a physical address; none when they are poisoned or cannot be reached. -/
def physChunk (s : State) (pa n : Nat) : Option (List Byte) :=
  if !reachable s pa then none
  else if external pa then some ((span pa n).map (externalByte s))
  else readCb s pa n

/-- n bytes at a physical address, cblock by cblock (with fuel for the cblocks). -/
def physReadAux (s : State) : Nat → Nat → Nat → Option (List Byte)
  | 0, _, _ => some []
  | k + 1, pa, n =>
    if n == 0 then some []
    else
      let m := Nat.min n (512 - pa % 512)
      match physChunk s pa m with
      | none => none
      | some l =>
        match physReadAux s k (pa + m) (n - m) with
        | none => none
        | some r => some (l ++ r)

/-- n bytes at a physical address; none when poisoned or unreachable. -/
def physRead (s : State) (pa n : Nat) : Option (List Byte) := physReadAux s (n / 512 + 2) pa n

/-- A dword at a physical address. -/
def physDword (s : State) (pa : Nat) : Option Dword := (physRead s pa 8).map (fun l => dw (leNat l))

/-! ## Writing (R307, R310, R312, R315) -/

/-- What goes wrong with a write: the KIND of R368 (7 METAWRITE, 8 POISONWRITE, 9 UNREACH) and the physical address. -/
structure WErr where
  kind : Nat
  pa   : Nat
  deriving DecidableEq, Repr

/-- Writes by address cover a 64-bit word whole. -/
def coversWord (ups : Tbl Byte) (w : Nat) : Bool := (span (8 * w) 8).all (fun a => (tfind ups a).isSome)

/-- Write bytes by address into a memory with poisoned words: one that is not wholly covered keeps its poison, and the bytes for it are
discarded (R315). Gives the memory, the words that stay poisoned, and those of them that the write touched. -/
def putBytes (m : Mem) (bads : List Nat) (ups : Tbl Byte) : Mem × List Nat × List Nat :=
  let touched (w : Nat) : Bool := ups.any (fun u => u.1 / 8 == w)
  let bad := bads.filter (fun w => touched w && !coversWord ups w)
  let ok := ups.filter (fun u => !bad.contains (u.1 / 8))
  (ok.foldl (fun m u => memPut m u.1 u.2) m, bads.filter (fun w => !coversWord ups w), bad)

/-- Write bytes by address where no compression applies (R315). -/
def writeRaw (s : State) (ups : Tbl Byte) : State × List WErr :=
  let r := putBytes s.mem s.memBad ups
  ({ s with mem := r.1, memBad := r.2.1, memTodo := s.memTodo.filter (fun w => !coversWord ups w) }, r.2.2.map (fun w => { kind := 8, pa := 8 * w }))

/-- The metadata's memory once a cblock has a state. -/
def putState (s : State) (m : Mem) (pa st : Nat) : Mem :=
  match spaceOf pa with
  | none => m
  | some sp => putStateBits m (mdBase s sp) (cbIndex pa) st

/-- The states known of poisoned words, once a cblock's has been written. -/
def noteState (s : State) (pa : Nat) : List Nat :=
  match spaceOf pa with
  | none => s.stateSet
  | some sp => if stateBad s (mdBase s sp) (cbIndex pa) then stateAt (mdBase s sp) (cbIndex pa) :: s.stateSet else s.stateSet

/-- Store a whole cblock below MDLIM under a codec: bytes, state, poison cleared, that of its state too, where it lies in a poisoned word
(R310, R315). -/
def storeCb (s : State) (base codec : Nat) (bytes : List Byte) : State :=
  let r := encodeCb codec bytes
  let mem := memWrite (if r.2.length < 512 then memClear s.mem base 512 else s.mem) base r.2
  { s with mem := putState s mem base r.1, memBad := s.memBad.filter (fun w => w / 64 != base / 512), stateSet := noteState s base }

/-- Drop count of an I-die, one higher and saturating (R348, R390). -/
def countDrop (s : State) (idie : Nat) : State :=
  let x := tget s.dies (4 + idie) Die.reset
  { s with dies := tput s.dies (4 + idie) { x with tele := tmod x.tele 0x18 0 (fun v => if v == BitVec.allOnes 64 then v else v + 1) } }

/-- Bytes of consecutive addresses, of a table of writes. -/
def consecutive : Tbl Byte → List (Nat × List Byte)
  | [] => []
  | (a, b) :: l =>
    match consecutive l with
    | (a', bs) :: r => if a' == a + 1 then (a, b :: bs) :: r else (a, [b]) :: (a', bs) :: r
    | [] => [(a, [b])]

/-- Writes leave the package: as posted writes to the host (R359), or as requests to the remote physical address of a window's device, on
the port that its route names (R297, R347, R350). -/
def writeOut (s : State) (lid : BitVec 32) (pa : Nat) (ups : Tbl Byte) : State :=
  if paRegion pa == 8 then
    let dev := winDev s pa
    { s with out := s.out ++ (consecutive ups).map (fun u =>
        .packet ((routePort s dev).getD 0) { dev := BitVec.ofNat 16 dev, body := .write (remotePa s u.1) u.2 lid }) }
  else { s with out := s.out ++ (consecutive ups).map (fun u => .write u.1 u.2) }

/-- Write bytes of one cblock that lie in no metadata region (R312, R315). A partial write that must read the cblock is discarded whole where
any word of it that the write does not cover is poisoned (DESIGN CHOICE, log 54); and any write where the cblock's state cannot be reached. -/
def writePlain (s : State) (codec : Nat) (ups : Tbl Byte) : State × List WErr :=
  match ups with
  | [] => (s, [])
  | (pa, _) :: _ =>
    let base := cbBase pa
    if !cbCovered s pa then writeRaw s ups
    else if stateLost s pa then (s, [{ kind := 9, pa := pa }])
    else if (span base 512).all (fun a => (tfind ups a).isSome) then (storeCb s base codec (ups.map (·.2)), [])
    else if cbState s pa == 4 && codec == 0 then writeRaw s ups
    else
      let bad := s.memBad.any (fun w => decide (base / 8 ≤ w ∧ w < base / 8 + 64) && !coversWord ups w)
      match (if cbState s pa == 4 then (if bad then none else some (memRead s.mem base 512)) else cbDecoded s base) with
      | none => (s, [{ kind := 8, pa := pa }])
      | some old =>
        let merged := (span 0 512).zipWith (fun i b => tget ups (base + i) b) old
        (storeCb s base codec merged, [])

/-- Write bytes of one cblock, given by address, as one act, for the COMMIT of a launch or for none (R307, R312, R315): those within a
metadata region are dropped. -/
def writeCb (s : State) (lid : BitVec 32) (codec : Nat) (ups : Tbl Byte) : State × List WErr :=
  match ups with
  | [] => (s, [])
  | (pa, _) :: _ =>
    if !reachable s pa then (s, [{ kind := 9, pa := pa }])
    else if external pa then (writeOut s lid pa ups, [])
    else
      let lost := ups.filter (fun u => (metaSpace s u.1).isSome)
      let r := writePlain s codec (ups.filter (fun u => !(metaSpace s u.1).isSome))
      (r.1, (match lost with | [] => [] | u :: _ => [{ kind := 7, pa := u.1 }]) ++ r.2)

/-- Split writes, addresses rising, into the runs that share a cblock and a codec (with fuel the list's length). -/
def cbRuns : Nat → Tbl (Byte × Nat) → List (Nat × Tbl Byte)
  | 0, _ => []
  | _ + 1, [] => []
  | k + 1, (a, b, c) :: l =>
    let same (u : Nat × Byte × Nat) : Bool := u.1 / 512 == a / 512
    let mine := ((a, b, c) :: l).takeWhile same
    (c, mine.map (fun u => (u.1, u.2.1))) :: cbRuns k (((a, b, c) :: l).dropWhile same)

/-- Apply writes, grouped by cblock: the writes of one COMMIT or burst to one cblock form a single write (R312). The launch is that of
the COMMIT, 0 for any other write. -/
def applyWritesIn (lid : BitVec 32) (s : State) (ws : Tbl (Byte × Nat)) : State × List WErr :=
  (cbRuns ws.length ws).foldl (fun r g => let t := writeCb r.1 lid g.1 g.2; (t.1, r.2 ++ t.2)) (s, [])

/-- Apply writes that are no COMMIT's. -/
def applyWrites (s : State) (ws : Tbl (Byte × Nat)) : State × List WErr := applyWritesIn 0 s ws

/-- Write consecutive bytes under a codec. -/
def physWrite (s : State) (pa : Nat) (bytes : List Byte) (codec : Nat) : State × List WErr :=
  applyWrites s ((span pa bytes.length).zipWith (fun a b => (a, b, codec)) bytes)

/-- The codec under which hardware rewrites part of a cblock whose page it does not know: none. -/
def hwCodec : Nat := 0

/-- The writes that no route took are counted where their entry was read (R348). -/
def countDrops (s : State) (idie : Nat) (errs : List WErr) : State :=
  errs.foldl (fun t e => if e.kind == 9 && paRegion e.pa == 8 && !winRouted t e.pa then countDrop t idie else t) s

/-- Write bytes by a unit of I-die 0 that reports to no element. -/
def physStore (s : State) (pa : Nat) (bytes : List Byte) : State :=
  let r := physWrite s pa bytes hwCodec
  countDrops r.1 0 r.2

/-- Write a dword by such a unit. -/
def physPutDword (s : State) (pa : Nat) (v : Dword) : State := physStore s pa (leBytes 8 v.toNat)

/-! ## Homes (R123, R279) -/

/-- The scope within which a line's home lies, seen from a cluster: 1 the cluster, 2 the package, 3 beyond. -/
def homeScope (c pa : Nat) : Nat :=
  if external pa then 3 else if paRegion pa == 3 && spCluster pa == c then 1 else 2

end Sys2Proof.Machine
end

