-- ==== Sys2Proof/Machine/Net.lean ====
section
/-! DEFINITION. What travels: messages, error events (R368), machine-check records (R370, R391), telemetry (R390), routing to
other devices (R347, R348); the sync counters (R29, R151 to R153). -/

namespace Sys2Proof.Machine

/-! ## Units

The units that send and receive, as numbers: an element is itself. -/

/-- A cluster's shared units: counters, commit unit, lane pool. -/
def uClus (c : Nat) : Nat := 4096 + c
/-- An engine queue. -/
def uQueue (q : QueueId) : Nat := 8192 + qKey q
/-- A confluence bank. -/
def uBank (d b : Nat) : Nat := 20000 + d * 16 + b
/-- The barrier tree's root. -/
def uTree : Nat := 30000
/-- The combining logic of I-die 0. -/
def uGroup : Nat := 30001
/-- A die's launch unit. -/
def uLaunch (d : Nat) : Nat := 30100 + d
/-- The pre-emption unit. -/
def uPre : Nat := 30200
/-- Hardware without a place of its own. -/
def uHw : Nat := 30300
/-- A fabric port. -/
def uPort (p : Nat) : Nat := 30400 + p

/-- Put an act in flight. -/
def post (s : State) (src dst : Nat) (b : Body) : State :=
  { s with net := s.net ++ [{ src := src, dst := dst, round := s.roundNo, body := b }] }

/-! ## Telemetry (R390) -/

/-- Add 1 to a telemetry dword of a die, saturating. -/
def bumpTele (s : State) (d off : Nat) : State :=
  modDie s d (fun x => { x with tele := tmod x.tele off 0 (fun v => if v == BitVec.allOnes 64 then v else v + 1) })

/-! ## Sending to other devices (R347, R348) -/

/-- Send a packet towards another device; a dropped one is counted on the I-die where the entry is read. -/
def sendFab (s : State) (idie dev : Nat) (b : FabBody) : State × Bool :=
  match routePort s dev with
  | some p => ({ s with out := s.out ++ [.packet p { dev := BitVec.ofNat 16 dev, body := b }] }, true)
  | none => (bumpTele s (4 + idie) 0x18, false)

/-! ## Messages -/

/-- The element address of an origin: an element of this package, or, from elCount on, the address of another device's. -/
def origAddr (s : State) (o : Origin) : Nat := if o.el < elCount then elAddr s o.el else o.el - elCount

/-- A message event. -/
def msgEv (ch : Nat) (payload : List Dword) (sender ts : Dword) (lid xfer : BitVec 32) : Ev :=
  { kind := .msg, chan := ch, payload := payload, sender := sender, ts := ts, lid := lid, xfer := xfer, num := 0, trun := 0,
    serial := false, admitted := false, deferred := false, port := none }

/-- An error event on channel 3 of an element (R368). -/
def errEvent (s : State) (el kind : Nat) (d1 d2 d3 ts : Dword) (lid : BitVec 32) : State :=
  post s uHw el (.ev el (msgEv 3 [dw kind, d1, d2, d3] 0 ts lid 0))

/-- An error event that concerns the task of an origin. -/
def errOf (s : State) (o : Origin) (kind : Nat) (d1 d2 d3 : Dword) : State := errEvent s o.el kind d1 d2 d3 o.ts o.lid

/-- Send a message to a channel of an element address: within the device into the network, otherwise by the fabric. A drop
raises NODEST on channel 3 of the sending element, where there is one (R144, R348). -/
def sendMsg (s : State) (src dest ch : Nat) (payload : List Dword) (sender ts : Dword) (lid xfer : BitVec 32)
    (from' : Option Nat) : State :=
  let lost (t : State) : State :=
    match from' with
    | none => t
    | some e => errEvent t e 1 (dw (ch * 2 ^ 27 + dest)) 0 0 ts lid
  if dest / 2048 == s.regs.devnum.toNat then
    if elUsable s (dest % 2048) then post s src (dest % 2048) (.ev (dest % 2048) (msgEv ch payload sender ts lid xfer))
    else lost s
  else
    let r := sendFab s (match from' with | some e => idieOf (dieOf e) | none => 0) (dest / 2048)
      (.msg (BitVec.ofNat 27 dest) (BitVec.ofNat 6 ch) payload sender ts lid)
    if r.2 then r.1 else lost r.1

/-- An error event that concerns the task of an origin, which may run on another device. -/
def errTo (s : State) (o : Origin) (kind : Nat) (d1 d2 d3 : Dword) : State :=
  sendMsg s uHw (origAddr s o) 3 [dw kind, d1, d2, d3] 0 o.ts o.lid 0 none

/-- Send a message to a channel address (R20). -/
def sendChan (s : State) (src : Nat) (ca : Dword) (payload : List Dword) (sender ts : Dword) (lid xfer : BitVec 32)
    (from' : Option Nat) : State :=
  sendMsg s src (fld ca 26 0) (fld ca 32 27) payload sender ts lid xfer from'

/-! ## Machine checks (R370, R371, R391) -/

/-- Append a record to a die's machine-check log; gives the log index. -/
def mcRecord (s : State) (d code : Nat) (addr : Dword) (el : Nat) : State × Nat :=
  let n := (die s d).mccount
  let r : McRec := { code := code, count := n, addr := addr, el := el, round := s.roundNo }
  (modDie s d (fun x => { x with mccount := n + 1, mclog := (x.mclog ++ [r]).drop (x.mclog.length + 1 - 256) }), n)

/-- A machine check with its MCHECK error event to an element. -/
def mcheck (s : State) (d code : Nat) (addr : Dword) (el : Nat) (ts : Dword) (lid : BitVec 32) : State :=
  let r := mcRecord s d code addr (elAddr s el)
  errEvent r.1 el 11 (dw code) addr (dw r.2) ts lid

/-- The die that logs for an address: the I-die of a near link, of a far port (DEDUCED: ports 0 to 3 on I-die 0), or the C-die
of a scratchpad; other addresses log on I-die 0 (log 12). -/
def dieOfPa (pa : Nat) : Nat :=
  match paRegion pa with
  | 0 => if nearLink pa < 24 then 4 else 5
  | 1 => if farPort pa < 4 then 4 else 5
  | 3 => spCluster pa / 64
  | _ => 4

/-- The I-die that an origin's requests pass: that of its element's C-die, and I-die 0 for another device's (log 12). -/
def originIdie (o : Origin) : Nat := if o.el < elCount then idieOf (dieOf o.el) else 0

/-- Report what went wrong with writes to the element that wrote or pushed (R307, R315); requests that no route took are counted on the
I-die of that element (R348). -/
def reportErrs (s : State) (o : Origin) (errs : List WErr) : State :=
  errs.foldl (fun t e => errOf t o e.kind (dw e.pa) 0 0) (countDrops s (originIdie o) errs)

/-- An access that finds no data at an address of another device which no route leads to: its request is dropped, and counted on the
I-die that read the route table (R348). -/
def noteLost (s : State) (idie pa : Nat) : State :=
  if paRegion pa == 8 && !winRouted s pa then { countDrop s idie with marks := .drop idie :: s.marks } else s

/-- The same count, outside any step of an instruction. -/
def countLost (s : State) (idie pa : Nat) : State := if paRegion pa == 8 && !winRouted s pa then countDrop s idie else s

/-- What a step keeps of an access to an address that has no data: the drop of a request that no route takes, on an I-die (R348). -/
def lostMarks (s : State) (idie pa : Nat) : List Kept := if paRegion pa == 8 && !winRouted s pa then [.drop idie] else []

/-- Write a dword for a task or job, and report. -/
def putDwordFor (s : State) (o : Origin) (pa : Nat) (v : Dword) : State :=
  let r := physWrite s pa (leBytes 8 v.toNat) hwCodec
  reportErrs r.1 o r.2

/-- Apply writes and report. -/
def applyWritesFor (s : State) (o : Origin) (ws : Tbl (Byte × Nat)) : State :=
  let r := applyWrites s ws
  reportErrs r.1 o r.2

/-! ## Launches -/

/-- The active launch of an identifier. -/
def launchOf (s : State) (lid : BitVec 32) : Option Launch := tfind s.launches lid.toNat

/-- The scope of a domain: 1 group, 2 device, 3 system; 0 for a run that is a domain of its own (R25). -/
def lidScope (s : State) (lid : BitVec 32) : Nat :=
  match launchOf s lid with
  | some l => l.scope
  | none => 0

/-- The address space of a launch; 0 for none. -/
def lidAsid (s : State) (lid : BitVec 32) : Nat :=
  match launchOf s lid with
  | some l => l.asid
  | none => 0

/-- The priority of a launch; 0 for none. -/
def lidPrio (s : State) (lid : BitVec 32) : Nat :=
  match launchOf s lid with
  | some l => fld (dwAt l.rcd 0) 10 8
  | none => 0

/-! ## Counters (R151 to R153) -/

/-- A counter of a cluster. -/
def counter (s : State) (c n : Nat) : Counter := tget (clus s c).sc n Counter.reset

/-- Change a counter of a cluster. -/
def modCounter (s : State) (c n : Nat) (f : Counter → Counter) : State :=
  modClus s c (fun x => { x with sc := tmod x.sc n Counter.reset f })

/-- The first test of R153: an arm that has been reached places its start event. -/
def fireArm (s : State) (c n : Nat) : State :=
  let k := counter s c n
  match k.arm with
  | none => s
  | some a =>
    if a.value ≤ k.value then
      let ev : Ev := { msgEv a.chan [] (dw n) a.o.ts (chEntry (elem s a.o.el) a.chan).lid 0 with kind := .start }
      modCounter (post s (uClus c) a.o.el (.ev a.o.el ev)) c n (fun x => { x with arm := none })
    else s

/-- The second test: an expectation that has been reached sends its message. -/
def fireExpect (s : State) (c n : Nat) : State :=
  let k := counter s c n
  match k.expect with
  | none => s
  | some x =>
    if x.value ≤ k.value && !x.fired then
      modCounter (sendChan s (uClus c) x.chan [dw n, k.value, x.value] (dw (chanAddr s x.o.el x.o.chan)) x.o.ts x.o.lid 0
        (some x.o.el)) c n (fun y => { y with expect := some { x with fired := true } })
    else s

/-- The third test: a byte counter past its expectation raises OVERSHOOT. -/
def fireOver (s : State) (c n : Nat) : State :=
  let k := counter s c n
  match k.expect with
  | none => s
  | some x =>
    if k.byte && x.value < k.value && x.ovr then
      modCounter (errOf s x.o 3 (dw n) (k.value - x.value) k.value) c n
        (fun y => { y with expect := some { x with ovr := false } })
    else s

/-- The tests of R153, in order. -/
def counterTests (s : State) (c n : Nat) : State := fireOver (fireExpect (fireArm s c n) c n) c n

/-- A wait threshold is reached: it compares modulo 2^32 against the low word, over half the range (R29). -/
def waitOk (k : Counter) (thr : BitVec 32) : Bool := decide (((k.value.setWidth 32) - thr).toNat < 2 ^ 31)

/-! ### The fields of a command word (R78) -/

/-- OPC. -/
def cmdOpc (w : BitVec 256) : Nat := nbits w.toNat 7 0
/-- PRIO. -/
def cmdPrio (w : BitVec 256) : Nat := nbits w.toNat 10 8
/-- WAITEN. -/
def cmdWaiten (w : BitVec 256) : Bool := w.toNat.testBit 11
/-- SIGEN. -/
def cmdSigen (w : BitVec 256) : Bool := w.toNat.testBit 12
/-- DONE. -/
def cmdDone (w : BitVec 256) : Bool := w.toNat.testBit 13
/-- WAITC. -/
def cmdWaitc (w : BitVec 256) : Nat := nbits w.toNat 23 16
/-- WTHR. -/
def cmdWthr (w : BitVec 256) : BitVec 32 := BitVec.ofNat 32 (nbits w.toNat 55 24)
/-- SIGC. -/
def cmdSigc (w : BitVec 256) : Nat := nbits w.toNat 63 56
/-- SIGINC. -/
def cmdSiginc (w : BitVec 256) : Nat := nbits w.toNat 71 64
/-- DCHAN. -/
def cmdDchan (w : BitVec 256) : Nat := nbits w.toNat 77 72
/-- D1, D2, D3. -/
def cmdD (w : BitVec 256) (i : Nat) : Dword := dw (nbits w.toNat (64 * i + 63) (64 * i))

/-- The WAITEN condition of a command holds. -/
def jobWaitOk (s : State) (j : Job) : Bool :=
  !cmdWaiten j.cmd || waitOk (counter s (clOf j.o.el) (cmdWaitc j.cmd)) (cmdWthr j.cmd)

/-- A command of a cluster's elements, in the queue of a key, has not been issued and has aged, and its WAITEN condition holds no more; the
work of a BFILL in a matrix queue waits for no counter (R337). -/
def lapsed (s : State) (c k : Nat) (j : Job) : Bool :=
  !j.issued && j.age != 0 && clOf j.o.el == c && !jobWaitOk s j && !((qOfKey k).eng == 0 && cmdOpc j.cmd == 0x40)

/-- Counters of a cluster have changed: a command whose condition holds no more is not eligible, and ages anew once it is again (R333). -/
def lapse (s : State) (c : Nat) : State :=
  if s.queues.any (fun q => q.2.jobs.any (lapsed s c q.1)) then
    { s with queues := s.queues.map (fun q =>
        (q.1, { q.2 with jobs := q.2.jobs.map (fun j => if lapsed s c q.1 j then { j with age := 0 } else j) })) }
  else s

/-- Add to a counter; an increment of 0 changes nothing and fires nothing (R151). -/
def counterAdd (s : State) (c n : Nat) (v : Dword) : State :=
  if v == 0 then s else counterTests (lapse (modCounter s c n (fun x => { x with value := x.value + v })) c) c n

end Sys2Proof.Machine
end

