-- ==== Sys2Proof/Machine/Xlate.lean ====
section
/-! DEFINITION. Translation (R300 to R305): the walk, the checks of R302, the accessed and dirty bits, the TLBs of elements
and clusters. -/

namespace Sys2Proof.Machine

/-- The kinds of access (R302). -/
inductive AccKind where
  | load | store | rmw | fetch
  deriving DecidableEq, Repr

/-- Why an access fails: a miss, a protection failure, memory that is poisoned or unreachable, by its physical address (R302, R315), or
scratchpad beyond the usable banks (R298). -/
inductive XErr where
  | miss | prot | mcheck (pa : Nat) | beyond
  deriving DecidableEq, Repr

/-- Poison or lost reach that a unit meets which works for no task: a machine check of the die of the address, under a code and for an element
that the spec does not give (R370; logs 12 and 28), and the count of a request that no route takes (R348). -/
def lostRead (s : State) (pa : Nat) : State :=
  mcheck (countLost s 0 pa) (dieOfPa pa) (Config.scrubCode s.tick).toNat (dw pa) (Config.scrubElement s.tick).toNat 0 0

/-- A translation: the physical address, the codec and tier of the page, whether its reads are untracked, and whether it is scratchpad
beyond the usable banks (R298). -/
structure Xlat where
  pa    : Nat
  codec : Nat
  tier  : Nat
  untr  : Bool
  beyond : Bool
  deriving DecidableEq, Repr

/-- Who translates: an element with its cluster, a cluster's engine, or an engine of a die at its walker pool (R305). -/
inductive Xver where
  | element (e : Nat) | cluster (c : Nat) | walker (d : Nat)
  deriving DecidableEq, Repr

/-- The number of offset bits below a leaf at a level (R300). -/
def leafBits (level : Nat) : Nat := if level == 0 then 42 else if level == 1 then 29 else 16

/-- The index of a virtual address at a level (R300). -/
def pteIndex (va level : Nat) : Nat := va / 2 ^ leafBits level % 8192

/-- V, R, W, X, U, G, A, D of an entry. -/
def pteBit (e : Dword) (i : Nat) : Bool := dbit e i

/-- The frame of an entry, as an address. -/
def pteFrame (e : Dword) : Nat := fld e 51 16 * 65536

/-- The rsv bits of a root entry are 0 (R300). -/
def rootOk (e : Dword) : Bool := fld e 63 52 == 0 && fld e 15 1 == 0

/-- What a walk finds: the leaf, its level, and the address of its entry. -/
structure Leaf where
  pte   : Dword
  level : Nat
  addr  : Nat
  deriving DecidableEq, Repr

/-- The index bits of an address down to a level. -/
def vpnAt (va level : Nat) : Nat := va / 2 ^ leafBits level

/-- The walk from a table at a level on, with fuel for the levels; gives the leaf, and the pointer entries passed, deepest last (R302). -/
def walkFrom (s : State) (asid va : Nat) : Nat → Nat → Nat → List PtrEnt → Except XErr (Leaf × List PtrEnt)
  | 0, _, _, _ => .error .miss
  | k + 1, table, level, ps =>
    let a := table + 8 * pteIndex va level
    match physDword s a with
    | none => .error (.mcheck a)
    | some e =>
      if !pteBit e 0 then .error .miss
      else if !pteBit e 1 && !pteBit e 2 && !pteBit e 3 then
        if level == 2 then .error .miss
        else if fld e 15 4 != 0 then .error .prot
        else walkFrom s asid va k (pteFrame e) (level + 1) (ps ++ [{ asid := asid, level := level, vpn := vpnAt va level, pte := e }])
      else .ok ({ pte := e, level := level, addr := a }, ps)

/-- The walk of an address under an ASID from the root table, whose physical address XROOT holds (R300, R302). -/
def walkRoot (s : State) (asid va : Nat) : Except XErr (Leaf × List PtrEnt) :=
  match physDword s (fld s.regs.xroot 51 0 + 8 * asid) with
  | none => .error (.mcheck (fld s.regs.xroot 51 0 + 8 * asid))
  | some r =>
    if !pteBit r 0 then .error .miss
    else if !rootOk r then .error .prot
    else walkFrom s asid va 3 (pteFrame r) 0 []

/-- The leaf of an address, by a walk that no cache shortens. -/
def walk (s : State) (asid va : Nat) : Except XErr Leaf := (walkRoot s asid va).map (·.1)

/-! ## Walker pools (R305) -/

/-- The die whose walker pool an agent's walks use: an element's or cluster's C-die, or an I-die engine's own. -/
def poolOf : Xver → Nat
  | .element e => dieOf e
  | .cluster c => c / 64
  | .walker d => d

/-- The deepest pointer entry on an address's way that a pool still caches. -/
def ptrLook (s : State) (d asid va : Nat) : Option PtrEnt :=
  let l := (die s d).ptrs.filter (fun p => p.asid == asid && p.vpn == vpnAt va p.level && Config.ptrHeld s.tick p.level p.vpn)
  match l.find? (fun p => p.level == 1) with
  | some p => some p
  | none => l.find? (fun p => p.level == 0)

/-- A pool caches pointer entries, each in the place of an older one of the same table index. -/
def ptrKeep (s : State) (d : Nat) (ps : List PtrEnt) : State :=
  if ps.isEmpty then s
  else modDie s d (fun x => { x with ptrs := ps.foldl (fun l p =>
    l.filter (fun q => !(q.asid == p.asid && q.level == p.level && q.vpn == p.vpn)) ++ [p]) x.ptrs })

/-- The walk that an agent's translation makes: from the deepest pointer entry that its pool caches, else from the root. -/
def walkBy (s : State) (x : Xver) (asid va : Nat) : Except XErr (Leaf × List PtrEnt) :=
  match ptrLook s (poolOf x) asid va with
  | some p => walkFrom s asid va (2 - p.level) (pteFrame p.pte) (p.level + 1) []
  | none => walkRoot s asid va

/-- The region of an address agrees with TIER (R302). -/
def tierOk (tier pa : Nat) : Bool :=
  match paRegion pa with
  | 0 => tier == 0
  | 3 => tier == 0
  | 1 => tier == 1
  | 2 => tier == 2
  | 8 => tier == 2
  | _ => false

/-- A page under a codec lies in a compressed space, wholly below its MDLIM (R302). -/
def codecOk (s : State) (l : Leaf) (pa : Nat) : Bool :=
  fld l.pte 11 10 == 0 ||
    match spaceOf pa with
    | none => false
    | some sp => decide (cbIndex (pa / 2 ^ leafBits l.level * 2 ^ leafBits l.level) + 2 ^ leafBits l.level / 512 ≤ mdLim s sp)

/-- The permission an access needs (R302). -/
def permOk (k : AccKind) (e : Dword) : Bool :=
  match k with
  | .load => pteBit e 1
  | .store => pteBit e 2
  | .rmw => pteBit e 1 && pteBit e 2
  | .fetch => pteBit e 3

/-- A scratchpad address lies beyond the usable banks of its cluster (R298). -/
def spOver (s : State) (pa : Nat) : Bool := paRegion pa == 3 && decide ((clus s (spCluster pa)).spb * 131072 ≤ spOff pa)

/-- The checks of R302 on a leaf, for an access of a mode. -/
def leafCheck (s : State) (l : Leaf) (va mode : Nat) (k : AccKind) : Except XErr Xlat :=
  let e := l.pte
  let n := leafBits l.level
  let pa := pteFrame e + va % 2 ^ n
  let tier := fld e 9 8
  if pteBit e 2 && !pteBit e 1 then .error .prot
  else if tier == 3 || fld e 11 10 == 3 || decide (4 ≤ fld e 15 13) then .error .prot
  else if decide (l.level < 2) && pteFrame e % 2 ^ n != 0 then .error .prot
  else if !tierOk tier pa then .error .prot
  else if !populated s pa then .error .prot
  else if !codecOk s l pa then .error .prot
  else if !permOk k e then .error .prot
  else if mode == 0 && !pteBit e 4 then .error .prot
  else if k == .fetch && mode != 0 && pteBit e 4 then .error .prot
  else .ok { pa := pa, codec := fld e 11 10, tier := tier, untr := pteBit e 12, beyond := spOver s pa }

/-! ## TLBs (R305) -/

/-- An entry matches an ASID and an address at its leaf size; G matches every ASID. -/
def tlbHit (asid va : Nat) (t : TlbEnt) : Bool :=
  (t.asid == asid || pteBit t.pte 5) && t.vpn == va / 2 ^ leafBits t.level

/-- Put an entry into a TLB of n entries, the oldest leaving (log 8). -/
def tlbPut (n : Nat) (l : List TlbEnt) (t : TlbEnt) : List TlbEnt :=
  (l ++ [t]).drop (l.length + 1 - n)

/-- The TLB entries an agent looks in, nearest first. -/
def tlbLook (s : State) (x : Xver) (asid va : Nat) : Option TlbEnt :=
  match x with
  | .element e =>
    match (elem s e).tlb.find? (tlbHit asid va) with
    | some t => some t
    | none => (clus s (clOf e)).tlb.find? (tlbHit asid va)
  | .cluster c => (clus s c).tlb.find? (tlbHit asid va)
  | .walker _ => none

/-- Install an entry in the TLBs that an agent's translation passes, replacing the same page's. -/
def tlbInstall (s : State) (x : Xver) (t : TlbEnt) : State :=
  let fresh (l : List TlbEnt) : List TlbEnt := l.filter (fun u => !(u.asid == t.asid && u.level == t.level && u.vpn == t.vpn))
  match x with
  | .element e =>
    modClus (modElem s e (fun y => { y with tlb := tlbPut 64 (fresh y.tlb) t })) (clOf e)
      (fun y => { y with tlb := tlbPut 2048 (fresh y.tlb) t })
  | .cluster c => modClus s c (fun y => { y with tlb := tlbPut 2048 (fresh y.tlb) t })
  | .walker _ => s

/-- The entry a translation uses, whether it came from a walk, and the pointer entries that the walk passed. -/
def findLeaf (s : State) (x : Xver) (asid va : Nat) : Except XErr (Leaf × Bool × List PtrEnt) :=
  match tlbLook s x asid va with
  | some t => .ok ({ pte := t.pte, level := t.level, addr := t.at' }, false, [])
  | none =>
    match walkBy s x asid va with
    | .ok l => .ok (l.1, true, l.2)
    | .error e => .error e

/-- Set A after a walk, and D for a store, by an atomic OR on the entry at its home; the step remembers what it has set (R304). An entry
that cannot be read is a machine check (R315). -/
def markPte (s : State) (l : Leaf) (walked : Bool) (k : AccKind) : Except XErr (State × Leaf) :=
  let a : Dword := if walked then 0x40 else 0
  let d : Dword := if k == .store || k == .rmw then 0x80 else 0
  let need := (a ||| d) &&& ~~~l.pte
  if need == 0 then .ok (s, l)
  else
    match physDword s l.addr with
    | none => .error (.mcheck l.addr)
    | some e => .ok ({ (physPutDword s l.addr (e ||| need)) with marks := .pte l.addr need :: s.marks }, { l with pte := l.pte ||| need })

/-- Do again, in the state at a step's start, one of the acts that the step's end keeps (R304, R348). -/
def keepOne (s : State) : Kept → State
  | .pte a bits => match physDword s a with | none => s | some e => physPutDword s a (e ||| bits)
  | .drop d => countDrop s d

/-- The state at a step's start, with what the step has done since that its trap or fault keeps, of the list it ended with. -/
def keepMarks (s : State) (l : List Kept) : State := (l.take (l.length - s.marks.length)).foldr (fun m t => keepOne t m) s

/-- Translate an address under an ASID for an agent whose mode is given. The local-store window is never translated (R7): it
has no page and no permission. The new state holds the accessed and dirty bits and
the TLB entries. -/
def translate (s : State) (x : Xver) (asid va mode : Nat) (k : AccKind) : Except XErr (Xlat × State) :=
  if decide (2 ^ 55 ≤ va) || inLs va then .error .prot
  else
    match findLeaf s x asid va with
    | .error e => .error e
    | .ok (l, walked, ps) =>
      match leafCheck s l va mode k with
      | .error e => .error e
      | .ok r =>
        match markPte (ptrKeep s (poolOf x) ps) l walked k with
        | .error e => .error e
        | .ok m =>
          let t : TlbEnt := { asid := asid, level := l.level, vpn := va / 2 ^ leafBits l.level, pte := m.2.pte, at' := l.addr }
          .ok (r, if walked || m.2.pte != l.pte then tlbInstall m.1 x t else m.1)

/-- What a step keeps of a failed access: the drop of a request for data or a table entry that no route takes (R348). -/
def xMarks (s : State) (idie : Nat) : XErr → List Kept
  | .miss => []
  | .prot => []
  | .mcheck pa => lostMarks s idie pa
  | .beyond => []

/-- Drop the translations that a TLBINV names (R139). -/
def tlbDrop (kind asid va : Nat) (l : List TlbEnt) : List TlbEnt :=
  l.filter (fun t =>
    match kind with
    | 0 => !tlbHit asid va t
    | 1 => !(t.asid == asid && !pteBit t.pte 5)
    | 2 => pteBit t.pte 5
    | _ => false)

/-- Drop the cached pointer entries that a TLBINV names: those on the way to the page, those of the ASID, or all (R139, R305). -/
def ptrDrop (kind asid va : Nat) (l : List PtrEnt) : List PtrEnt :=
  l.filter (fun p =>
    match kind with
    | 0 => !(p.asid == asid && p.vpn == vpnAt va p.level)
    | 1 => p.asid != asid
    | _ => false)

/-- Drop translations in every TLB and walker cache of the package. -/
def tlbDropAll (s : State) (kind asid va : Nat) : State :=
  { s with elems := s.elems.map (fun e => (e.1, { e.2 with tlb := tlbDrop kind asid va e.2.tlb })),
           clusters := s.clusters.map (fun c => (c.1, { c.2 with tlb := tlbDrop kind asid va c.2.tlb })),
           dies := s.dies.map (fun d => (d.1, { d.2 with ptrs := ptrDrop kind asid va d.2.ptrs })) }

/-! ## Reading and writing by virtual address, for hardware -/

/-- Read n bytes at a virtual address, page by page of 64 KiB (with fuel for the pages); the state keeps what the translations have set,
those before a failure among them (R304). -/
def vRead (x : Xver) (asid mode : Nat) : Nat → State → Nat → Nat → State × Except XErr (List Byte)
  | 0, s, _, _ => (s, .ok [])
  | k + 1, s, va, n =>
    if n == 0 then (s, .ok [])
    else
      let m := Nat.min n (65536 - va % 65536)
      match translate s x asid va mode .load with
      | .error e => (s, .error e)
      | .ok (t, s1) =>
        if t.beyond then (s1, .error .beyond)
        else
          match physRead s1 t.pa m with
          | none => (s1, .error (.mcheck t.pa))
          | some l =>
            let r := vRead x asid mode k s1 (va + m) (n - m)
            (r.1, r.2.map (l ++ ·))

/-- Read n bytes at a virtual address. -/
def virtRead (s : State) (x : Xver) (asid mode va n : Nat) : State × Except XErr (List Byte) :=
  vRead x asid mode (n / 65536 + 2) s va n

end Sys2Proof.Machine
end

