-- ==== Sys2Proof/Machine/Group.lean ====
section
/-! DEFINITION. The combining node of the collectives (R249 to R260, R354): group entries, reduction slots, announcements and
pulls. -/

namespace Sys2Proof.Machine

/-! ## Group words and entries (R250, R252) -/

/-- GROUP of a group word. -/
def gwGroup (w : Dword) : Nat := fld w 7 0
/-- SEQ of a group word. -/
def gwSeq (w : Dword) : Nat := fld w 47 16
/-- The rsv bits of a group word are 0. -/
def gwOk (w : Dword) : Bool := fld w 63 48 == 0 && fld w 15 8 == 0
/-- The group word of a group and sequence. -/
def mkGw (g q : Nat) : Dword := dw (q % 2 ^ 32 * 2 ^ 16 + g % 256)

/-- D0 of a group's entry. -/
def grp (s : State) (g : Nat) : Dword := (tget s.groups g (0, 0)).1
/-- EN. -/
def gEn (e : Dword) : Bool := dbit e 62
/-- LEAF. -/
def gLeaf (e : Dword) : Nat := fld e 61 56
/-- LCNT. -/
def gLcnt (e : Dword) : Nat := fld e 54 48
/-- RCHAN. -/
def gRchan (e : Dword) : Nat := fld e 45 40
/-- TMO. -/
def gTmo (e : Dword) : Nat := fld e 39 32
/-- FMT: 0 FP32, 1 INT32, 2 FP64, 3 INT64. -/
def gFmt (e : Dword) : Nat := fld e 29 28
/-- OP: 0 SUM, 1 MAX, 2 MIN, 3 AMAX, 4 OR, 5 AND. -/
def gOp (e : Dword) : Nat := fld e 27 25
/-- The node takes local contributions. -/
def gLocal (e : Dword) : Bool := dbit e 24
/-- The child ports. -/
def gChildren (e : Dword) : List Nat := (span 0 16).filter (fun p => dbit e (8 + p))
/-- PARENT; 31 at the root. -/
def gParent (e : Dword) : Nat := fld e 4 0

/-- The checks of R252 on a block of GCFG. -/
def gcfgOk (d0 d1 : Dword) : Bool :=
  !dbit d0 63 && !dbit d0 55 && fld d0 47 46 == 0 && fld d0 31 30 == 0 && fld d0 7 5 == 0
    && fld d1 63 48 == 0 && fld d1 15 8 == 0
    && (decide (gParent d0 < 16) || gParent d0 == 31) && decide (gOp d0 < 6)
    && !(gOp d0 == 3 && gFmt d0 % 2 == 1) && !(decide (4 ≤ gOp d0) && gFmt d0 % 2 == 0)
    && decide (gLcnt d0 ≤ 64) && !(!gLocal d0 && gLcnt d0 != 0) && !(gLocal d0 && decide (gRchan d0 < 6))

/-- Sequence a is at or below b, modulo 2^32 over half the range (R250). -/
def seqLe (a b : Nat) : Bool := decide ((b + 2 ^ 32 - a % 2 ^ 32) % 2 ^ 32 < 2 ^ 31)

/-- HSEQ of a group. -/
def gHseq (s : State) (g : Nat) : Nat := tget s.hseq g 0

/-! ## Values (R254, R255) -/

/-- The number format of a group. -/
def gFormat (e : Dword) : Fmt :=
  match gFmt e with | 0 => .fp32 | 1 => .int32 | 2 => .fp64 | _ => .int64

/-- A combining operation on two values of a format, with its flags (R95, R97, R106, R255). -/
def combine (op : Nat) (f : Fmt) (a b : Nat) : Nat × Nat :=
  let n := fmtBits f
  if isFloat f then
    match op with
    | 0 => fpAdd f 0 a b
    | 1 => fpMax f a b
    | 2 => fpMin f a b
    | _ => fpAmax f a b
  else
    match op with
    | 0 => ((a + b) % 2 ^ n, 0)
    | 1 => (if intVal f a < intVal f b then b else a, 0)
    | 2 => (if intVal f b < intVal f a then b else a, 0)
    | 4 => (a ||| b, 0)
    | _ => (a &&& b, 0)

/-- The first value as it starts the accumulator. -/
def combineFirst (op : Nat) (f : Fmt) (a : Nat) : Nat × Nat := if isFloat f && op == 3 then fpAmax1 f a else (a, 0)

/-- Fold values in order, with the flags of every step; 0 for none. -/
def combineAll (op : Nat) (f : Fmt) : List Nat → Nat × Nat
  | [] => (0, 0)
  | a :: l => l.foldl (fun acc b => let r := combine op f acc.1 b; (r.1, acc.2 ||| r.2)) (combineFirst op f a)

/-- The low bits of a dword that a format uses. -/
def gTake (f : Fmt) (v : Dword) : Nat := v.toNat % 2 ^ fmtBits f

/-- The result dword: zero-extended for FP32, sign-extended for INT32 (R256). -/
def gResult (f : Fmt) (v : Nat) : Dword :=
  if f == .int32 then (BitVec.ofNat 32 v).signExtend 64 else dw v

/-! ## Slots (R255) -/

/-- The slot of a group and sequence. -/
def rslot (s : State) (g q : Nat) : Option RSlot := s.rslots.find? (fun x => x.g == g && x.q == q)

/-- Replace a slot. -/
def setSlot (s : State) (x : RSlot) : State :=
  { s with rslots := s.rslots.map (fun y => if y.g == x.g && y.q == x.q then x else y) }

/-- Remove a slot. -/
def freeSlot (s : State) (g q : Nat) : State := { s with rslots := s.rslots.filter (fun y => !(y.g == g && y.q == q)) }

/-- Send a result or reply message of R256 to a local contributor. -/
def groupMsg (s : State) (e : Dword) (g q : Nat) (c : Contrib) (code : Nat) (v arr : Dword) (count : Nat) (nan : Bool) : State :=
  sendMsg s uGroup (elAddr s c.o.el) (gRchan e) [mkGw g q, v, dw (code + bnat nan * 256 + count % 2 ^ 32 * 2 ^ 16), arr]
    0 c.o.ts c.o.lid 0 none

/-- Put a packet on a fabric port for the node at its other end; a port that is down drops it (R345). -/
def portSend (s : State) (p : Nat) (b : FabBody) : State :=
  if portUp s p then { s with out := s.out ++ [.packet p { dev := 0, body := b }] } else bumpTele s (4 + p / 8) 0x18

/-- Answer a contribution with a code of R253. -/
def groupReply (s : State) (e : Dword) (g q : Nat) (c : Contrib) (code : Nat) : State :=
  match c.port with
  | none => groupMsg s e g q c code 0 0 0 false
  | some p => portSend s p (.reply (BitVec.ofNat 8 g) (BitVec.ofNat 32 q) (BitVec.ofNat 8 code))

/-- Node order: local values by element address, in arrival order for one element, then children by port (R255). -/
def nodeOrder (l : List Contrib) : List Contrib :=
  sortBy (fun a b => decide (a.o.el < b.o.el)) (l.filter (fun c => c.port.isNone))
    ++ sortBy (fun a b => decide (a.port.getD 0 < b.port.getD 0)) (l.filter (fun c => c.port.isSome))

/-- Local values recorded. -/
def localCount (x : RSlot) : Nat := countIf (fun c => c.port.isNone) x.ins

/-- A child port's value is recorded. -/
def hasChild (x : RSlot) (p : Nat) : Bool := x.ins.any (fun c => c.port == some p)

/-- A port is up as the node sees it: a change of its state counts from the package edge that sees it (R354). -/
def portSeen (s : State) (p : Nat) : Bool := s.portEdge.contains p

/-- Every input that is still expected has arrived (R255, R354). -/
def slotFull (s : State) (e : Dword) (x : RSlot) : Bool :=
  decide (gLcnt e ≤ localCount x) && (gChildren e).all (fun p => hasChild x p || !portSeen s p)

/-- A child port that is down and never supplied (R354). -/
def childLost (s : State) (e : Dword) (x : RSlot) : Bool := (gChildren e).any (fun p => !hasChild x p && !portSeen s p)

/-! ## Announcements (R258) and what is asked for -/

/-- The announcement of a chunk at this leaf. -/
def annOf (s : State) (g q c : Nat) : Option Ann := s.anns.find? (fun a => a.g == g && a.q == q && a.c == c)

/-- A node's access for an element that failed: memory that is poisoned or unreachable is a machine check of code 8 for that element, and a
request that no route took is counted (R315, R348, R370; log 22). -/
def nodeLost (s : State) (o : Origin) (va : Dword) : XErr → State
  | .miss => s
  | .prot => s
  | .beyond => s
  | .mcheck pa => mcheck (countLost s 0 pa) 4 8 va o.el o.ts o.lid

/-- Read an announced chunk as it stands when it is asked for; poison or lost reach is a machine check of code 8 for the element that
announced it (R258, R370; log 22). -/
def annTake (s : State) (a : Ann) : State × Option (List Byte) :=
  let r := virtRead s (.walker 4) a.o.asid a.o.mode a.addr.toNat a.size
  match r.2 with
  | .ok l => (r.1, some l)
  | .error e => (nodeLost r.1 a.o a.addr e, none)

/-- GROUP, SEQ, leaf and chunk of a pull (R257). -/
def pullG (p : Pull) : Nat := gwGroup (dwAt p.block 0)
/-- SEQ. -/
def pullQ (p : Pull) : Nat := gwSeq (dwAt p.block 0)
/-- The source leaf. -/
def pullLeaf (p : Pull) : Nat := fld (dwAt p.block 1) 21 16
/-- The chunk. -/
def pullC (p : Pull) : Nat := fld (dwAt p.block 1) 15 0

/-- The bulk job of a group and sequence that is running at this node: the router queues' issued jobs (R262). -/
def bulkJob (s : State) (g q : Nat) : Option Job :=
  ((queue s { eng := 4, idx := 0 }).jobs ++ (queue s { eng := 4, idx := 1 }).jobs).find?
    (fun j => j.issued && j.fin != some 26 && fld (cmdD j.cmd 1) 23 16 == g && fld (cmdD j.cmd 2) 31 0 == q)

/-- A chunk's state in a bulk job. -/
def chunkState (j : Job) (c : Nat) : Nat := j.data.getD (c + 1) 0

/-- A chunk of this leaf has been asked for and is still waited for: by a bulk job, or by a request of another node (R262). -/
def chunkAsked (s : State) (g q c : Nat) : Bool :=
  (match bulkJob s g q with | some j => j.fin.isNone && decide (2 ≤ chunkState j c) | none => false)
    || s.asks.any (fun a => a.g == g && a.q == q && a.c == c)

/-- What ports bring for a sequence is waited for by a pull, by a bulk job, or by a request of another node (R259, R262). -/
def seqWanted (s : State) (g q : Nat) : Bool :=
  (match bulkJob s g q with | some j => j.fin.isNone | none => false)
    || s.pulls.any (fun p => pullG p == g && pullQ p == q) || s.asks.any (fun a => a.g == g && a.q == q)

/-- This leaf's chunk of an announcement that has ended since it was asked for. -/
def keptAt (s : State) (g q c : Nat) : Option (List Byte) :=
  (s.annKept.find? (fun k => k.g == g && k.q == q && k.c == c)).map (·.data)

/-- This leaf's chunk is announced, or was asked for while it was. -/
def ownHere (s : State) (g q c : Nat) : Bool := (annOf s g q c).isSome || (keptAt s g q c).isSome

/-- The chunks that are asked for and not kept yet are read, before their announcements end. -/
def keepChunks (s : State) (l : List Ann) : State :=
  (l.filter (fun a => chunkAsked s a.g a.q a.c)).foldl (fun t a =>
    let r := annTake t a
    { r.1 with annKept := r.1.annKept.filter (fun k => !(k.g == a.g && k.q == a.q && k.c == a.c)) ++
        [{ port := 16, g := a.g, q := a.q, leaf := gLeaf (grp s a.g), c := a.c, comb := false, data := r.2.getD [] }] }) s

/-- Drop the announcements that HSEQ has passed, and what ports have brought for their sequences, except where it is waited for: a chunk that
has been asked for is read, and what a pull, a bulk job or a request waits for stays (R258, R259, R262). -/
def dropAnns (s : State) (g h : Nat) : State :=
  let old (k q : Nat) : Bool := k == g && seqLe q h && q != h
  let t := keepChunks { s with annKept := s.annKept.filter (fun k => chunkAsked s k.g k.q k.c) } (s.anns.filter (fun a => old a.g a.q))
  { t with anns := t.anns.filter (fun a => !old a.g a.q), chunks := t.chunks.filter (fun a => !old a.g a.q || seqWanted s a.g a.q),
           ends := t.ends.filter (fun a => !old a.g a.q || seqWanted s a.g a.q) }

/-- Advance HSEQ. -/
def raiseHseq (s : State) (g q : Nat) : State :=
  if seqLe q (gHseq s g) then s else dropAnns { s with hseq := tput s.hseq g q } g q

/-- DOWN (R255): the result goes to every child and every recorded local contributor. -/
def groupDown (s : State) (g q code : Nat) (v arr : Dword) (count : Nat) (nan : Bool) : State :=
  let e := grp s g
  let s1 := raiseHseq s g q
  let s2 := (gChildren e).foldl (fun t p =>
    portSend t p (.result (BitVec.ofNat 8 g) (BitVec.ofNat 32 q) v arr (BitVec.ofNat 32 count) (code == 1) nan)) s1
  match rslot s2 g q with
  | none => s2
  | some x =>
    let s3 := (nodeOrder (x.ins.filter (fun c => c.port.isNone))).foldl (fun t c => groupMsg t e g q c code v arr count nan) s2
    setSlot s3 { x with state := 2, start := s.roundNo }

/-- What a slot's recorded inputs give, combined in node order (R255): value, arrived mask, count, NANSEEN. Where the node takes local
values and LCNT is 0, bit LEAF stays clear: nothing of the leaf has arrived (DESIGN CHOICE, log 52). -/
def slotSum (s : State) (x : RSlot) : Dword × Dword × Nat × Bool :=
  let e := grp s x.g
  let f := gFormat e
  let l := nodeOrder x.ins
  (gResult f (combineAll (gOp e) f (l.map (fun c => gTake f c.value))).1,
    l.foldl (fun a c => a ||| c.arr) (if gLocal e && decide (gLcnt e ≤ localCount x) && decide (0 < gLcnt e) then dw (2 ^ gLeaf e) else 0),
    (l.map (·.count)).sum,
    isFloat f && l.any (fun c => c.nan || (fpDecode f (gTake f c.value)).isNan))

/-- The entry's parent port is down (R354). -/
def parentLost (s : State) (e : Dword) : Bool := decide (gParent e < 16) && !portSeen s (gParent e)

/-- FORWARD (R255, R354); timed is true when a timeout ends the slot. -/
def groupForward (s : State) (x : RSlot) (timed : Bool) : State :=
  let e := grp s x.g
  let r := slotSum s x
  let part := timed || x.ins.any (·.part) || childLost s e x || parentLost s e
  let t := setSlot s { x with state := 1 }
  if gParent e == 31 || parentLost s e then groupDown t x.g x.q (bnat part) r.1 r.2.1 r.2.2.1 r.2.2.2
  else
    portSend t (gParent e)
      (.contrib (BitVec.ofNat 8 x.g) (BitVec.ofNat 32 x.q) r.1 r.2.1 (BitVec.ofNat 32 r.2.2.1) part r.2.2.2)

/-- A slot that awaits the answer of a parent whose port is down ends as at a root, PARTIAL (R354). -/
def groupOrphan (s : State) (x : RSlot) : State :=
  let r := slotSum s x
  groupDown s x.g x.q 1 r.1 r.2.1 r.2.2.1 r.2.2.2

/-- A contribution reaches the node (R255). -/
def groupContribute (s : State) (g q : Nat) (c : Contrib) : State :=
  let e := grp s g
  if !gEn e || (c.port.isNone && (!gLocal e || gLcnt e == 0)) then groupReply s e g q c 4
  else if seqLe q (gHseq s g) then groupReply s e g q c 2
  else
    match rslot s g q with
    | some x =>
      let supplied := match c.port with | none => decide (gLcnt e ≤ localCount x) | some p => hasChild x p
      if x.state != 0 || supplied then groupReply s e g q c 2
      else
        let y := { x with ins := x.ins ++ [c] }
        if slotFull s e y then groupForward (setSlot s y) y false else setSlot s y
    | none =>
      if 512 ≤ s.rslots.length then groupReply s e g q c 3
      else
        let y : RSlot := { g := g, q := q, state := 0, start := s.roundNo, ins := [c] }
        let s1 := { s with rslots := s.rslots ++ [y] }
        if slotFull s1 e y then groupForward s1 y false else s1

/-- A group of one leaf whose single contribution completes at its own commit (R256). -/
def gAlone (e : Dword) : Bool := gEn e && gLocal e && gLcnt e == 1 && gParent e == 31 && (gChildren e).isEmpty

/-- SEQ0 of a group's entry (R252). -/
def gSeq0 (s : State) (g : Nat) : Nat := fld (tget s.groups g (0, 0)).2 47 16

/-- An answer to an entry that GCFG has replaced: one whose sequence lies before SEQ0, while HSEQ has not gone half the range beyond it;
of any other the parent's packet says so, in a form that the spec does not give (R252; Config.oldResult, log 22). Where GCFG has replaced none,
there is no such answer. -/
def oldAnswer (s : State) (g q : Nat) : Bool :=
  let first := (gSeq0 s g + 2 ^ 32 - 1) % 2 ^ 32
  s.renewed.contains g && ((seqLe q first && seqLe first (gHseq s g) && seqLe q (gHseq s g)) || Config.oldResult s.tick g q)

/-- The parent's answer reaches the node: one to an entry that GCFG has ended is discarded, and the one that a slot of that entry awaited is
not waited for any longer unless it is LATE, which the result may follow; a result goes down, unless it has gone down already; another code is
passed to every contributor whose value the node forwarded, and after LATE the slot still awaits the result of its sequence (R252, R255). -/
def groupAnswer (s : State) (g q code : Nat) (v arr : Dword) (count : Nat) (nan : Bool) : State :=
  let e := grp s g
  if s.stale.contains (g, q) then (if code == 2 then s else { s with stale := s.stale.erase (g, q) })
  else if oldAnswer s g q then s
  else if code ≤ 1 then
    match rslot s g q with
    | none => groupDown s g q code v arr count nan
    | some x => if x.state == 2 && seqLe q (gHseq s g) then s else groupDown s g q code v arr count nan
  else
    match rslot s g q with
    | none => s
    | some x =>
      if x.state == 0 then s
      else
        let t := (nodeOrder x.ins).foldl (fun t c => groupReply t e g q c code) s
        if x.state == 1 && code != 2 then setSlot t { x with state := 2, start := s.roundNo } else t

/-- The timeout of a slot that has passed is taken (R255). -/
def groupTimeoutOf (s : State) (g q : Nat) : State :=
  match rslot s g q with
  | none => s
  | some x =>
    if x.state == 0 && gTmo (grp s g) != 0 && decide (x.start + gTmo (grp s g) ≤ s.roundNo) then groupForward s x true else s

/-- A DONE slot is freed after two edges (R255). -/
def groupFreeOf (s : State) (g q : Nat) : State :=
  match rslot s g q with
  | none => s
  | some x => if x.state == 2 && decide (x.start + 2 ≤ s.roundNo) then freeSlot s g q else s

/-! ## Announcements and pulls (R258, R259) -/

/-- GRDY at the node (R258). One whose SEQ HSEQ has already passed is entered too, and stays until HSEQ rises again (DESIGN CHOICE, log 52). -/
def announce (s : State) (block : List Dword) (o : Origin) : State :=
  let w := dwAt block 0
  let a : Ann := { g := gwGroup w, q := gwSeq w, c := fld (dwAt block 1) 15 0, addr := dwAt block 2,
                   size := 64 * (fld (dwAt block 1) 25 16 + 1), o := o }
  if 4096 ≤ s.anns.length || s.anns.any (fun b => b.g == a.g && b.q == a.q && b.c == a.c) then
    errOf s o 6 w (dw a.c) 0
  else { s with anns := s.anns ++ [a] }

/-! ## Chunks of other nodes (R259, R262, R354; log 22) -/

/-- The ports of a group at this node: the parent's, then the children's. -/
def treePorts (e : Dword) : List Nat := (if gParent e < 16 then [gParent e] else []) ++ gChildren e

/-- A leaf's own chunk that a port has delivered. -/
def chunkAt (s : State) (g q leaf c : Nat) : Option (List Byte) :=
  (s.chunks.find? (fun k => k.g == g && k.q == q && !k.comb && k.leaf == leaf && k.c == c)).map (·.data)

/-- What a port has said last for a request. -/
def endOf (s : State) (g q kind leaf c p : Nat) : Option ChunkEnd :=
  s.ends.find? (fun k => k.port == p && k.g == g && k.q == q && k.kind == kind && k.leaf == leaf && k.c == c)

/-- A port has supplied all that it will: it has said so, or it is down (R354). -/
def portOver (s : State) (g q kind leaf c p : Nat) : Bool := (endOf s g q kind leaf c p).isSome || !portSeen s p

/-- A request on a port: what was said for an earlier one of the same chunk no longer counts. -/
def askPort (g q kind leaf c : Nat) (s : State) (p : Nat) : State :=
  portSend { s with ends := s.ends.filter (fun k => !(k.port == p && k.g == g && k.q == q && k.kind == kind && k.leaf == leaf && k.c == c)) } p
    (.chunkReq (BitVec.ofNat 8 g) (BitVec.ofNat 32 q) (BitVec.ofNat 2 kind) (BitVec.ofNat 6 leaf) (BitVec.ofNat 16 c))

/-- A request on those of some ports that the node sees up. -/
def askPorts (s : State) (ports : List Nat) (g q kind leaf c : Nat) : State := (ports.filter (portSeen s)).foldl (askPort g q kind leaf c) s

/-- The completion of a pull: its counter and its message (R259). -/
def pullDone (s : State) (p : Pull) (code bytes : Nat) : State :=
  let d1 := dwAt p.block 1
  let s1 := if dbit d1 38 && code == 0 then counterAdd s (clOf p.o.el) (fld d1 37 30) 1 else s
  let ch := fld d1 29 24
  if ch == 0 then s1
  else sendMsg s1 uGroup (elAddr s1 p.o.el) ch
    [dwAt p.block 0, dw (fld d1 15 0 + fld d1 21 16 * 2 ^ 16 + code * 2 ^ 24 + bytes % 2 ^ 32 * 2 ^ 32)] 0 p.o.ts p.o.lid 0 none

/-- Write bytes at a virtual address as an I-die engine, page by page (with fuel for the pages), as far as the translations go; gives how
the first that fails does so. -/
def vWriteAux (x : Xver) (o : Origin) : Nat → State → Nat → List Byte → State × Option XErr
  | 0, s, _, _ => (s, none)
  | k + 1, s, va, l =>
    if l.isEmpty then (s, none)
    else
      let m := Nat.min l.length (65536 - va % 65536)
      match translate s x o.asid va o.mode .store with
      | .error e => (s, some e)
      | .ok (t, s1) =>
        if t.beyond then (s1, some .beyond)
        else
          let r := physWrite s1 t.pa (l.take m) t.codec
          vWriteAux x o k (reportErrs r.1 o r.2) (va + m) (l.drop m)

/-- Write bytes at a virtual address. -/
def virtWrite (s : State) (x : Xver) (o : Origin) (va : Nat) (l : List Byte) : State × Option XErr :=
  vWriteAux x o (l.length / 65536 + 2) s va l

/-- Serve a pull when its chunk is at hand; otherwise it stays. A chunk that cannot be read, and a destination that cannot be written, end
it MISSING with nothing written (log 13). -/
def servePull (s : State) (p : Pull) : Option State :=
  let r : Option (State × Option (List Byte)) :=
    if pullLeaf p == gLeaf (grp s (pullG p)) then (annOf s (pullG p) (pullQ p) (pullC p)).map (annTake s)
    else (chunkAt s (pullG p) (pullQ p) (pullLeaf p) (pullC p)).map (fun l => (s, some l))
  match r with
  | none => none
  | some (t, none) => some (pullDone t p 6 0)
  | some (t, some l) =>
    let w := virtWrite t (.walker 4) p.o (dwAt p.block 2).toNat l
    match w.2 with
    | none => some (pullDone w.1 p 0 l.length)
    | some e => some (pullDone (nodeLost w.1 p.o (dwAt p.block 2) e) p 6 0)

/-- The chunk of a pull can come by no port: every one of the group's is down, or has said that the chunk is missing (R354). -/
def pullLost (s : State) (p : Pull) : Bool :=
  let e := grp s (pullG p)
  pullLeaf p != gLeaf e && (treePorts e).all (portOver s (pullG p) (pullQ p) 0 (pullLeaf p) (pullC p))

/-- A pull ends MISSING: its chunk is this leaf's, and the timeout has passed; or it can come by no port. Another leaf's node tests the
timeout, which asks when the chunk is announced and not when it arrives (R259, R354). -/
def pullExpired (s : State) (p : Pull) : Bool :=
  let e := grp s (pullG p)
  (pullLeaf p == gLeaf e && gTmo e != 0 && decide (p.start + gTmo e ≤ s.roundNo)) || pullLost s p

/-- GPULL at the node (R259): served at once when the chunk is here; a chunk of another leaf is asked for on the ports of
the group, and the pull waits, unless they are all down. -/
def pullRequest (s : State) (block : List Dword) (o : Origin) : State :=
  let p : Pull := { block := block, o := o, start := s.roundNo }
  let e := grp s (pullG p)
  if !gEn e then pullDone s p 4 0
  else
    match servePull s p with
    | some t => t
    | none =>
      if pullLeaf p == gLeaf e then { s with pulls := s.pulls ++ [p] }
      else
        let t := askPorts s (treePorts e) (pullG p) (pullQ p) 0 (pullLeaf p) (pullC p)
        if pullLost t p then pullDone t p 6 0 else { t with pulls := t.pulls ++ [p] }

/-- Serve every pull that can be served, in order; one whose chunk no port can bring ends MISSING. -/
def servePulls (s : State) : State :=
  s.pulls.foldl (fun t p =>
    let gone (u : State) : State := { u with pulls := u.pulls.filter (· != p) }
    match servePull t p with
    | some u => gone u
    | none => if pullLost t p then gone (pullDone t p 6 0) else t) s

/-! ## GCFG at its commit (R252) -/

/-- Tell the node behind a port that nothing comes for its request, for lack of some leaves. -/
def sendEnd (s : State) (a : Ask) (miss : Dword) : State :=
  portSend s a.port (.chunkEnd (BitVec.ofNat 8 a.g) (BitVec.ofNat 32 a.q) (BitVec.ofNat 2 a.kind) (BitVec.ofNat 6 a.leaf)
    (BitVec.ofNat 16 a.c) miss)

/-- The leaves that a request which gets nothing counts as missing: the one it names, else this node's own. -/
def askNone (e : Dword) (a : Ask) : Dword := if a.kind == 0 then dw (2 ^ a.leaf) else dw (2 ^ gLeaf e)

/-- Apply a block of GCFG: the old entry ends, the new one stands. Every contributor of a slot that is not DONE receives RESET, a child node
by its port; an answer that a FORWARDED slot still awaits will be discarded, and so will be later results of the old entry. -/
def applyGcfg (s : State) (block : List Dword) : State :=
  let d0 := dwAt block 0
  let d1 := dwAt block 1
  let g := fld d1 7 0
  let e := grp s g
  let ended := s.rslots.filter (fun x => x.g == g && x.state != 2)
  let s1 := ended.foldl (fun t x => (nodeOrder x.ins).foldl (fun u c => groupReply u e g x.q c 5) t) s
  let mine (p : Pull) : Bool := pullG p == g
  let s2 := (s1.pulls.filter mine).foldl (fun t p => pullDone t p 5 0) s1
  let s3 := (s2.asks.filter (fun a => a.g == g)).foldl (fun t a => sendEnd t a (askNone e a)) s2
  { s3 with rslots := s3.rslots.filter (fun x => x.g != g || x.state == 2), anns := s3.anns.filter (fun a => a.g != g),
            annKept := s3.annKept.filter (fun a => a.g != g), chunks := s3.chunks.filter (fun a => a.g != g), asks := s3.asks.filter (fun a => a.g != g),
            ends := s3.ends.filter (fun a => a.g != g),
            stale := s3.stale ++ (ended.filter (fun x => x.state == 1)).map (fun x => (x.g, x.q)),
            renewed := if gEn e && !s3.renewed.contains g then g :: s3.renewed else s3.renewed,
            pulls := s3.pulls.filter (fun p => !mine p), groups := tput s3.groups g (d0, d1),
            hseq := tput s3.hseq g ((fld d1 47 16 + 2 ^ 32 - 1) % 2 ^ 32) }

end Sys2Proof.Machine
end

