-- ==== Sys2Proof/Machine/Kv.lean ====
section
/-! DEFINITION. The KV cache (R232 to R237) as hardware works on it at a commit, and the marks of a BFILL (R239). -/

namespace Sys2Proof.Machine

/-! ## Root records (R232) -/

/-- Layers. -/
def rootL (r : List Dword) : Nat := fld (dwAt r 0) 15 0
/-- KV head groups. -/
def rootG (r : List Dword) : Nat := fld (dwAt r 0) 31 16
/-- Blocks per layer and group. -/
def rootNB (r : List Dword) : Nat := fld (dwAt r 0) 63 32
/-- Elements per row. -/
def rootD (r : List Dword) : Nat := fld (dwAt r 4) 15 0
/-- KFMT. -/
def rootFmt (r : List Dword) : Option Fmt :=
  let c := fld (dwAt r 4) 19 16
  if 1 ≤ c ∧ c ≤ 5 then fmtOfCode (BitVec.ofNat 4 c) else none
/-- KFMT of a valid root. -/
def rootF (r : List Dword) : Fmt := (rootFmt r).getD .fp32
/-- Bytes of a row element. -/
def rootS (r : List Dword) : Nat := fmtBytes (rootF r)

/-- The checks of R232. -/
def kvRootOk (r : List Dword) : Bool :=
  fld (dwAt r 4) 63 20 == 0 && dwAt r 5 == 0 && dwAt r 6 == 0 && dwAt r 7 == 0 && (rootFmt r).isSome
    && rootD r % 16 == 0 && decide (16 ≤ rootD r ∧ rootD r ≤ 1024)
    && rootL r != 0 && rootG r != 0 && rootNB r != 0

/-- Bytes of a block (R233). -/
def kvBlockSize (r : List Dword) : Nat := 64 + 8 * rootD r + 32 * rootD r * rootS r

/-- The index of the entry of a layer, a group and a position (R233). -/
def kvIndex (r : List Dword) (l g p : Nat) : Nat := (l * rootG r + g) * rootNB r + p / 16

/-- Table pages of a root. -/
def kvPages (r : List Dword) : Nat := (rootL r * rootG r * rootNB r + 511) / 512

/-- A layer, group and position within the root. -/
def kvInRange (r : List Dword) (l g p : Nat) : Bool := decide (l < rootL r ∧ g < rootG r ∧ p < 16 * rootNB r)

/-- PRES of an entry. -/
def entPres (e : Dword) : Bool := dbit e 55
/-- TIER of an entry. -/
def entTier (e : Dword) : Nat := fld e 53 52
/-- The block address of an entry. -/
def entPa (e : Dword) : Nat := fld e 51 6 * 64
/-- An entry for a block, present, in the near tier. -/
def mkEntry (pa : Nat) : Dword := dw (2 ^ 55 + pa % 2 ^ 52 / 64 * 64)

/-! ## Acts at a commit

They keep what they have done when a later access fails (R234). -/

/-- Why an act stops. -/
inductive KvErr where
  | noBlock | absent | range
  | access (e : XErr) (addr : Nat)
  deriving DecidableEq, Repr

/-- The machine and the lines written so far; and whether the writes are an engine's, of which one to poison or lost reach is discarded with
its error event (R315), where at a commit it stops the operation (R234). -/
structure KvSt where
  s     : State
  lines : List Nat
  eng   : Bool := false
  deriving DecidableEq, Repr

/-- Acts that keep their state when they stop. -/
abbrev KM := EStateM KvErr KvSt

/-- Who translates, under which address space and mode. -/
structure KvCtx where
  x    : Xver
  asid : Nat
  mode : Nat
  o    : Origin
  deriving DecidableEq, Repr

/-- Read physical bytes. -/
def kmRead (pa n : Nat) : KM (List Byte) := do
  match physRead (← get).s pa n with
  | some l => pure l
  | none => throw (.access (.mcheck pa) pa)

/-- Read a physical dword. -/
def kmDword (pa : Nat) : KM Dword := do pure (dw (leNat (← kmRead pa 8)))

/-- Write physical bytes. -/
def kmWriteC (o : Origin) (pa codec : Nat) (bytes : List Byte) : KM Unit := do
  let st ← get
  let r := physWrite st.s pa bytes codec
  if !st.eng && r.2.any (fun e => e.kind != 7) then throw (.access (.mcheck pa) pa)
  else
    modify (fun k => { k with s := reportErrs r.1 o r.2,
                              lines := k.lines ++ (span (pa / 64) ((pa + bytes.length - 1) / 64 + 1 - pa / 64)) })

/-- Write physical bytes as hardware. -/
def kmWrite (o : Origin) (pa : Nat) (bytes : List Byte) : KM Unit := kmWriteC o pa hwCodec bytes

/-- Write a physical dword. -/
def kmPut (o : Origin) (pa : Nat) (v : Dword) : KM Unit := kmWrite o pa (leBytes 8 v.toNat)

/-- Translate. -/
def kmXlat (c : KvCtx) (k : AccKind) (va : Nat) : KM Xlat := do
  match translate (← get).s c.x c.asid va c.mode k with
  | .ok (t, s) => modify (fun st => { st with s := s }); if t.beyond then throw (.access .beyond va) else pure t
  | .error e => throw (.access e va)

/-- Read a virtual dword. -/
def kmVDword (c : KvCtx) (va : Nat) : KM Dword := do
  let t ← kmXlat c .load va
  kmDword t.pa

/-- Write a virtual dword. -/
def kmVPut (c : KvCtx) (va : Nat) (v : Dword) : KM Unit := do
  let t ← kmXlat c .store va
  kmWriteC c.o t.pa t.codec (leBytes 8 v.toNat)

/-- Run f for i, i + 1, ..., n times. -/
def kmLoop (f : Nat → KM Unit) : Nat → Nat → KM Unit
  | 0, _ => pure ()
  | n + 1, i => do f i; kmLoop f n (i + 1)

/-- Pop an entry from a free list (R232). The entry is read before TOP is written back, so that one that cannot be read leaves TOP as it was
(DESIGN CHOICE, log 52: the rules do not say which comes first). -/
def kmPop (c : KvCtx) (list : Nat) : KM Nat := do
  let t ← kmXlat c .rmw list
  let top ← kmDword t.pa
  if fld top 31 0 == 0 then throw .noBlock
  else
    let arr ← kmVDword c (list + 8)
    let p ← kmVDword c (arr.toNat + 8 * (fld top 31 0 - 1))
    kmWriteC c.o t.pa t.codec (leBytes 8 (top.toNat - 1))
    pure p.toNat

/-- Push an entry onto a free list (R232). -/
def kmPush (c : KvCtx) (list x : Nat) : KM Unit := do
  let t ← kmXlat c .rmw list
  let top ← kmDword t.pa
  let arr ← kmVDword c (list + 8)
  kmVPut c (arr.toNat + 8 * fld top 31 0) (dw x)
  kmWriteC c.o t.pa t.codec (leBytes 8 ((top + 1).toNat))

/-- Change REFCNT, [31:0] of a dword; gives the new count. -/
def kmRef (o : Origin) (pa : Nat) (up : Bool) : KM Nat := do
  let d ← kmDword pa
  let n := if up then (fld d 31 0 + 1) % 2 ^ 32 else (fld d 31 0 + 2 ^ 32 - 1) % 2 ^ 32
  kmPut o pa (dw (fld d 63 32 * 2 ^ 32 + n))
  pure n

/-- The place of REFCNT in a block. -/
def blkRef (pa : Nat) : Nat := pa + 8

/-- Give a block taken from BFREE its header and empty summary (R233). -/
def kmInitBlock (o : Origin) (r : List Dword) (pa : Nat) : KM Unit := do
  kmWrite o pa (leBytes 8 0 ++ leBytes 8 1 ++ List.replicate 48 (0 : Byte))
  kmWrite o (pa + 64) ((List.replicate (rootD r) (leBytes 4 0xFF800000)).flatten)
  kmWrite o (pa + 64 + 4 * rootD r) ((List.replicate (rootD r) (leBytes 4 0x7F800000)).flatten)

/-- The table page of an entry, copied first if it is shared (R235). SH is set in the entries of the old page and of the new one
(DESIGN CHOICE, log 49: the rule does not say in which). -/
def kmPage (c : KvCtx) (r : List Dword) (e : Nat) : KM Nat := do
  let plist := (dwAt r 1).toNat + 8 * (e / 512)
  let page ← kmVDword c plist
  let refs ← kmDword page.toNat
  if fld refs 31 0 ≤ 1 then pure page.toNat
  else
    let new ← kmPop c (dwAt r 3).toNat
    let l ← kmRead page.toNat 4160
    kmWrite c.o new l
    kmLoop (fun i => do
      let d ← kmDword (new + 64 + 8 * i)
      if entPres d then
        let _ ← kmRef c.o (blkRef (entPa d)) true
        kmPut c.o (new + 64 + 8 * i) (d ||| dw (2 ^ 54))
        kmPut c.o (page.toNat + 64 + 8 * i) (d ||| dw (2 ^ 54))
      else pure ()) 512 0
    kmPut c.o new (dw (fld refs 63 32 * 2 ^ 32 + 1))
    let _ ← kmRef c.o page.toNat false
    kmVPut c plist (dw new)
    pure new

/-- The table page of an entry, as it stands. -/
def kmPageOf (c : KvCtx) (r : List Dword) (e : Nat) : KM Nat := do
  pure (← kmVDword c ((dwAt r 1).toNat + 8 * (e / 512))).toNat

/-- The address of an entry in its page. -/
def entAt (page e : Nat) : Nat := page + 64 + 8 * (e % 512)

/-- The block a KVPUT writes to: a new one where none is present, a copy where it is shared (R235). The entry of a copied block gets TIER 0
(DESIGN CHOICE, log 49: the rule names the new block and SH alone). -/
def kmBlock (c : KvCtx) (r : List Dword) (e : Nat) : KM Nat := do
  let page ← kmPage c r e
  let d ← kmDword (entAt page e)
  if !entPres d then
    let b ← kmPop c (dwAt r 2).toNat
    kmInitBlock c.o r b
    kmPut c.o (entAt page e) (mkEntry b)
    pure (entPa (mkEntry b))
  else
    let old := entPa d
    let rc ← kmDword (blkRef old)
    if fld rc 31 0 ≤ 1 then pure old
    else
      let b ← kmPop c (dwAt r 2).toNat
      let l ← kmRead old (kvBlockSize r)
      kmWrite c.o b l
      kmPut c.o (blkRef b) (dw (fld rc 63 32 * 2 ^ 32 + 1))
      let _ ← kmRef c.o (blkRef old) false
      kmPut c.o (entAt page e) (mkEntry b)
      pure (entPa (mkEntry b))

/-- Widen a row element to FP32, exactly. -/
def toF32 (f : Fmt) (x : Nat) : Nat := (fpConvert f .fp32 0 false x).1

/-- Write the key and value rows of a position and widen the summary (R235). -/
def kmRows (o : Origin) (r : List Dword) (b p : Nat) (krow vrow : List Nat) : KM Unit := do
  let dd := rootD r
  let sz := rootS r
  kmWrite o (b + 64 + 8 * dd + (p % 16) * dd * sz) (krow.flatMap (leBytes sz))
  kmWrite o (b + 64 + 8 * dd + 16 * dd * sz + (p % 16) * dd * sz) (vrow.flatMap (leBytes sz))
  let mx ← kmRead (b + 64) (4 * dd)
  let mn ← kmRead (b + 64 + 4 * dd) (4 * dd)
  let ks := krow.map (toF32 (rootF r))
  kmWrite o (b + 64) ((List.zipWith (fun m k => leBytes 4 (fpMax .fp32 (leNat m) k).1) (pieces 4 mx) ks).flatten)
  kmWrite o (b + 64 + 4 * dd) ((List.zipWith (fun m k => leBytes 4 (fpMin .fp32 (leNat m) k).1) (pieces 4 mn) ks).flatten)

/-- Change VALID and PEND of positions of a block in one write of the header: mask, the bits to set in VALID, the bits to set
in PEND; both are cleared first under the mask. -/
def kmHeader (o : Origin) (b mask valid pend : Nat) : KM Unit := do
  let d ← kmDword b
  let v := fld d 15 0
  let q := fld d 31 16
  let keep (x : Nat) : Nat := x - (x &&& mask)
  kmPut o b (dw (fld d 63 32 * 2 ^ 32 + (keep q ||| pend) * 2 ^ 16 + (keep v ||| valid)))

/-- KVPUT at its commit (R235). -/
def kvPut (c : KvCtx) (r : List Dword) (l g p : Nat) (krow vrow : List Nat) : KM Unit := do
  if !kvInRange r l g p then throw .range
  else
    let b ← kmBlock c r (kvIndex r l g p)
    kmRows c.o r b p krow vrow

/-- The block of a position, if it is present. -/
def kmPresent (c : KvCtx) (r : List Dword) (l g p : Nat) : KM (Option Dword) := do
  let e := kvIndex r l g p
  let page ← kmPageOf c r e
  let d ← kmDword (entAt page e)
  pure (if entPres d then some d else none)

/-- KVPUB at its commit (R236): n positions from p on. -/
def kvPub (c : KvCtx) (r : List Dword) (l g p n : Nat) : KM Unit := do
  if !kvInRange r l g p then throw .range
  else
    match ← kmPresent c r l g p with
    | none => throw .absent
    | some d =>
      let mask := (2 ^ n - 1) * 2 ^ (p % 16)
      kmHeader c.o (entPa d) mask mask 0

/-- KVFORK at its commit (R237): list entry and REFCNT page by page, which shows only after a failed access (DESIGN CHOICE, log 49: the
rule names no order). -/
def kvFork (c : KvCtx) (r : List Dword) (dst list : Nat) : KM Unit := do
  kmLoop (fun i => kmVPut c (dst + 8 * i) (if i == 1 then dw list else dwAt r i)) 8 0
  kmLoop (fun i => do
    let p ← kmVDword c ((dwAt r 1).toNat + 8 * i)
    kmVPut c (list + 8 * i) p
    let _ ← kmRef c.o p.toNat true) (kvPages r) 0

/-- KVFREE at its commit (R237). -/
def kvFree (c : KvCtx) (r : List Dword) : KM Unit :=
  kmLoop (fun i => do
    let p ← kmVDword c ((dwAt r 1).toNat + 8 * i)
    let n ← kmRef c.o p.toNat false
    if n == 0 then
      kmLoop (fun j => do
        let d ← kmDword (p.toNat + 64 + 8 * j)
        if entPres d then
          let m ← kmRef c.o (blkRef (entPa d)) false
          if m == 0 then kmPush c (dwAt r 2).toNat (entPa d) else pure ()
        else pure ()) 512 0
      kmPush c (dwAt r 3).toNat p.toNat
    else pure ()) (kvPages r) 0

/-- The outcome code of D7 (R234). -/
def kvCode : Option KvErr → Nat
  | none => 0
  | some .noBlock => 1
  | some .absent => 2
  | some .range => 3
  | some (.access _ _) => 4

/-- Run an act: the state it leaves, the lines it wrote, and how it stopped. -/
def kmRun (s : State) (m : KM Unit) : State × List Nat × Option KvErr :=
  match m.run { s := s, lines := [] } with
  | .ok _ k => (k.s, k.lines, none)
  | .error e k => (k.s, k.lines, some e)

/-- The machine check for memory that an act found poisoned or unreachable: a record on a die and the event, and the count of a request
that no route took (R315, R348, R370). -/
def kvLost (s : State) (d code : Nat) (o : Origin) (e : Option KvErr) : State :=
  match e with
  | some (.access (.mcheck pa) va) => mcheck (countLost s (idieOf d) pa) d code (dw va) o.el o.ts o.lid
  | _ => s

/-- A KV operation of an outbox at its commit: its act, then its outcome in D7 of its block, and the machine check for
memory that was poisoned or unreachable (R234). Gives the lines written. -/
def applyKv (s : State) (op : KvOp) : State × List Nat :=
  let c : KvCtx := { x := .element op.o.el, asid := op.o.asid, mode := op.o.mode, o := op.o }
  let d1 := dwAt op.block 1
  let l := fld d1 15 0
  let g := fld d1 31 16
  let p := fld d1 63 32
  let act : KM Unit :=
    match op.sub with
    | 0 => kvFork c op.root (dwAt op.block 2).toNat (dwAt op.block 3).toNat
    | 1 => kvPut c op.root l g p (op.krow.map (·.toNat)) (op.vrow.map (·.toNat))
    | 2 => kvPub c op.root l g p (fld (dwAt op.block 2) 4 0)
    | _ => kvFree c op.root
  let r := kmRun s act
  let s1 := modElem r.1 op.o.el (fun x => lsWrite x (op.addr + 56) 8 (kvCode r.2.2))
  (kvLost s1 (dieOf op.o.el) 1 op.o r.2.2, r.2.1)

/-! ## The marks of a BFILL (R239) -/

/-- The record of a BFILL as its queue logic reads it. -/
structure BfRec where
  rcd  : List Dword
  root : List Dword
  deriving DecidableEq, Repr

/-- Read 8 dwords at a virtual address. -/
def kmVBlock (c : KvCtx) (va : Nat) : KM (List Dword) := do
  let t ← kmXlat c .load va
  pure (bytesDwords (← kmRead t.pa 64))

/-- Mark one position of one layer and group pending: the block, taken where none is present; its reference is still to come. -/
def kmPend (c : KvCtx) (r : List Dword) (l g p : Nat) : KM Nat := do
  let e := kvIndex r l g p
  let page ← kmPageOf c r e
  let d ← kmDword (entAt page e)
  let b ← if entPres d then pure (entPa d) else kmBlock c r e
  let bit := 2 ^ (p % 16)
  kmHeader c.o b bit 0 bit
  pure b

/-- Return a marked position to empty and drop its reference. -/
def kmUnmark (o : Origin) (p b : Nat) : KM Unit := do
  let bit := 2 ^ (p % 16)
  kmHeader o b bit 0 0
  let _ ← kmRef o (blkRef b) false

/-- Act on the KV cache for a job, as far as it can; memory that it finds poisoned or unreachable is a machine check (R315, R370). -/
def tryKm {α : Type} (o : Origin) (m : KM α) (k : KvSt) : KvSt :=
  match m.run k with
  | .ok _ t => t
  | .error e t => { t with s := kvLost t.s (dieOf o.el) 8 o (some e) }

/-- Mark the pairs of layer and group that remain; on a failure gives the blocks marked so far and the error. A position whose mark was
set before its reference count could not be written is empty again at once. -/
def markAll (c : KvCtx) (r : List Dword) (p : Nat) : List (Nat × Nat) → KvSt → List Nat → KvSt × List Nat × Option KvErr
  | [], k, acc => (k, acc, none)
  | (l, g) :: rest, k, acc =>
    match (kmPend c r l g p).run k with
    | .error e k1 => (k1, acc, some e)
    | .ok b k1 =>
      match (kmRef c.o (blkRef b) true).run k1 with
      | .ok _ k2 => markAll c r p rest k2 (acc ++ [b])
      | .error e k2 => (tryKm c.o (kmHeader c.o b (2 ^ (p % 16)) 0 0) k2, acc, some e)

/-- The layers and groups a BFILL covers, ascending, as far as the root has them. -/
def bfPairs (r : List Dword) (gexit last p : Nat) : List (Nat × Nat) :=
  if p < 16 * rootNB r then
    (span (gexit + 1) (last - gexit)).flatMap (fun l => if l < rootL r then (span 0 (rootG r)).map (fun g => (l, g)) else [])
  else []

/-- The job code that a failure at the marks gives: 17 NOBLOCK, 5 PGFAULT, 6 PROT, 11 RANGE, 25 POISON. -/
def bfFailCode : KvErr → Nat
  | .noBlock => 17
  | .access .miss _ => 5
  | .access .prot _ => 6
  | .access .beyond _ => 11
  | .access (.mcheck _) _ => 25
  | .absent => 25
  | .range => 25

/-- The marks of a BFILL whose command names a record and layers: the state, the lines written, what the job keeps (POS, the
root, the record, and the blocks it refers to; nothing for an invalid root), and the code it ends with when it fails. The record and the
root are read here once, and never again for the job; a ROOT that is not a multiple of 64 is read as it is (DESIGN CHOICE, log 52). -/
def bfMarks (s : State) (o : Origin) (rcd gexit last : Nat) : State × List Nat × List Nat × Option Nat :=
  let c : KvCtx := { x := .walker (dieOf o.el), asid := o.asid, mode := o.mode, o := o }
  match ((do let j ← kmVBlock c rcd; let r ← kmVBlock c (dwAt j 0).toNat; pure ({ rcd := j, root := r } : BfRec)) : KM BfRec).run
      { s := s, lines := [] } with
  | .error e k => (kvLost k.s (dieOf o.el) 8 o (some e), k.lines, [], some (bfFailCode e))
  | .ok b k =>
    if !kvRootOk b.root then (k.s, k.lines, [], none)
    else
      let p := fld (dwAt b.rcd 1) 31 0
      let m := markAll c b.root p (bfPairs b.root gexit last p) k []
      match m.2.2 with
      | none => (m.1.s, m.1.lines, [p] ++ b.root.map (·.toNat) ++ b.rcd.map (·.toNat) ++ m.2.1, none)
      | some e =>
        let u := m.2.1.foldl (fun st x => tryKm o (kmUnmark o p x) st) m.1
        (kvLost u.s (dieOf o.el) 8 o (some e), u.lines, [], some (bfFailCode e))

end Sys2Proof.Machine
end

