-- ==== Sys2Proof/Machine/Jobs.lean ====
section
/-! DEFINITION. Engine queues (R157 to R161, R192, R369): status words, the end of a job (R288), faults, resuming and
cancelling. -/

namespace Sys2Proof.Machine

/-! ## Queues (R157) -/

/-- The queue of engine k that serves an element. -/
def queueOf (e k : Nat) : QueueId :=
  { eng := k, idx := if k ≤ 1 then clOf e else if k == 2 then dieOf e else idieOf (dieOf e) }

/-- Whether the engine is a copy unit, which adds bytes in byte mode and then no SIGINC (R152). -/
def isCopy (q : QueueId) : Bool := q.eng == 1

/-- A job of a queue. -/
def jobOf (s : State) (q : QueueId) (jid : BitVec 32) : Option Job := (queue s q).jobs.find? (fun j => j.jid == jid)

/-- Replace a job. -/
def setJob (s : State) (q : QueueId) (j : Job) : State :=
  modQueue s q (fun x => { x with jobs := x.jobs.map (fun k => if k.jid == j.jid then j else k) })

/-- The status word of R158; AUX saturates (R192). -/
def statusWord (aux : Nat) (flags : BitVec 8) (code state : Nat) : Dword :=
  dw (Nat.min aux (2 ^ 32 - 1) * 2 ^ 32 + flags.toNat * 2 ^ 16 + code % 256 * 2 ^ 8 + state % 16)

/-- The status word of a job in its queue; a queued command whose WAITEN condition does not hold reads STATE 3. -/
def jobStatus (s : State) (j : Job) : Dword :=
  statusWord j.aux j.flags j.code (if j.state == 2 && !jobWaitOk s j then 3 else j.state)

/-- The status word of an identifier (R158): 0 when it is unknown. -/
def statusOf (s : State) (q : QueueId) (jid : BitVec 32) : Dword :=
  match jobOf s q jid with
  | some j => jobStatus s j
  | none =>
    if (queue s q).held.contains jid then statusWord 0 0 0 1
    else
      match (queue s q).ended.find? (fun p => p.1 == jid) with
      | some p => p.2
      | none => 0

/-! ## BFILL references (R239, R240)

data holds the position, 8 dwords of the root and 8 of the job record as the marks read them, and the marked blocks. -/

/-- The layers a BFILL covers. -/
def bfLayers (cmd : BitVec 256) : Nat := nbits cmd.toNat 111 96 - nbits cmd.toNat 95 80

/-- POS. -/
def bfPos (j : Job) : Nat := j.data.headD 0
/-- The root as the marks read it. -/
def bfRoot (j : Job) : List Dword := ((j.data.drop 1).take 8).map dw
/-- The job record as the marks read it. -/
def bfRcd (j : Job) : List Dword := ((j.data.drop 9).take 8).map dw
/-- The blocks a BFILL refers to, with their layers and groups. -/
def bfBlocks (j : Job) : List ((Nat × Nat) × Nat) :=
  (bfPairs (bfRoot j) (nbits j.cmd.toNat 95 80) (nbits j.cmd.toNat 111 96) (bfPos j)).zip (j.data.drop 17)
/-- Those of the layers it has not published. -/
def bfRest (j : Job) : List ((Nat × Nat) × Nat) := (bfBlocks j).drop (rootG (bfRoot j) * j.prog)

/-- CL of a BFILL of a die's queue, as a cluster of the package (R238). -/
def bfHome (q : QueueId) (j : Job) : Nat := 64 * q.idx + fld (dwAt (bfRcd j) 4) 31 16

/-! ## The tile contexts of a matrix engine (R335) and the work of a BFILL in its queue (R337) -/

/-- Drop the latched tile of an owner. -/
def unlatch (x : Cluster) (owner : Nat) : Cluster := { x with tiles := x.tiles.filter (fun u => u.owner != owner) }

/-- The work of a BFILL in a matrix queue: an entry apart from the 64 of R157, under the BFILL's command word and identifier. -/
def isBfWork (q : QueueId) (j : Job) : Bool := q.eng == 0 && cmdOpc j.cmd == 0x40

/-- Launches that have matrix commands to be done in a cluster take its tile contexts in queue order, as far as 16 reach (R335); a
command that has itself given up its context is left out. -/
def takeContextsBut (p : Job → Bool) (s : State) (c : Nat) : State :=
  let q : QueueId := { eng := 0, idx := c }
  modClus s c (fun x => { x with ctxs := ((queue s q).jobs.filter (fun j => !isBfWork q j && j.fin.isNone && !p j)).foldl (fun l j =>
    if j.o.lid == 0 || l.contains j.o.lid || decide (16 ≤ l.length) then l else l ++ [j.o.lid]) x.ctxs })

/-- Launches that have matrix commands to be done in a cluster take its tile contexts. -/
def takeContexts (s : State) (c : Nat) : State := takeContextsBut (fun _ => false) s c

/-- Change every run of an element. -/
def mapRuns (f : Run → Run) (x : Elem) : Elem :=
  { x with run := x.run.map f, under := x.under.map (fun u => { u with run := f u.run }), fin := x.fin.map f }

/-- Slots of a cluster become free: no OSFREE waits for one any more, and no run that has claimed one releases it later (R160). -/
def dropSlots (s : State) (c : Nat) (l : List Nat) : State :=
  if l.isEmpty then s
  else
    let s1 := modClus s c (fun x => { x with slotOwn := l.foldl tdel x.slotOwn, slotFree := x.slotFree.filter (fun p => !l.contains p.1) })
    { s1 with elems := s1.elems.map (fun p =>
        if clOf p.1 == c then (p.1, mapRuns (fun r => { r with claims := r.claims.filter (fun i => !l.contains i) }) p.2) else p) }

/-- Free the slots whose OSFREE waits for no more commands of the matrix queue (R160). -/
def settleSlots (s : State) (c : Nat) : State :=
  let js := (queue s { eng := 0, idx := c }).jobs.map (·.jid)
  let l := (clus s c).slotFree.map (fun p => (p.1, p.2.filter (fun i => js.contains i)))
  dropSlots (modClus s c (fun x => { x with slotFree := l })) c ((l.filter (fun p => p.2.isEmpty)).map (·.1))

/-- What a job that ends leaves in a matrix engine: the tile that its stream kept, or a BFILL's entry with its tile. -/
def dropWork (s : State) (q : QueueId) (j : Job) : State :=
  if q.eng == 0 then settleSlots (modClus s q.idx (fun x => unlatch x (2 ^ 33 + j.jid.toNat))) q.idx
  else if cmdOpc j.cmd == 0x40 && j.phase != 0 then
    settleSlots (modClus (modQueue s { eng := 0, idx := bfHome q j } (fun x => { x with jobs := x.jobs.filter (fun k => k.jid != j.jid) }))
      (bfHome q j) (fun x => unlatch x (2 ^ 32 + j.jid.toNat))) (bfHome q j)
  else s

/-! ## The end of a job (R157, R159, R288) -/

/-- A two-dword completion message, with XFERID set. -/
def jobMsg (s : State) (q : QueueId) (o : Origin) (ch : Nat) (jid : Dword) (st : Dword) : State :=
  sendMsg s (uQueue q) (elAddr s o.el) ch [jid, st] 0 o.ts o.lid (jid.setWidth 32) none

/-- Signal SIGC: by SIGINC, but not a byte counter by a copy unit (R152). DESIGN CHOICE (log 49): that holds of a cancelled job too, of which
R161 says that it signals SIGC by SIGINC. -/
def jobSignal (s : State) (q : QueueId) (j : Job) : State :=
  let c := clOf j.o.el
  if cmdSigen j.cmd && !(isCopy q && (counter s c (cmdSigc j.cmd)).byte) then
    counterAdd s c (cmdSigc j.cmd) (dw (cmdSiginc j.cmd))
  else s

/-- End a job with a state (6 ended, 7 cancelled): its status is kept, its signal is added unless it is a PERL BFILL's, then its
messages go (R288). -/
def endJob (s : State) (q : QueueId) (j : Job) (state : Nat) (sig : Bool) : State :=
  let st := statusWord j.aux j.flags j.code state
  let arms := (queue s q).arms.filter (fun a => a.jid == j.jid)
  let s1 := modQueue s q (fun x =>
    { x with jobs := x.jobs.filter (fun k => k.jid != j.jid), ended := (x.ended ++ [(j.jid, st)]).drop (x.ended.length + 1 - 1024),
             arms := x.arms.filter (fun a => a.jid != j.jid), active := if x.active == some j.jid then none else x.active })
  let s2 := dropWork s1 q j
  let s3 := if sig then jobSignal s2 q j else s2
  let s4 := if cmdDone j.cmd then jobMsg s3 q j.o (cmdDchan j.cmd) (j.jid.setWidth 64) st else s3
  arms.foldl (fun t a => jobMsg t q a.o a.chan (j.jid.setWidth 64) st) s4

/-- The die of an engine queue. -/
def queueDie (q : QueueId) : Nat := if q.eng ≤ 1 then q.idx / 64 else if q.eng == 2 then q.idx else 4 + q.idx

/-- Suspend a job with a fault code and its detail, under the address space it translated under, and tell channel 4 of the pushing element
(R192, R369); code 25 POISON also raises the machine check of R370. -/
def faultJob (s : State) (q : QueueId) (j : Job) (code detail asid : Nat) : State :=
  let j1 := { j with state := 5, code := code }
  let s1 := modQueue (setJob s q j1) q (fun x => if x.active == some j.jid then { x with active := none, edge := none } else x)
  let s2 := sendMsg s1 (uQueue q) (elAddr s j.o.el) 4
    [j.jid.setWidth 64, statusWord j1.aux j1.flags code 5, dw detail, dw (elAddr s j.o.el + asid % 65536 * 2 ^ 32)]
    0 j.o.ts j.o.lid 0 none
  if code == 25 then mcheck s2 (queueDie q) 8 (dw detail) j.o.el j.o.ts j.o.lid
  else s2

/-- The code a failed translation gives a job: 5 PGFAULT, 6 PROT, 25 POISON (R192, R302). -/
def xCode : XErr → Nat
  | .miss => 5 | .prot => 6 | .mcheck _ => 25 | .beyond => 11

/-! ## Entering a queue (R157, R287) -/

/-- A job as it enters its queue. -/
def newJob (jid : BitVec 32) (cmd : BitVec 256) (now : Dword) (o : Origin) : Job :=
  { jid := jid, cmd := cmd, o := o, state := 2, code := 0, flags := 0, aux := 0, issued := false, fin := none, prog := 0,
    data := [], age := 0, effp := 0, now := now, cancel := false, phase := 0, buf := [] }

/-! ## The end of a BFILL (R240) -/

/-- Who acts on the cache for a job. -/
def jobKv (x : Xver) (o : Origin) : KvCtx := { x := x, asid := o.asid, mode := o.mode, o := o }

/-- A position returns to empty in the block its entry names now, if that is another than the marked one. -/
def kmEmptyNow (c : KvCtx) (r : List Dword) (l g p b : Nat) : KM Unit := do
  match ← kmPresent c r l g p with
  | some d => if entPa d == b then pure () else kmHeader c.o (entPa d) (2 ^ (p % 16)) 0 0
  | none => pure ()

/-- A BFILL's unpublished positions become empty, and all its references are dropped (R240). -/
def bfCleanup (s : State) (j : Job) : State :=
  let c := jobKv (.walker (dieOf j.o.el)) j.o
  let rest := bfRest j
  let done := (bfBlocks j).take ((bfBlocks j).length - rest.length)
  let k1 := rest.foldl (fun st x =>
    tryKm j.o (kmUnmark j.o (bfPos j) x.2) (tryKm j.o (kmEmptyNow c (bfRoot j) x.1.1 x.1.2 (bfPos j) x.2) st)) { s := s, lines := [] }
  (done.foldl (fun st x => tryKm j.o (kmRef j.o (blkRef x.2) false) st) k1).s

/-- What the node keeps of a bulk job that ends (R260): the chunks delivered and the leaves missing from them. -/
def bulkNote (s : State) (j : Job) : State :=
  { s with bulk := (fld (cmdD j.cmd 1) 23 16, fld (cmdD j.cmd 2) 31 0, j.prog, dw (j.data.headD 0)) :: s.bulk }

/-- A page that a CPYPG was moving when it is cancelled stays where it was, and the frame it had taken returns to its pool (R216; DESIGN
CHOICE, log 49). buf holds the bitmap's address and the frame's number in it. -/
def cpypgDrop (s : State) (q : QueueId) (j : Job) : State :=
  let i := j.buf.getD 1 0
  let va := (j.buf.getD 0 0 + 8 * (i / 64)) % 2 ^ 64
  let lost (t : State) (pa : Nat) : State := mcheck (countLost t (idieOf (q.idx / 64)) pa) (q.idx / 64) 8 (dw va) j.o.el j.o.ts j.o.lid
  match translate s (.cluster q.idx) (j.data.getD 2 0 % 65536) va 1 .rmw with
  | .error (.mcheck pa) => lost s pa
  | .error _ => s
  | .ok (t, s1) =>
    if t.beyond then s1
    else
      match physDword s1 t.pa with
      | some d => putDwordFor s1 j.o t.pa (d &&& ~~~(dw (2 ^ (i % 64))))
      | none => lost s1 t.pa

/-- Cancel a job: it ends with CODE 7 (R161); a BFILL is settled as R240 states. -/
def cancelJob (s : State) (q : QueueId) (j : Job) : State :=
  let s1 :=
    if cmdOpc j.cmd == 0x40 then bfCleanup s j
    else if cmdOpc j.cmd == 0x24 && j.phase != 0 then cpypgDrop s q j
    else if q.eng == 4 && j.issued then bulkNote s j else s
  endJob s1 q { j with code := 7 } 7 true

/-- A command enters its queue (R287): one that JOBCANCEL named while it was reserved ends at once; a BFILL carries what its
marks gave, or ends with their failure (R239). -/
def enqueue (s : State) (q : QueueId) (jid : BitVec 32) (cmd : BitVec 256) (now : Dword) (o : Origin) (blocks : List Nat)
    (fail : Option Nat) : State :=
  let x := queue s q
  let j := { newJob jid cmd now o with data := blocks }
  let s0 := modQueue s q (fun y => { y with jobs := y.jobs ++ [j], held := y.held.filter (· != jid), gone := y.gone.filter (· != jid) })
  let s1 := if q.eng == 0 then takeContexts s0 q.idx else s0
  if x.gone.contains jid then cancelJob s1 q j
  else
    match fail with
    | some c => endJob s1 q { j with code := c } 6 true
    | none => s1

/-- A step of a running job is under way: its block or burst has a boundary to come, or a BFILL is inside a layer (R161, R240). -/
def jobBusy (s : State) (q : QueueId) (j : Job) : Bool :=
  j.state == 4 && ((decide (q.eng ≤ 1) && (queue s q).edge.isSome && (queue s q).active == some j.jid) || (q.eng == 2 && j.phase != 0))

/-- JOBCANCEL at its commit (R161): a job inside a step ends at the boundary of the step, any other at once. -/
def applyCancel (s : State) (q : QueueId) (jid : BitVec 32) : State :=
  match jobOf s q jid with
  | some j => if jobBusy s q j then setJob s q { j with cancel := true } else cancelJob s q j
  | none =>
    if (queue s q).held.contains jid then modQueue s q (fun x => { x with gone := x.gone ++ [jid] }) else s

/-- JOBRESUME at its commit (R161): a suspended job goes on where it stopped. -/
def applyResume (s : State) (q : QueueId) (jid : BitVec 32) : State :=
  match jobOf s q jid with
  | some j => if j.state == 5 then setJob s q { j with state := 4, code := 0, age := 0 } else s
  | none => s

/-- The status word of an identifier of 64 bits; one that does not fit in 32 names no job. -/
def statusOfW (s : State) (q : QueueId) (w : Dword) : Dword :=
  if fld w 63 32 == 0 then statusOf s q (w.setWidth 32) else 0

/-- JOBARM at its commit (R159): the message goes at once when the job has ended or is unknown. -/
def applyJobArm (s : State) (q : QueueId) (w : Dword) (ch : Nat) (o : Origin) : State :=
  let st := statusOfW s q w
  if st.toNat % 16 == 0 || st.toNat % 16 == 6 || st.toNat % 16 == 7 then jobMsg s q o ch w st
  else modQueue s q (fun x => { x with arms := x.arms ++ [{ jid := w.setWidth 32, chan := ch, o := o }] })

/-! ## Operand slots (R160) -/

/-- OSFREE at its commit: slots that the launch owns are freed once the matrix queue has retired what it holds now; a range
with another slot in it raises SLOTFREE. -/
def applyOsfree (s : State) (o : Origin) (first count : Nat) : State :=
  let c := clOf o.el
  let n := Nat.min count 257
  let rng := (span first n).filter (fun i => decide (i < 256))
  let mine := rng.filter (fun i => tfind (clus s c).slotOwn i == some o.lid && o.lid != 0)
  let wait := (queue s { eng := 0, idx := c }).jobs.map (·.jid)
  let s1 := if wait.isEmpty then dropSlots s c mine
    else modClus s c (fun x => { x with slotFree := x.slotFree ++ mine.map (fun i => (i, wait)) })
  if mine.length < n then errOf s1 o 4 (dw first) (dw count) 0 else s1

end Sys2Proof.Machine
end

