-- ==== Sys2Proof/Machine/Launch.lean ====
section
/-! DEFINITION. Launch records, their checks, identifiers, scopes and placement (R318 to R325), and admission. -/

namespace Sys2Proof.Machine

/-! ## The record (R318) -/

/-- ENTRY. -/
def recEntry (r : List Dword) : Nat := fld (dwAt r 0) 5 0
/-- PRIO. -/
def recPrio (r : List Dword) : Nat := fld (dwAt r 0) 10 8
/-- NLVL. -/
def recNlvl (r : List Dword) : Nat := fld (dwAt r 0) 19 16
/-- CTRB. -/
def recCtrb (r : List Dword) : Nat := fld (dwAt r 0) 31 24
/-- ASID. -/
def recAsidOf (r : List Dword) : Nat := fld (dwAt r 0) 47 32
/-- LANES; 0 means 8. -/
def recLanes (r : List Dword) : Nat := fld (dwAt r 3) 47 44
/-- SLOTS; 0 means no quota. -/
def recSlots (r : List Dword) : Nat := fld (dwAt r 3) 40 32
/-- SPQ. -/
def recSpq (r : List Dword) : Nat := fld (dwAt r 3) 31 0
/-- SLID. -/
def recSlid (r : List Dword) : Nat := fld (dwAt r 4) 31 0
/-- The dword of level i. -/
def recLvl (r : List Dword) (i : Nat) : Dword := dwAt r (8 + i)
/-- DIST: cyclic. -/
def lvlCyclic (l : Dword) : Bool := dbit l 37
/-- SCOPE. -/
def lvlScope (l : Dword) : Nat := fld l 36 35
/-- BIND: 0 package, 1 die, 2 cluster, 3 element, 4 task. -/
def lvlBind (l : Dword) : Nat := fld l 34 32
/-- EXTENT. -/
def lvlExtent (l : Dword) : Nat := fld l 31 0
/-- The levels in use. -/
def recLevels (r : List Dword) : List Dword := (span 0 (Nat.min 8 (recNlvl r))).map (recLvl r)

/-! ## Placement (R321 to R323) -/

/-- A resource: its kind (0 package, 1 die, 2 cluster, 3 element) and number. -/
abbrev Res := Nat × Nat

/-- The elements a resource contains, by number. -/
def resRange (r : Res) : Nat × Nat :=
  match r.1 with
  | 0 => (0, 2048)
  | 1 => (512 * r.2, 512)
  | 2 => (8 * r.2, 8)
  | _ => (r.2, 1)

/-- The usable resources of a kind within a resource, in canonical order (R321). -/
def resWithin (s : State) (r : Res) (kind : Nat) : List Res :=
  let a := (resRange r).1
  let n := (resRange r).2
  match kind with
  | 0 => [r]
  | 1 => ((span (a / 512) ((n + 511) / 512)).filter (dieUsable s)).map (fun d => (1, d))
  | 2 => ((span (a / 8) ((n + 7) / 8)).filter (clUsable s)).map (fun c => (2, c))
  | _ => ((span a n).filter (elUsable s)).map (fun e => (3, e))

/-- A unit: its resource and its coordinates. -/
abbrev LUnit := Res × List Nat

/-- The units that one level makes of a unit (R322). -/
def splitUnit (s : State) (l : Dword) (u : LUnit) : List LUnit :=
  let rs := resWithin s u.1 (lvlBind l)
  let n := rs.length
  let ext := lvlExtent l
  (span 0 ext).map (fun c =>
    let i := if lvlCyclic l then c % Nat.max 1 n else c * n / Nat.max 1 ext
    (rs.getD i u.1, u.2 ++ [c]))

/-- The unit list of a record (R322): task levels recurse in software. -/
def unitsOf (s : State) (r : List Dword) : List LUnit :=
  (recLevels r).foldl (fun us l => if lvlBind l == 4 then us else us.flatMap (splitUnit s l)) [((0, 0), [])]

/-- The start elements of units, given the units before them (R323). -/
def startsFrom (s : State) : List LUnit → List Res → List Nat
  | [], _ => []
  | u :: us, before =>
    let es := (resWithin s u.1 3).map (·.2)
    let j := countIf (· == u.1) before % Nat.max 1 es.length
    es.getD j 0 :: startsFrom s us (before ++ [u.1])

/-- The start element of every unit, in order. -/
def startElems (s : State) (r : List Dword) : List Nat := startsFrom s (unitsOf s r) []

/-- The clusters a launch occupies. -/
def occupied (s : State) (r : List Dword) : List Nat := distinct ((startElems s r).map clOf)

/-! ## The checks (R319) -/

/-- The rsv bits of a record are 0, and every level at or above NLVL is 0. -/
def recRsvOk (r : List Dword) : Bool :=
  fld (dwAt r 0) 63 48 == 0 && fld (dwAt r 0) 23 20 == 0 && fld (dwAt r 0) 15 11 == 0 && fld (dwAt r 0) 7 6 == 0
    && fld (dwAt r 3) 63 48 == 0 && fld (dwAt r 3) 43 41 == 0 && fld (dwAt r 4) 63 32 == 0
    && (span 5 3).all (fun i => dwAt r i == 0) && (span 16 16).all (fun i => dwAt r i == 0)
    && (span 0 8).all (fun i => if i < recNlvl r then fld (recLvl r i) 63 38 == 0 else recLvl r i == 0)

/-- Hardware levels come before task levels, with rising BIND. -/
def bindsOk : List Nat → Bool
  | [] => true
  | [_] => true
  | a :: b :: l => (if b == 4 then true else if a == 4 then false else decide (a < b)) && bindsOk (b :: l)

/-- The product of the hardware levels' extents. -/
def unitCount (r : List Dword) : Nat :=
  ((recLevels r).map (fun l => if lvlBind l == 4 then 1 else lvlExtent l)).foldl (· * ·) 1

/-- An SLTAB entry of a system launch is valid (R353). -/
def sltabHas (s : State) (slid : Nat) : Bool :=
  (span 0 64).any (fun e => dbit (tget s.regs.sltab (2 * e) 0) 63 && fld (tget s.regs.sltab (2 * e) 0) 31 0 == slid)

/-- The checks of R319 that depend on the record alone. -/
def recShapeOk (r : List Dword) : Bool :=
  let ls := recLevels r
  recRsvOk r && decide (8 ≤ recEntry r ∧ 1 ≤ recNlvl r ∧ recNlvl r ≤ 8)
    && ls.all (fun l => lvlExtent l != 0 && decide (lvlBind l ≤ 4) && (lvlBind l != 0 || lvlExtent l == 1))
    && bindsOk (ls.map lvlBind) && decide (unitCount r ≤ 65536)
    && recSpq r % 65536 == 0 && decide (recSlots r ≤ 256) && decide (recLanes r ≤ 8)
    && !(ls.any (fun l => lvlScope l == 3) && recSlid r == 0)
    && (recSlid r == 0 || decide (2 ^ 31 ≤ recSlid r))

/-- Identifiers that runs have reserved and not yet committed (R149). -/
def reservedLids (s : State) : List Nat :=
  s.elems.flatMap (fun e =>
    (match e.2.run with | some r => r.lids.map (·.toNat) | none => [])
      ++ (match e.2.under with | some u => u.run.lids.map (·.toNat) | none => [])
      ++ e.2.fin.flatMap (fun r => r.lids.map (·.toNat)))

/-- The checks of R319, with those of user mode for a launcher of a priority (R149); the placement is computed only for a
record that passes the others. -/
def recordOk (s : State) (r : List Dword) (user : Bool) (prio : Nat) : Bool :=
  recShapeOk r
    && (recSlid r == 0 || (!(launchOf s (BitVec.ofNat 32 (recSlid r))).isSome && !(reservedLids s).contains (recSlid r) && sltabHas s (recSlid r)))
    && !(user && (recAsidOf r != 0 || recSlid r != 0 || recCtrb r != 0 || decide (prio < recPrio r)))
    && (occupied s r).all (fun c => decide (recSpq r ≤ (clus s c).spb * 131072))

/-! ## Identifiers and scope (R320) -/

/-- The next identifier after the last one given, wrapping from 0x7FFF_FFFF to 1 and skipping those in use (with fuel). -/
def nextLid (used : List Nat) : Nat → Nat → Nat
  | 0, n => n
  | k + 1, n =>
    let m := if n < 0x7FFFFFFF then n + 1 else 1
    if used.contains m then nextLid used k m else m

/-- LAUNCHID.SCOPE of a record (R320). -/
def recScope (s : State) (r : List Dword) : Nat :=
  if recSlid r != 0 then 3
  else if (occupied s r).length ≤ 1 && !(recLevels r).any (fun l => lvlScope l == 2) then 1 else 2

/-- A launch becomes active: its packets go to the launch unit of every die (R149, R324). -/
def activate (s : State) (lid : BitVec 32) (r : List Dword) (asid : Nat) (src : Nat) (q : Option Nat) : State :=
  let l : Launch := { rcd := r, asid := asid, scope := recScope s r, home := (occupied s r).headD 0, todo := [0, 1, 2, 3],
                      parts := [], queue := q, held := 0 }
  let s1 := { s with launches := tput s.launches lid.toNat l }
  (span 0 4).foldl (fun t d => post t src (uLaunch d) (.launch d lid)) s1

/-! ## Admission (R324) -/

/-- The partitions that active launches hold in a cluster: offset and size. -/
def partsIn (s : State) (c : Nat) : List (Nat × Nat) :=
  s.launches.filterMap (fun l => match tfind l.2.parts c with | some o => some (o, recSpq l.2.rcd) | none => none)

/-- A range of a cluster's scratchpad overlaps no partition. -/
def rangeFree (ps : List (Nat × Nat)) (off n : Nat) : Bool := ps.all (fun p => decide (p.1 + p.2 ≤ off ∨ off + n ≤ p.1))

/-- The lowest free range of n bytes, 65,536-aligned (R324). -/
def findPart (s : State) (c n : Nat) : Option Nat :=
  if n == 0 then some 0
  else
    ((span 0 64).map (· * 65536)).find? (fun o => decide (o + n ≤ (clus s c).spb * 131072) && rangeFree (partsIn s c) o n)

/-- The clusters of a die that a launch occupies. -/
def occupiedOn (s : State) (r : List Dword) (d : Nat) : List Nat := (occupied s r).filter (fun c => c / 64 == d)

/-- The launch has been admitted on the die of a cluster. -/
def admittedOn (l : Launch) (d : Nat) : Bool := !l.todo.contains d

/-- The counter blocks of a cluster that active, admitted launches own. -/
def ownedBlocks (s : State) (c : Nat) : Nat :=
  s.launches.foldl (fun m l =>
    if admittedOn l.2 (c / 64) && (occupied s l.2.rcd).contains c then m ||| recCtrb l.2.rcd else m) 0

/-- A die can admit a launch: every occupied cluster has the range and the counter blocks (R324). -/
def canAdmit (s : State) (r : List Dword) (d : Nat) : Bool :=
  (occupiedOn s r d).all (fun c => (findPart s c (recSpq r)).isSome && (ownedBlocks s c &&& recCtrb r) == 0)

/-- Reset the counters of the blocks a launch owns (R324). -/
def resetBlocks (x : Cluster) (ctrb : Nat) : Cluster :=
  { x with sc := x.sc.filter (fun p => !ctrb.testBit (p.1 / 32)) }

/-- The payload of the start message of unit k (R323). -/
def startPayload (r : List Dword) (part k n : Nat) (coords : List Nat) : List Dword :=
  let rec levels : List Dword → List Nat → List Dword
    | [], _ => []
    | l :: ls, cs =>
      if lvlBind l == 4 then dw (lvlExtent l) :: levels ls cs
      else dw (cs.headD 0) :: levels ls (cs.drop 1)
  [dwAt r 2, dw (k + n * 2 ^ 32), dw part] ++ levels (recLevels r) coords

/-- Send the start messages of a die's units, in ascending k. -/
def sendStarts (s : State) (lid : BitVec 32) (r : List Dword) (d : Nat) (parts : Tbl Nat) : State :=
  let us := unitsOf s r
  let es := startElems s r
  let n := us.length
  ((span 0 n).zip (us.zip es)).foldl (fun t x =>
    let e := x.2.2
    if dieOf e == d then
      sendMsg t (uLaunch d) (elAddr t e) (recEntry r)
        (startPayload r (if recSpq r == 0 then 0 else tget parts (clOf e) 0) x.1 n x.2.1.2) 0 (dwAt r 1) lid 0 none
    else t) s

/-- A die admits a launch (R324). -/
def admitOn (s : State) (d : Nat) (lid : BitVec 32) : State :=
  match launchOf s lid with
  | none => s
  | some l =>
    let cs := occupiedOn s l.rcd d
    let parts := cs.foldl (fun p c => if recSpq l.rcd == 0 then p else tput p c ((findPart s c (recSpq l.rcd)).getD 0)) l.parts
    let s1 := { s with launches := tput s.launches lid.toNat { l with parts := parts, todo := l.todo.filter (· != d) } }
    let s2 := cs.foldl (fun t c => lapse (modClus t c (fun x => resetBlocks x (recCtrb l.rcd))) c) s1
    sendStarts s2 lid l.rcd d parts

/-- The order of a die's launch list: by PRIO, then by arrival (R324). -/
def waitingHead (s : State) (d : Nat) : Option (BitVec 32) :=
  let prio (lid : BitVec 32) : Nat := match launchOf s lid with | some l => recPrio l.rcd | none => 0
  (sortBy (fun a b => decide (prio b < prio a)) (die s d).waiting).head?

/-- A die considers the head of its list (R324). -/
def considerAdmission (s : State) (d : Nat) : State :=
  match waitingHead s d with
  | none => s
  | some lid =>
    match launchOf s lid with
    | none => modDie s d (fun x => { x with waiting := x.waiting.filter (· != lid) })
    | some l =>
      if canAdmit s l.rcd d then admitOn (modDie s d (fun x => { x with waiting := x.waiting.filter (· != lid) })) d lid else s

end Sys2Proof.Machine
end

