-- ==== Sys2Proof/Machine/Run.lean ====
section
/-! DEFINITION. Runs: their abort (R146, R281), the release of an outbox, COMMIT (R279, R280), partial COMMIT (R282) and FINISH
(R145). -/

namespace Sys2Proof.Machine

/-! ## Abort (R281) -/

/-- Why a run aborts: it reruns at once; in serial mode; after the next edge; when a word arrives (true) or a credit returns
(false) at a port; or, for a lost buffer or a pre-emption, at once and in the mode it had. -/
inductive AbortWhy where
  | again | serial | defer | port (dir : Nat) (word : Bool) | keep
  deriving DecidableEq, Repr

/-- The event as it waits for its rerun, TRUN one higher and saturating (R16, R22). A serial run that a port aborts reruns in serial mode:
R11 and R162 do not say (DESIGN CHOICE, log 54). -/
def rerunEv (r : Run) (why : AbortWhy) : Ev :=
  { r.ev with
    trun := if r.ev.trun == BitVec.allOnes 32 then r.ev.trun else r.ev.trun + 1
    serial := match why with | .serial => true | .again => false | .defer => false | .port _ _ => r.serial | .keep => r.serial
    admitted := false
    deferred := why == .defer
    port := match why with | .port d w => some (d, w) | .again => none | .serial => none | .defer => none | .keep => none }

/-- Undo logged local-store writes (R8). -/
def undoLs (m : Mem) (u : Tbl Dword) : Mem := u.foldl (fun t p => memPutNat t (8 * p.1) 8 p.2.toNat) m

/-- The value that a run's log keeps of a local-store dword which it writes for the first time: the one at its task start, which an urgent
task may have changed since (R8). -/
def startDword (x : Elem) (r : Run) (d : Nat) : Dword := (tfind r.pre d).getD (memDword x.ls (8 * d))

/-- An urgent task ends over a run that it interrupted: the run knows the values at its start of what the task has written (R8). -/
def noteUrgent (u : Run) (r : Run) : Run :=
  { r with pre := u.undo.foldl (fun t p => if (tfind t p.1).isSome then t else tput t p.1 p.2) r.pre }

/-- Put taken port words back at the head of their FIFOs, in their order (R11). -/
def untake (f : Tbl (List PortWord)) (taken : List (Nat × PortWord)) : Tbl (List PortWord) :=
  taken.foldr (fun t g => tput g t.1 (t.2 :: tget g t.1 [])) f

/-- Release the credits of discarded port writes (R11). -/
def uncredit (c : Tbl Nat) (ob : List OutEntry) : Tbl Nat :=
  ob.foldl (fun t o => match o with | .port d _ => tput t d (tget t d 16 + 1) | _ => t) c

/-- Free the lane groups an element holds (R28, R167). -/
def freeLanes (s : State) (e : Nat) : State :=
  modClus s (clOf e) (fun x => { x with lanes := x.lanes.map (fun l => if l == .held e then .free else l) })

/-- Free the lane groups reserved for an element (R165). -/
def freeReserved (s : State) (e : Nat) : State :=
  modClus s (clOf e) (fun x => { x with lanes := x.lanes.map (fun l => if l == .reserved e then .free else l) })

/-- Release the reservations a run made: operand slots and queue entries (R157, R160). -/
def unreserve (s : State) (e : Nat) (r : Run) : State :=
  let s1 := modClus s (clOf e) (fun x =>
    { x with slotOwn := r.claims.foldl tdel x.slotOwn, slotFree := x.slotFree.filter (fun p => !r.claims.contains p.1) })
  r.jobs.foldl (fun t j => modQueue t j.1 (fun q => { q with held := q.held.filter (· != j.2), gone := q.gone.filter (· != j.2) })) s1

/-- The element-class registers of c, with the task-class registers of t (R32, R34). -/
def withTaskClass (t c : Csrs) : Csrs :=
  { c with status := setIe t.status (stIe c.status), wp := t.wp, tsnow := t.tsnow, trun := t.trun, launchid := t.launchid,
           xferid := t.xferid, fpflags := t.fpflags, fprm := t.fprm, vgrant := t.vgrant }

/-- What every abort does to the element: local store, FIFOs, credits and element-class registers as at task start, the event
back at the head of its channel. A dword whose poison the run cleared by writing it whole gets its old bytes and stays unpoisoned
(DESIGN CHOICE, log 49: R8 and R315 do not say). -/
def abortElem (x : Elem) (r : Run) (why : AbortWhy) : Elem :=
  { x with ls := undoLs x.ls r.undo, fifo := untake x.fifo r.taken, credit := uncredit x.credit r.ob,
           csr := withTaskClass x.csr r.start, inq := rerunEv r why :: x.inq }

/-- The interrupted run goes on, with its task-class state (R18, R129). -/
def resumeUnder (x : Elem) : Elem :=
  match x.under with
  | none => { x with run := none, bf := [], afterEret := false }
  | some u => { x with run := some u.run, csr := withTaskClass u.csr x.csr, seq := u.seq, bf := u.bf, afterEret := u.afterEret,
                       stall := u.stall, under := none }

/-- An immediate atomic whose old value nobody awaits any more. -/
def Iatom.posted (a : Iatom) : Iatom := { a with d := 0 }

/-- The atomics that an aborted run has issued stay in flight, and their values go nowhere (R281). -/
def orphanAtomics (s : State) (e : Nat) : State :=
  { s with quants := s.quants.map (fun q => if q.el == e then { q with a := q.a.posted } else q) }

/-- Abort the running run of an element (R281). -/
def abortRunning (s : State) (e : Nat) (why : AbortWhy) : State :=
  let x := elem s e
  match x.run with
  | none => s
  | some r =>
    let s1 := orphanAtomics (unreserve s e r) e
    let s2 := if r.urgent then s1 else freeLanes s1 e
    setElem s2 e (resumeUnder { abortElem x r why with csr := r.start, stall := .none, iq := x.iq.map Iatom.posted })

/-- Abort the run that an urgent task has interrupted. -/
def abortUnder (s : State) (e : Nat) (why : AbortWhy) : State :=
  let x := elem s e
  match x.under with
  | none => s
  | some u => setElem (freeLanes (unreserve s e u.run) e) e { abortElem x u.run why with under := none }

/-- Abort the k-th finished run of an element. -/
def abortFin (s : State) (e k : Nat) (why : AbortWhy) : State :=
  let x := elem s e
  match x.fin[k]? with
  | none => s
  | some r => setElem (unreserve s e r) e { abortElem x r why with fin := dropAt x.fin k }

/-- The runs of an element that have not committed. -/
def runsOf (x : Elem) : List Run :=
  (match x.run with | some r => [r] | none => []) ++ (match x.under with | some u => [u.run] | none => []) ++ x.fin

/-- Of some runs, the one that began last; of two with one beginning, the first. -/
def newest : List Run → Option Run
  | [] => none
  | r :: l => match newest l with | none => some r | some q => if q.began ≤ r.began then some r else some q

/-- Abort one run of an element: the running one, the interrupted one, or the finished one of its event. -/
def abortRun (s : State) (e : Nat) (r : Run) (why : AbortWhy) : State :=
  let x := elem s e
  if x.run == some r then abortRunning s e why
  else if (x.under.map (·.run)) == some r then abortUnder s e why
  else match x.fin.findIdx? (· == r) with | some k => abortFin s e k why | none => s

/-- Abort the runs of an element that satisfy a test, the one that began last first (with fuel the number of runs). -/
def abortRuns (p : Run → Bool) (why : AbortWhy) (e : Nat) : Nat → State → State
  | 0, s => s
  | n + 1, s =>
    match newest ((runsOf (elem s e)).filter p) with
    | none => s
    | some r => abortRuns p why e n (abortRun s e r why)

/-- Abort every run of an element that satisfies a test, the one that began last first: an urgent run before the one that it interrupted,
finished though it may be, and the finished ones from the last on. So local store and the element-class registers end as the first of
them found them, and the words of a port keep their order (R8, R11, R32, R281). -/
def abortWhere (p : Run → Bool) (why : AbortWhy) (s : State) (e : Nat) : State :=
  abortRuns p why e (runsOf (elem s e)).length s

/-- The lines that writes touch. -/
def linesOf (ws : Tbl (Byte × Nat)) : List Nat := distinct (ws.map (fun w => w.1 / 64))

/-- Abort every uncommitted run of a domain, but serial ones, that has read one of some lines (R280, R281). -/
def abortReaders (s : State) (lid : BitVec 32) (hit : Nat → Bool) : State :=
  s.elems.foldl (fun t x => abortWhere (fun r => r.ev.lid == lid && !r.serial && r.rs.any hit) .keep t x.1) s

/-- The runs of a domain whose read set holds one of the lines abort (R280). A run in serial mode cannot be aborted so, and a
run that is a domain of its own never is (R25, R281). -/
def conflict (s : State) (lid : BitVec 32) (lines : List Nat) : State :=
  if lidScope s lid == 0 then s else abortReaders s lid lines.contains

/-! ## Port trigger occurrences (R14, R273) -/

/-- The channels of runs that are unfinished, or finished and not committed. -/
def busyChans (x : Elem) : List Nat :=
  (match x.run with | some r => [r.ev.chan] | none => []) ++ (match x.under with | some u => [u.run.ev.chan] | none => [])
    ++ x.fin.map (fun r => r.ev.chan)

/-- A channel's port trigger holds: no run of it is there or waits, and its FIFO has TCNT words. -/
def portReady (x : Elem) (ch : Nat) : Bool :=
  let c := chEntry x ch
  c.trig == 1 && !(busyChans x).contains ch && !x.inq.any (fun v => v.chan == ch && v.kind == .port)
    && decide (c.tcnt ≤ (tget x.fifo c.tport []).length)

/-- Number the occurrences of port triggers that hold and have no number yet, in channel order; one that holds no more loses its
number (R273). -/
def noteOcc (x : Elem) : Elem :=
  x.chans.foldl (fun y p =>
    if !portReady y p.1 then { y with occ := tdel y.occ p.1 }
    else if (tfind y.occ p.1).isSome then y
    else { y with occ := tput y.occ p.1 (y.seqNo + 1), seqNo := y.seqNo + 1 }) x

/-! ## The release of an outbox (R132, R279) -/

/-- A TRIGMISMATCH event for a message that an element does not queue (R14). -/
def trigMismatch (s : State) (e : Nat) (v : Ev) : State :=
  let dest := if v.sender == 0 then elAddr s e else fld v.sender 26 0
  sendMsg s uHw dest 3 [13, dw (chanAddr s e v.chan), v.sender, 0] 0 v.ts v.lid 0 none

/-- The event is a TRIGMISMATCH error event (R14). -/
def isTrigMismatch (v : Ev) : Bool := v.chan == 3 && v.sender == 0 && fld (dwAt v.payload 0) 15 0 == 13

/-- A channel's new entry at its commit; one with TRIG 1 or 2 discards the channel's queued messages, each but a TRIGMISMATCH event with
its own event (R14, R147). The message of a run that has not committed is not queued: it is not discarded, and after an abort it waits at
the head until TRIG is 0 again (DESIGN CHOICE, log 52). -/
def applyChcfg (s : State) (e ch : Nat) (n : ChEntry) : State :=
  let x := elem s e
  let lost := x.inq.filter (fun v => v.chan == ch && v.kind == .msg && n.trig != 0)
  let s1 := setElem s e (noteOcc { x with chans := tput x.chans ch n, inq := x.inq.filter (fun v => !lost.contains v) })
  lost.foldl (fun t v => if isTrigMismatch v then t else trigMismatch t e v) s1

/-- The terms of a post as the element reads them at its commit (R226); none when a term cannot be read. -/
def postTerms (s : State) (op : CfOp) : Option (List (BitVec 32)) :=
  let d1 := dwAt op.block 1
  let sz := if fld d1 27 24 == 1 then 4 else 2
  let n := fld d1 55 42 + 1
  let src := (dwAt op.block 2).toNat
  let bytes : Option (List Byte) :=
    if inLs src then
      let x := elem s op.o.el
      if lsPoisoned x (src - lsBase) (n * sz) then none else some (memRead x.ls (src - lsBase) (n * sz))
    else
      op.pages.foldl (fun acc p =>
        match acc, physRead s p.1 p.2.1 with
        | some a, some l => some (a ++ l)
        | _, _ => none) (some [])
  bytes.map (fun l => (pieces sz l).map (fun b => BitVec.ofNat 32 (leNat b)))

/-- A post's request for terms that no route takes is dropped, and counted on the element's I-die (R226, R348). -/
def departLost (s : State) (op : CfOp) : State :=
  if op.sub == 3 && !dbit (dwAt op.block 1) 23 && !dbit (dwAt op.block 1) 22 then
    match op.pages.find? (fun p => (physRead s p.1 p.2.1).isNone) with
    | some p => countLost s (idieOf (dieOf op.o.el)) p.1
    | none => s
  else s

/-- A CF operation as it leaves its element: a post without COND carries its terms (R226). -/
def cfDepart (s : State) (op : CfOp) : CfOp :=
  if op.sub == 3 && !dbit (dwAt op.block 1) 23 && !dbit (dwAt op.block 1) 22 then { op with terms := postTerms s op } else op

/-- A management operation, which tells nothing but a refusal (R223). -/
def cfManages (op : CfOp) : Bool := op.sub != 3 && op.sub != 4

/-- The channel of the last message of a post or a read, none where none is to come (R221, R229); and of a refusal (R223). -/
def cfChan (op : CfOp) : Option Nat :=
  let d1 := dwAt op.block 1
  if op.sub == 3 then (if fld d1 61 56 == 0 then none else some (fld d1 61 56)) else if op.sub == 4 then some (fld d1 33 28) else some 5

/-- What a bank repeats of a post's or a read's D1: GEN and, of a post, CONTRIB (R221). -/
def cfKey (op : CfOp) : Nat := fld (dwAt op.block 1) 15 0 + (if op.sub == 3 then fld (dwAt op.block 1) 21 16 else 0) * 2 ^ 16

/-- Where a CF operation goes: the bank of its handle, or its C-die's first bank for a handle that names none; another device
by the fabric (R30, R220), which keeps an operation that may be answered pending until its last message comes (R274), and a management
operation no longer than a refusal can take: two edges there and two back (R283; DEDUCED, log 23). One that no route takes is dropped,
and nothing answers it (R348). -/
def sendCf (s : State) (op : CfOp) : State :=
  let h := dwAt op.block 0
  if fld h 63 48 == s.regs.devnum.toNat then post s op.o.el (uBank (fld h 47 46) (fld h 45 42)) (.cf op)
  else
    let r := sendFab s (idieOf (dieOf op.o.el)) (fld h 63 48)
      (.cfop op.sub (BitVec.ofNat 27 (elAddr s op.o.el)) (BitVec.ofNat 2 op.o.mode) op.block op.terms op.pages op.o.ts op.o.lid)
    match cfChan op with
    | none => r.1
    | some ch =>
      let a : CfAway := { o := op.o, chan := ch, h := h, key := cfKey op, due := if cfManages op then some (s.roundNo + 4) else none }
      if r.2 then { r.1 with cfAway := r.1.cfAway ++ [a] } else r.1

/-- Apply one entry of an outbox that is not a KV operation, in its place in program order. -/
def applyEntry (s : State) (e : Nat) (o : OutEntry) (marks : List (BitVec 32 × List Nat × Option Nat)) : State :=
  match o with
  | .msg dests ch payload og =>
    dests.foldl (fun t d => sendMsg t e d ch payload (dw (chanAddr t e og.chan)) og.ts og.lid 0 (some e)) s
  | .port dir w =>
    match neighbour s e dir with
    | some n => post s e n (.word n (facing dir) w)
    | none => s
  | .push q jid cmd now og =>
    match marks.find? (fun m => m.1 == jid) with
    | some m => post s e (uQueue q) (.push q jid cmd now og m.2.1 m.2.2)
    | none => post s e (uQueue q) (.push q jid cmd now og [] none)
  | .cf op => sendCf (departLost s op) (cfDepart s op)
  | .kv op => (applyKv s op).1
  | .gstore w v og =>
    let c : Contrib := { port := none, o := og, value := v, arr := 0, count := 1, part := false, nan := false }
    if gAlone (grp s (gwGroup w)) then groupContribute s (gwGroup w) (gwSeq w) c
    else post s e uGroup (.group (gwGroup w) (gwSeq w) c)
  | .scinc c v => counterAdd s (clOf e) c v
  | .scarm c v ch og =>
    counterTests (modCounter s (clOf e) c (fun k => { k with arm := some { value := v, chan := ch, o := og } })) (clOf e) c
  | .scexpect c v ch og =>
    counterTests (modCounter s (clOf e) c (fun k =>
      { k with expect := some { value := v, chan := ch, fired := false, ovr := true, o := og } })) (clOf e) c
  | .scmode c b => modCounter s (clOf e) c (fun k => { k with byte := b, arm := none, expect := none })
  | .barv tag v og => post s e uTree (.barv tag v og)
  | .barcfg tag block => post s e uTree (.barcfg tag block)
  | .chcfg ch n => applyChcfg s e ch n
  | .chmask ch m => modElem s e (fun x => noteOcc { x with chans := tmod x.chans ch ChEntry.reset (fun c => c.setMask m) })
  | .jobarm w ch og => applyJobArm s (queueOf e (w.toNat / 2 ^ 29 % 8)) w ch og
  | .osfree first count og => applyOsfree s og first.toNat count.toNat
  | .jobresume jid => applyResume s (queueOf e (jid.toNat / 2 ^ 29)) jid
  | .jobcancel jid => applyCancel s (queueOf e (jid.toNat / 2 ^ 29)) jid
  | .launch lid r asid => activate s lid r asid e none
  | .grdy block og => post s e uGroup (.grdy block og)
  | .gpull block og => post s e uGroup (.gpull block og)
  | .gcfg block => applyGcfg s block
  | .rcupd block del og pages =>
    pages.foldl (fun t p => post t e (8192 + 3 * 1024 + p.2.1) (.cell p.1 p.2.2 (dwAt block 1) (dwAt block 2) (dwAt block 3) del og)) s
  | .audit x b og =>
    bumpTele (errOf s og 5 (dw (x.toNat + b.toNat * 2 ^ 32)) (dw (og.lid.toNat + lidScope s og.lid * 2 ^ 32)) 0) (dieOf e) 0x10

/-- A KVPUT. -/
def isPut : OutEntry → Bool
  | .kv op => op.sub == 1
  | _ => false

/-- A KVPUB. -/
def isPub : OutEntry → Bool
  | .kv op => op.sub == 2
  | _ => false

/-- Program order, but for each KVPUB, which stands after the last KVPUT that follows it (R236). -/
def orderOb : List OutEntry → List OutEntry → List OutEntry
  | [], held => held
  | o :: l, held =>
    if isPub o && l.any isPut then orderOb l (held ++ [o])
    else if isPut o && !l.any isPut then o :: held ++ orderOb l []
    else o :: orderOb l held

/-- Entries that are released without the write-through of a group-scope release set (R279). -/
def plainEntry : OutEntry → Bool
  | .msg _ _ _ _ => true
  | .port _ _ => true
  | _ => false

/-- The marks of the BFILLs that an outbox pushes (R239): job, blocks, failure; and the lines they wrote. -/
def makeMarks (s : State) : List OutEntry → State × List Nat × List (BitVec 32 × List Nat × Option Nat)
  | [] => (s, [], [])
  | .push q jid cmd _ og :: l =>
    if q.eng == 2 && cmdOpc cmd == 0x40 then
      let m := bfMarks s og (cmdD cmd 2).toNat (nbits cmd.toNat 95 80) (nbits cmd.toNat 111 96)
      let r := makeMarks m.1 l
      (r.1, m.2.1 ++ r.2.1, (jid, m.2.2.1, m.2.2.2) :: r.2.2)
    else makeMarks s l
  | _ :: l => makeMarks s l

/-- Apply the entries of an outbox in order; gives the lines that KV operations wrote. -/
def applyOb (e : Nat) (marks : List (BitVec 32 × List Nat × Option Nat)) : List OutEntry → State → State × List Nat
  | [], s => (s, [])
  | .kv op :: l, s =>
    let r := applyKv s op
    let t := applyOb e marks l r.1
    (t.1, r.2 ++ t.2)
  | o :: l, s => applyOb e marks l (applyEntry s e o marks)

/-! ## COMMIT (R279) -/

/-- The writes in a domain's release set, COMMIT by COMMIT in commit order, with their origins. -/
def rlParts (s : State) (lid : BitVec 32) : List RlPart := tget s.rl lid.toNat []

/-- Later writes over earlier ones. -/
def mergeWrites (old new : Tbl (Byte × Nat)) : Tbl (Byte × Nat) := new.foldl (fun t w => tput t w.1 w.2) old

/-- The release set of a domain, as a run of the domain reads it. -/
def rlOf (s : State) (lid : BitVec 32) : Tbl (Byte × Nat) := (rlParts s lid).foldl (fun t p => mergeWrites t p.ws) []

/-- The origin of what a run's COMMIT does: its timestamp plus child offset (R368). -/
def runOrigin (s : State) (e : Nat) (r : Run) : Origin :=
  { el := e, chan := r.ev.chan, mode := ChEntry.mode r.entry, ts := dw (r.ev.ts.toNat + r.off), lid := r.ev.lid, asid := lidAsid s r.ev.lid }

/-- Apply a COMMIT's writes, which a remote device hears as those of the domain (R280), and report. -/
def commitTo (s : State) (o : Origin) (ws : Tbl (Byte × Nat)) : State :=
  let r := applyWritesIn o.lid s ws
  reportErrs r.1 o r.2

/-- Apply the writes of several COMMITs in commit order, each of which reports its own errors (R279, R368). -/
def commitParts (s : State) (l : List RlPart) : State := l.foldl (fun t p => commitTo t p.o p.ws) s

/-- Make a run's buffered writes visible (R279): at group scope those outside the cluster's scratchpad wait in the release set,
which is written through when the outbox holds anything but messages and port words. -/
def commitWrites (s : State) (e : Nat) (r : Run) : State :=
  let o := runOrigin s e r
  match launchOf s r.ev.lid with
  | none => commitTo s o r.wb
  | some l =>
    if l.scope != 1 then commitTo s o r.wb
    else if r.ob.all plainEntry then
      let near := r.wb.filter (fun w => homeScope l.home w.1 == 1)
      let far := r.wb.filter (fun w => homeScope l.home w.1 != 1)
      let s1 := commitTo s o near
      if far.isEmpty then s1 else { s1 with rl := tput s1.rl r.ev.lid.toNat (rlParts s1 r.ev.lid ++ [{ o := o, ws := far }]) }
    else commitParts { s with rl := tdel s.rl r.ev.lid.toNat } (rlParts s r.ev.lid ++ [{ o := o, ws := r.wb }])

/-- The COMMIT of what a run holds: its writes, the aborts they cause, the marks, the releases (R279, R280). -/
def commitEffects (s : State) (e : Nat) (r : Run) : State :=
  let s1 := commitWrites s e r
  let m := makeMarks s1 r.ob
  let t := applyOb e m.2.2 (orderOb r.ob []) m.1
  conflict t.1 r.ev.lid (linesOf r.wb ++ m.2.1 ++ t.2)

/-- The credits of consumed port words go back to the neighbours (R11). -/
def returnCredits (s : State) (e : Nat) (taken : List (Nat × PortWord)) : State :=
  taken.foldl (fun t w =>
    match neighbour t e w.1 with
    | some n => post t e n (.credit n (facing w.1))
    | none => t) s

/-- The commit of a run withdraws its element's standing lane request, when it is still the one its event's run set (R165). -/
def endReq (s : State) (e : Nat) (r : Run) : State :=
  match (elem s e).req with
  | some q => if q.num == r.ev.num then freeReserved (modElem s e (fun x => { x with req := none })) e else s
  | none => s

/-- The COMMIT of a finished run that has left F: its channel may have a port trigger that holds again (R273). -/
def commitRun (s : State) (e : Nat) (r : Run) : State :=
  modElem (returnCredits (endReq (commitEffects s e r) e r) e r.taken) e noteOcc

/-- The COMMIT of the k-th finished run of an element. -/
def commitFin (s : State) (e k : Nat) : State :=
  match (elem s e).fin[k]? with
  | none => s
  | some r => commitRun (modElem s e (fun x => { x with fin := dropAt x.fin k })) e r

/-- Change the running run of an element. -/
def modRun (s : State) (e : Nat) (f : Run → Run) : State :=
  modElem s e (fun x => { x with run := x.run.map f })

/-- A partial COMMIT (R133, R282): the buffers are applied and emptied, and the undo log starts anew. Port words that the run has taken
stay tentative, and their credits return at its COMMIT (R11; DESIGN CHOICE, log 52). -/
def partialCommit (s : State) (e : Nat) : State :=
  match (elem s e).run with
  | none => s
  | some q =>
    let r := { q with off := stChoff (elem s e).csr.status }
    let s1 := modRun s e (fun x => { x with wb := [], ob := [], undo := [], pre := [], lids := [], jobs := [] })
    let s2 := if q.urgent then modElem s1 e (fun x => { x with under := x.under.map (fun u => { u with run := noteUrgent q u.run }) }) else s1
    commitEffects s2 e r

/-- The partial COMMIT of a serial run that an urgent task has interrupted while it stalled (R282); what the urgent task has written so
far is permanent for it (R8). -/
def partialUnder (s : State) (e : Nat) : State :=
  match (elem s e).under with
  | none => s
  | some u =>
    let r := { u.run with off := stChoff u.csr.status }
    let now : Tbl Dword := match (elem s e).run with | some v => v.undo.map (fun p => (p.1, memDword (elem s e).ls (8 * p.1))) | none => []
    let s1 := modElem s e (fun x =>
      { x with under := some { u with run := { r with wb := [], ob := [], undo := [], pre := now, lids := [], jobs := [] }, stall := .none } })
    commitEffects s1 e r

/-- The domain holds a serial run, running, interrupted or finished (R293). -/
def serialHeld (s : State) (lid : BitVec 32) : Bool :=
  lidScope s lid != 0 && s.elems.any (fun x =>
    (match x.2.run with | some r => r.serial && r.ev.lid == lid | none => false)
      || (match x.2.under with | some u => u.run.serial && u.run.ev.lid == lid | none => false)
      || x.2.fin.any (fun r => r.serial && r.ev.lid == lid))

/-- FINISH of the running run (R145): its lanes are released; a run that read and buffered nothing commits, unless its domain holds a
serial run (R293), and so does a run that is a domain of its own (R25); an interrupted task goes on. -/
def finishRun (s : State) (e : Nat) : State :=
  let x := elem s e
  match x.run with
  | none => s
  | some q =>
    let r := { q with off := stChoff x.csr.status }
    let s1 := if r.urgent then s else freeLanes s e
    let y := resumeUnder { x with csr := { x.csr with vgrant := if r.urgent then x.csr.vgrant else 0 },
                                  under := x.under.map (fun u => { u with run := noteUrgent r u.run }) }
    if (r.rs.isEmpty && r.wb.isEmpty && (r.serial || !serialHeld s r.ev.lid)) || lidScope s r.ev.lid == 0 then commitRun (setElem s1 e y) e r
    else setElem s1 e { y with fin := y.fin ++ [r] }

end Sys2Proof.Machine
end

