-- ==== Sys2Proof/Machine/Ops.lean ====
section
/-! DEFINITION. What an instruction of an element is made of: how it can stop, the sequencing state (R124), taking a trap
(R363 to R365) and returning from one (R137), reading and writing registers (R9, R108), local store (R7, R8), and loads and
stores (R117, R118). -/

namespace Sys2Proof.Machine

/-! ## How an instruction ends -/

/-- Why an instruction does not complete: a trap, from the state at its start but for what State.marks names (R304, R348); a trap after a
partial transfer (R119); an abort of the run (R162); a serial run that stalls for a partial COMMIT (R282); or the element stays at the
instruction, in a given state. -/
inductive Stop where
  | trap (cause : Nat) (ev : Dword) (marks : List Kept)
  | trapIn (s : State) (cause : Nat) (ev : Dword)
  | abort (s : State) (why : AbortWhy)
  | full (marks : List Kept)
  | wait (s : State)

/-- Acts of the element whose turn it is. -/
abbrev M := StateT State (Except Stop)

/-- The cause codes of R367. -/
def cILLOP : Nat := 1
/-- PRIV. -/
def cPRIV : Nat := 2
/-- ALIGN. -/
def cALIGN : Nat := 3
/-- BOUNDS. -/
def cBOUNDS : Nat := 4
/-- PGLOAD. -/
def cPGLOAD : Nat := 5
/-- PGSTORE. -/
def cPGSTORE : Nat := 6
/-- PROT. -/
def cPROT : Nat := 7
/-- TSORDER. -/
def cTSORDER : Nat := 8
/-- TRAPI. -/
def cTRAPI : Nat := 9
/-- BREAK. -/
def cBREAK : Nat := 10
/-- MCHECK. -/
def cMCHECK : Nat := 11

/-- Trap. -/
def trap {α : Type} (cause : Nat) (ev : Dword) : M α := do
  let s ← get
  throw (.trap cause ev s.marks)

/-- A serial run stalls. -/
def stallFull {α : Type} : M α := do
  let s ← get
  throw (.full s.marks)

/-- The word of an instruction, as EVAL shows it (R76, R367). -/
def instrWord (i : Instr) : Dword :=
  match encodeWord i with
  | some w => w.setWidth 64
  | none => 0

/-- The element's state. -/
def getE : M Elem := do pure (curElem (← get))

/-- Change the element's state. -/
def modE (f : Elem → Elem) : M Unit := modify (fun s => modCur s f)

/-- The running run is urgent: its handler has priority 7 (R18; log 14). -/
def isUrgent (x : Elem) : Bool := match x.run with | some r => r.urgent | none => false

/-- The running run is serial. -/
def isSerial (x : Elem) : Bool := match x.run with | some r => r.serial | none => false

/-- MODE of STATUS. -/
def modeOf (x : Elem) : Nat := stMode x.csr.status

/-- The origin of what the running task does. -/
def originOf (s : State) (e : Nat) : Origin :=
  let x := elem s e
  { el := e, chan := stChan x.csr.status, mode := modeOf x, ts := dw (childTs x.csr), lid := x.csr.lid, asid := lidAsid s x.csr.lid }

/-! ## Sequencing (R124) -/

/-- The step to the next instruction: P, N1 and N2 move on, and their annul bits with them. -/
def seqNext (q : Seq) : Seq := { p := q.n1, n1 := q.n2, n2 := q.n2 + 4, ap := q.a1, a1 := q.a2, a2 := false }

/-- The step after a branch or jump that is taken to t. -/
def seqTaken (q : Seq) (t : Addr) : Seq := { p := q.n1, n1 := q.n2, n2 := t, ap := q.a1, a1 := q.a2, a2 := false }

/-- The step after a branch with n = 1 that is not taken: both slots are annulled. -/
def seqAnnul (q : Seq) : Seq := { p := q.n1, n1 := q.n2, n2 := q.n2 + 4, ap := true, a1 := true, a2 := false }

/-- The sequencing state at a task start (R127). -/
def seqStart (pc : Addr) : Seq := { p := pc, n1 := pc + 4, n2 := pc + 8, ap := false, a1 := false, a2 := false }

/-- Move the element on. -/
def advance (s : State) : State := modCur s (fun x => { x with seq := seqNext x.seq, afterEret := false })

/-- An annulled step passes: it executes nothing, so that what executes next is still the first instruction after an ERET (R119, R124). -/
def skip (s : State) : State := modCur s (fun x => { x with seq := seqNext x.seq })

/-! ## The undo log (R8) -/

/-- Local-store dwords the log holds. -/
def undoCap : Nat := 512

/-- Log the value at task start of a dword before it is written; a full log aborts the run into serial mode, or makes a serial run commit
partially (R8, R133). -/
def logUndo (d : Nat) : M Unit := do
  let s ← get
  let x := curElem s
  match x.run with
  | none => pure ()
  | some r =>
    if (tfind r.undo d).isSome then pure ()
    else if r.undo.length < undoCap then
      modE (fun y => { y with run := some { r with undo := tput r.undo d (startDword x r d) } })
    else if !r.serial then throw (.abort s .serial)
    else if lidScope s r.ev.lid ≤ 1 then do
      set (partialCommit s s.cur)
      modE (fun y => { y with run := y.run.map (fun q => { q with undo := tput q.undo d (memDword x.ls (8 * d)) }) })
    else stallFull

/-- Write n bytes of local store within one dword, logged for undo; a partial write to a poisoned dword is discarded with an
error event (R315). -/
def lsStore (off n v : Nat) : M Unit := do
  let x ← getE
  if n != 8 && x.lsBad.contains (off / 8) then
    modify (fun s => errOf s (originOf s s.cur) 8 (lsVa off) 0 0)
  else do
    logUndo (off / 8)
    modE (fun y => lsWrite y off n v)

/-- Write dwords of local store. -/
def lsStoreDwords : Nat → List Dword → M Unit
  | _, [] => pure ()
  | off, d :: l => do lsStore off 8 d.toNat; lsStoreDwords (off + 8) l

/-- Read n bytes of local store as they stand; poison traps, with the address of the first word that has it (R315). -/
def lsLoad (off n : Nat) : M (List Byte) := do
  let x ← getE
  if lsPoisoned x off n then trap cMCHECK (lsVa (lsBadAt x off n)) else pure (memRead x.ls off n)

/-! ## Ports (R11, R12) -/

/-- The port a register names. -/
def portOf (r : Reg) : Nat := r.toNat - 28

/-- Take the head word of a port's FIFO: ILLOP where the port has no neighbour or the task is urgent, an abort where no word
is there. -/
def takePort (w : Dword) (dir : Nat) : M Dword := do
  let s ← get
  let x := curElem s
  if isUrgent x || (neighbour s s.cur dir).isNone then trap cILLOP w
  else
    match tget x.fifo dir [] with
    | [] => throw (.abort s (.port dir true))
    | p :: l => do
      modE (fun y => { y with fifo := tput y.fifo dir l, run := y.run.map (fun r => { r with taken := r.taken ++ [(dir, p)] }) })
      pure (p.word.setWidth 64)

/-- Entries an outbox holds. -/
def obCap : Nat := 32

/-- Place an entry in the outbox; a full one aborts the run into serial mode, or makes a serial run commit partially (R133). -/
def outbox (o : OutEntry) : M Unit := do
  let s ← get
  let x := curElem s
  match x.run with
  | none => pure ()
  | some r =>
    if r.ob.length < obCap then modE (fun y => { y with run := some { r with ob := r.ob ++ [o] } })
    else if !r.serial then throw (.abort s .serial)
    else if lidScope s r.ev.lid ≤ 1 then do
      set (partialCommit s s.cur)
      modE (fun y => { y with run := y.run.map (fun q => { q with ob := q.ob ++ [o] }) })
    else stallFull

/-- The outbox is full for an instruction that then returns −1; a serial run never sees it so (R133). -/
def obFull (x : Elem) : Bool := match x.run with | some r => !r.serial && decide (obCap ≤ r.ob.length) | none => false

/-- Check the timestamp plus child offset (R24): TSORDER beyond 2^64 − 1, with EVAL the sum modulo 2^64 (R367). -/
def checkTs : M Unit := do
  let x ← getE
  if 2 ^ 64 ≤ childTs x.csr then trap cTSORDER (dw (childTs x.csr)) else pure ()

/-- Write a word to a port: a credit is consumed and the word joins the outbox (R11, R12). -/
def putPort (w : Dword) (dir : Nat) (v : Dword) : M Unit := do
  let s ← get
  let x := curElem s
  if isUrgent x || (neighbour s s.cur dir).isNone then trap cILLOP w
  else do
    checkTs
    if tget x.credit dir 16 == 0 then throw (.abort s (.port dir false))
    else do
      outbox (.port dir { word := v.setWidth 32, ts := dw (childTs x.csr), lid := x.csr.lid })
      modE (fun y => { y with credit := tput y.credit dir (tget x.credit dir 16 - 1) })

/-! ## Registers (R9, R108)

The argument w is the instruction's word, for ILLOP at a port. -/

/-- Read a source register. R10 checks WP only when it is written: where a capability refresh leaves WP beyond the usable banks, the dword
is read and written as any other, without BOUNDS (DESIGN CHOICE, log 52). -/
def readReg (w : Dword) (r : Reg) : M Dword := do
  if r.toNat ≤ 27 then
    let x ← getE
    if r != 0 && x.lsBad.contains (wOff x r.toNat / 8) then trap cMCHECK (lsVa (wOff x r.toNat)) else pure (getW x r)
  else takePort w (portOf r)

/-- Write a destination register. -/
def writeReg (w : Dword) (r : Reg) (v : Dword) : M Unit := do
  if r == 0 then pure ()
  else if r.toNat ≤ 27 then
    let x ← getE
    lsStore (wOff x r.toNat) 8 v.toNat
  else putPort w (portOf r) v

/-! ## Traps (R128, R363 to R367) -/

/-- The X-class registers as a trap writes them (R128, R363). -/
def trapRegs (x : Elem) (cause : Nat) (ev : Dword) : XCsrs :=
  { x.x with epc0 := x.seq.p, epc1 := x.seq.n1, epc2 := x.seq.n2,
             eann := BitVec.ofNat 3 (bnat x.seq.ap * 4 + bnat x.seq.a1 * 2 + bnat x.seq.a2),
             ecause := BitVec.ofNat 5 (bnat (isUrgent x) * 16 + cause), eval := ev }

/-- The trap vector: channel 1's entry. -/
def trapVector (x : Elem) : ChEntry := chEntry x 1

/-- A trap cannot be handled: a handler is running, or channel 1 is masked (R365). -/
def trapDouble (x : Elem) : Bool := stTrap x.csr.status || (trapVector x).mask

/-- The state in which the handler starts, before its start values are written (R363). -/
def trapEnter (x : Elem) (cause : Nat) : Elem :=
  let v := trapVector x
  { x with twp := x.csr.wp, tst := x.csr.status, tfpf := x.csr.fpflags, tfpr := x.csr.fprm,
           csr := { x.csr with status := setMode (setTrap x.csr.status true) (if cause == cMCHECK then 2 else 1),
                               wp := BitVec.ofNat 18 v.wpo },
           seq := seqStart v.pc, afterEret := false, run := x.run.map (fun r => { r with vdone := 0, vgot := [] }) }

/-- Channel 1's workspace pointer lies outside its limits, as it can once banks are mapped out (R10). -/
def trapWpBad (x : Elem) : Bool := !trapDouble x && !wpOk x (trapVector x).wpo

/-- Take a trap in the running task: one operation for every cause (R363). A double trap aborts the run and posts DOUBLETRAP
(R365). A workspace pointer of channel 1 outside its limits is refused: WP keeps its value, and the BOUNDS that the write raises
while the trap is taken is a double trap (R10, R365; DEDUCED, log 50). -/
def takeTrap (s : State) (cause0 : Nat) (ev0 : Dword) : State :=
  let x := curElem s
  let cause := if trapWpBad x then cBOUNDS else cause0
  let ev := if trapWpBad x then lsVa (trapVector x).wpo else ev0
  let x1 := { x with x := trapRegs x cause ev }
  let s1 := setElem s s.cur x1
  if trapDouble x || trapWpBad x then
    let o := originOf s s.cur
    let s2 := abortRunning s1 s.cur .defer
    errOf s2 o 10 (x1.x.ecause.setWidth 64) ev (x1.x.epc0.setWidth 64)
  else
    let s2 := setElem s s.cur (trapEnter x1 cause)
    let vals : List Dword := [x.csr.wp.setWidth 64, x1.x.ecause.setWidth 64, ev, x.csr.status]
    match (lsStoreDwords ((trapVector x).wpo + 8) vals) s2 with
    | .ok (_, t) => t
    | .error (.abort t why) => abortRunning t t.cur why
    | .error (.full _) => modCur s (fun y => { y with stall := .full })
    | .error (.trap _ _ _) => s2
    | .error (.trapIn t _ _) => t
    | .error (.wait t) => t

/-- The record and event of a precise machine check (R370, R371). -/
def noteMcheck (s : State) (cause : Nat) (ev : Dword) : State :=
  if cause == cMCHECK then
    let o := originOf s s.cur
    mcheck s (dieOf s.cur) 1 ev s.cur o.ts o.lid
  else s


/-- Where an instruction that does not complete leaves the machine. -/
def stopState (s : State) : Stop → State
  | .trap c ev m => let t := keepMarks s m; takeTrap (noteMcheck t c ev) c ev
  | .trapIn t c ev => takeTrap (noteMcheck t c ev) c ev
  | .abort t why => abortRunning t t.cur why
  | .full m => modCur (keepMarks s m) (fun x => { x with stall := .full })
  | .wait t => t

/-- Run an instruction that moves on when it completes. -/
def perform (act : M Unit) (s : State) : Host.Outcome State Fault Refusal :=
  match act s with
  | .ok (_, t) => .next (advance t)
  | .error e => .next (stopState s e)

/-- Run an instruction that sets the sequencing state itself, or ends the run. -/
def performAs (act : M Unit) (s : State) : Host.Outcome State Fault Refusal :=
  match act s with
  | .ok (_, t) => .next t
  | .error e => .next (stopState s e)

/-- PRIV for an instruction marked S in user mode (R76). -/
def needSuper (i : Instr) : M Unit := do
  let x ← getE
  if modeOf x == 0 then trap cPRIV (instrWord i) else pure ()

/-! ## Addresses (R117) -/

/-- Where an access goes: nowhere under ZERO, an offset of local store, or a physical address with its virtual address, codec
and whether its read is untracked. -/
inductive Acc where
  | zero
  | loc (off : Nat)
  | phys (pa va codec : Nat) (untr : Bool)
  deriving DecidableEq, Repr

/-- The address space of a record: its own, or that of the task's launch (R300). -/
def asidOf (s : State) (x : Elem) (asid : Nat) : Nat := if asid == 0 then lidAsid s x.csr.lid else asid

/-- The cause of a translation failure (R302). -/
def xCause (k : AccKind) : XErr → Nat
  | .miss => match k with | .load => cPGLOAD | .fetch => cPGLOAD | .store => cPGSTORE | .rmw => cPGSTORE
  | .prot => cPROT
  | .mcheck _ => cMCHECK
  | .beyond => cBOUNDS

/-- The offset of an access after the bounds check of R117: none for BOUNDS, or the offset and whether it is in bounds under
ZERO. -/
def boundOff (rec' : BitVec 256) (flat : Bool) (off sz : Nat) : Option (Nat × Bool) :=
  if flat || decide (off + sz ≤ recExtent rec') then some (off, true)
  else if recBmode rec' == 1 then
    if recExtent rec' < sz then none else some ((recExtent rec' - sz) / sz * sz, true)
  else if recBmode rec' == 2 then some (off, false)
  else none

/-- Check the last address of a range of local store (R7). -/
def lsCheck (va n : Nat) : M Nat := do
  let x ← getE
  if lsSize x < va - lsBase + n then trap cBOUNDS (dw va) else pure (va - lsBase)

/-- Translate an access outside the window and find its place (R302, R298). -/
def xlatAcc (k : AccKind) (asid va : Nat) (untr : Bool) : M Acc := do
  let s ← get
  let x := curElem s
  match translate s (.element s.cur) asid va (modeOf x) k with
  | .error e => throw (.trap (xCause k e) (dw va) (xMarks s (idieOf (dieOf s.cur)) e ++ s.marks))
  | .ok (t, s1) => do
    set s1
    if t.beyond then trap cBOUNDS (dw va) else pure (.phys t.pa va t.codec (untr || t.untr))

/-- A user-mode access through bf0 traps before anything else is read (R27, R117). -/
def bfPriv (w : Dword) (bf : Nat) : M Unit := do
  let x ← getE
  if bf == 0 && modeOf x == 0 then trap cPRIV w else pure ()

/-- Form and check the address of an access of sz bytes at an offset from a record's base (R117). -/
def checkAt (w : Dword) (k : AccKind) (bf : Nat) (off sz : Nat) : M Acc := do
  let s ← get
  let x := curElem s
  let rec' := bfReg x bf
  if bf == 0 && modeOf x == 0 then trap cPRIV w
  else
    match boundOff rec' (bf == 0) off sz with
    | none => trap cBOUNDS (dw (recBase rec' + off))
    | some (_, false) => pure .zero
    | some (o, true) =>
      let va := (recBase rec' + o) % 2 ^ 64
      if 2 ^ 55 ≤ va then trap cPROT (dw va)
      else if va % sz != 0 then trap cALIGN (dw va)
      else if inLs va then do
        let off' ← lsCheck va sz
        pure (.loc off')
      else xlatAcc k (asidOf s x (recAsid rec')) va (recUntr rec')

/-- The 64-bit offset of a memory operand: w[x] + SEXT(disp12) * s (R117). -/
def memOff (base : Dword) (disp : BitVec 12) (sz : Nat) : Nat := (base + (disp.signExtend 64) * dw sz).toNat

/-! ## Accesses of several parts (R119, R149, R177, R236, R277) -/

/-- The physical line of a place, outside local store. -/
def accLine : Acc → Option Nat
  | .zero => none
  | .loc _ => none
  | .phys pa _ _ _ => some (pa / 64)

/-- Set how many parts of an access of several are done. -/
def setVdone (x : Elem) (k : Nat) : Elem := { x with run := x.run.map (fun r => { r with vdone := k }) }

/-- Set how many loads of an instruction are done, with their values. -/
def setVgot (x : Elem) (k : Nat) (l : List Nat) : Elem := { x with run := x.run.map (fun r => { r with vdone := k, vgot := l }) }

/-- The parts that are done. -/
def vdoneOf (x : Elem) : Nat := match x.run with | some r => r.vdone | none => 0

/-- Their values. -/
def vgotOf (x : Elem) : List Nat := match x.run with | some r => r.vgot | none => []

/-- The k-th load of an instruction whose loads are LOADs of their own (R277): what an earlier execution of it has brought; this
execution's load; or the instruction keeps what it has for its next execution. -/
def nextLoad (k : Nat) (got : List Nat) (act : M Nat) : M Nat := do
  let s ← get
  let x := curElem s
  if k < vdoneOf x then pure ((vgotOf x).getD got.length 0)
  else if k == vdoneOf x then act
  else throw (.wait (modCur s (fun y => setVgot y k got)))

/-- The instruction's loads are done: it keeps none of them. -/
def endLoads : M Unit := modE (fun x => setVgot x 0 [])

/-! ## Loads and stores (R118, R278) -/

/-- Lines a read set holds. -/
def rsCap : Nat := 256
/-- Lines a write buffer holds. -/
def wbCap : Nat := 64

/-- Enter a line in the read set; a full one aborts the run into serial mode, and a serial run goes on untracked (log 15). -/
def track (line : Nat) : M Unit := do
  let s ← get
  match (curElem s).run with
  | none => pure ()
  | some r =>
    if r.rs.contains line then pure ()
    else if r.rs.length < rsCap then modE (fun y => { y with run := some { r with rs := line :: r.rs } })
    else if r.serial then pure ()
    else throw (.abort s .serial)

/-- The write buffer of the running run. -/
def wbOf (x : Elem) : Tbl (Byte × Nat) := match x.run with | some r => r.wb | none => []

/-- The release set that a run of the element reads: its domain's, at group scope (R278). -/
def rlSeen (s : State) (x : Elem) : Tbl (Byte × Nat) :=
  match x.run with
  | some r => if lidScope s r.ev.lid == 1 then rlOf s r.ev.lid else []
  | none => []

/-- Overlay bytes from a table of writes. -/
def overlay (t : Tbl (Byte × Nat)) (pa : Nat) (l : List Byte) : List Byte :=
  (span pa l.length).zipWith (fun a b => match tfind t a with | some v => v.1 | none => b) l

/-- Every byte of a range is in one of two tables of writes. -/
def covers (t u : Tbl (Byte × Nat)) (pa n : Nat) : Bool := (span pa n).all (fun a => (tfind t a).isSome || (tfind u a).isSome)

/-- Read sz bytes at an address outside local store, as R278 sources them. -/
def readTracked (pa va sz : Nat) (untr : Bool) : M (List Byte) := do
  if untr then pure () else track (pa / 64)
  let s ← get
  let x := curElem s
  let home : Option (List Byte) :=
    if covers (wbOf x) (rlSeen s x) pa sz then some (List.replicate sz (0 : Byte)) else physRead s pa sz
  match home with
  | none => do
    modify (fun t => noteLost t (idieOf (dieOf t.cur)) pa)
    trap cMCHECK (dw va)
  | some l => pure (overlay (wbOf x) pa (overlay (rlSeen s x) pa l))

/-- Read the sz bytes of an access. -/
def loadAcc (a : Acc) (sz : Nat) : M (List Byte) :=
  match a with
  | .zero => pure (List.replicate sz (0 : Byte))
  | .loc off => lsLoad off sz
  | .phys pa va _ untr => readTracked pa va sz untr

/-- The lines of a write buffer. -/
def wbLines (wb : Tbl (Byte × Nat)) : List Nat := distinct (wb.map (fun w => w.1 / 64))

/-- Merge bytes within one line into the write buffer; a full one aborts the run into serial mode, or makes a serial run commit
partially (R133, R282). -/
def writeBuffer (pa codec : Nat) (l : List Byte) : M Unit := do
  let s ← get
  match (curElem s).run with
  | none => pure ()
  | some r =>
    let put (wb : Tbl (Byte × Nat)) : Tbl (Byte × Nat) :=
      ((span pa l.length).zip l).foldl (fun t x => tput t x.1 (x.2, codec)) wb
    if (wbLines r.wb).contains (pa / 64) || decide ((wbLines r.wb).length < wbCap) then
      modE (fun y => { y with run := some { r with wb := put r.wb } })
    else if !r.serial then throw (.abort s .serial)
    else if lidScope s r.ev.lid ≤ 1 then do
      set (partialCommit s s.cur)
      modE (fun y => { y with run := y.run.map (fun q => { q with wb := put q.wb }) })
    else stallFull

/-- Write bytes to the place of an access. -/
def storeAcc (a : Acc) (l : List Byte) : M Unit :=
  match a with
  | .zero => pure ()
  | .loc off => lsStore off l.length (leNat l)
  | .phys pa _ codec _ => writeBuffer pa codec l

/-! ## Parameter blocks (R131) -/

/-- Check a local-store address for n bytes at an alignment; gives its offset. -/
def lsRange (va n al : Nat) : M Nat := do
  let x ← getE
  if va % al != 0 then trap cALIGN (dw va)
  else if !inLs va || decide (lsSize x < va - lsBase + n) then trap cBOUNDS (dw va)
  else pure (va - lsBase)

/-- Capture n dwords from local store. -/
def readBlock (va : Dword) (n : Nat) : M (List Dword) := do
  let off ← lsRange va.toNat (8 * n) 8
  pure (bytesDwords (← lsLoad off (8 * n)))

end Sys2Proof.Machine
end

