-- ==== Sys2Proof/Machine/Flags.lean ====
section
/-! DEFINITION. FPFLAGS (R35, R36, R95) and the rounding mode (R93), as instructions use them. -/

namespace Sys2Proof.Machine

/-- OR flags into FPFLAGS: a flag is never cleared (R36). -/
def raise (fl : Nat) : M Unit := modE (fun x => { x with csr := { x.csr with fpflags := x.csr.fpflags ||| BitVec.ofNat 7 fl } })

/-- The rounding mode in force at issue (R93, R113). -/
def roundMode : M Nat := do pure (← getE).csr.fprm.toNat

/-- FLAGS of a job's status word, bits 16 to 23: NV, DZ, OF, UF, NX, INVTERN, SAT, integer overflow (R95, R158). -/
def jobFlags (fl : Nat) (intOver : Bool) : BitVec 8 := BitVec.ofNat 8 (fl % 128 + bnat intOver * 128)

end Sys2Proof.Machine
end

