-- ==== Sys2Proof/Machine/Shape.lean ====
section
/-! DEFINITION. What an engine command is made of: the step of a job and how it stops (R192), accesses by virtual address
(R298, R302, R315), shape records and their walk (R83, R84, R189, R190), bursts (R209), far pages (R210, R313). -/

namespace Sys2Proof.Machine

/-! ## The step of a job -/

/-- A fault code of R192 or R158, with its detail and the address space it arose under, where that is not the job's own (R369); what the step
had done by then that outlives it (R304, R348); and the state in which the step stops where it leaves an effect. -/
structure JobStop where
  code   : Nat
  detail : Nat
  asid   : Option Nat
  marks  : List Kept
  kept   : Option State
  deriving DecidableEq, Repr

/-- Acts of an engine for one step of a job: a step that faults has no effect but those it names and the accessed and dirty bits of what it
translated, and JOBRESUME repeats it (R192, R304). -/
abbrev EM := StateT State (Except JobStop)

/-- Fault under an address space, none for the job's own. -/
def jobFaultIn {α : Type} (asid : Option Nat) (code detail : Nat) : EM α := do
  let s ← get
  throw { code := code, detail := detail, asid := asid, marks := s.marks, kept := none }

/-- Fault. -/
def jobFault {α : Type} (code detail : Nat) : EM α := jobFaultIn none code detail

/-- Fault, with the effects made so far in the step. -/
def jobFaultKept (code detail : Nat) : EM Unit := do
  let s ← get
  throw { code := code, detail := detail, asid := none, marks := s.marks, kept := some s }

/-- The job whose turn it is. -/
def curJob (s : State) : Option Job := jobOf s s.curQ s.curJ

/-- A job's step has stopped with a fault: the job is suspended, or ends where JOBCANCEL has named it (R161, R192); poison or lost reach that
it met is a machine check all the same (R370, R371). -/
def jobStopped (s : State) (j : Job) (e : JobStop) : State :=
  let t := e.kept.getD (keepMarks s e.marks)
  if j.cancel then
    cancelJob (if e.code == 25 then mcheck t (queueDie s.curQ) 8 (dw e.detail) j.o.el j.o.ts j.o.lid else t) s.curQ j
  else faultJob t s.curQ j e.code e.detail (e.asid.getD j.o.asid)

/-- One step of the job whose turn it is: it runs (STATE 4), and the step's effects follow, or the fault that stops it. A job
whose work is done, that is suspended, or that has stepped aside (STATE 3, R242), takes no step. -/
def jobGo (f : Job → EM Job) (s : State) : Host.Outcome State Fault Refusal :=
  match curJob s with
  | none => .next s
  | some j0 =>
    if j0.fin.isSome || j0.state == 5 || j0.state == 3 then .next s
    else
      let j := { j0 with state := 4 }
      match f j s with
      | .ok (k, t) => .next (setJob t t.curQ k)
      | .error e => .next (jobStopped s j e)

/-- One step of a command: the job's command word is that of the instruction. -/
def jobStep (i : Instr) (f : Job → EM Job) (s : State) : Host.Outcome State Fault Refusal :=
  jobGo (fun j => f { j with cmd := (encodeCmd i).getD j.cmd }) s

/-- A command that checks at its issue and then works step by step. -/
def issueThen (check : Job → EM Job) (work : Job → EM Job) (j : Job) : EM Job :=
  if j.issued then work j
  else do
    let k ← check j
    pure { k with issued := true }

/-- A step boundary is due, after a burst of n bytes that has landed. -/
def stepEnd (n : Nat) : EM Unit := modify (fun s => modQueue s s.curQ (fun x => { x with edge := some n }))

/-- A job whose work is done, with the code it ends with: TRUNC where data were dropped (R192). -/
def doneIf (j : Job) (b : Bool) (code : Nat) : Job := if b then { j with fin := some code } else j

/-! ## Accesses -/

/-- Who translates for a queue's jobs (R305): a cluster's engine its cluster's TLB, any other its die's walker pool, the backfill engine of a
C-die, of which R305 says nothing, that of the C-die (DESIGN CHOICE, log 54). -/
def xverOf (q : QueueId) : Xver := if q.eng ≤ 1 then .cluster q.idx else .walker (if q.eng == 2 then q.idx else 4 + q.idx)

/-- The code of a failed access: 5 PGFAULT, 6 PROT, 25 POISON (R192, R302, R315). -/
def accessCode (e : XErr) : Nat := xCode e

/-- The I-die whose route table an engine's requests pass (R157, R347). -/
def queueIdie (q : QueueId) : Nat := if q.eng ≤ 2 then idieOf (queueDie q) else q.idx

/-- Translate under an address space and mode: scratchpad beyond the usable banks faults RANGE (R298). -/
def emXlatAs (asid mode : Nat) (k : AccKind) (va : Nat) : EM Xlat := do
  let s ← get
  match translate s (xverOf s.curQ) asid (va % 2 ^ 64) mode k with
  | .error e => do
    modify (fun t => { t with marks := xMarks t (queueIdie t.curQ) e ++ t.marks })
    jobFaultIn (some asid) (accessCode e) va
  | .ok (t, s1) => do
    set s1
    if t.beyond then jobFaultIn (some asid) 11 va else pure t

/-- Translate for a job: under the pushing task's address space and mode. -/
def emXlat (j : Job) (k : AccKind) (va : Nat) : EM Xlat := emXlatAs j.o.asid j.o.mode k va

/-- Data that cannot be had at a physical address: the fault POISON, and the count of a request that no route takes (R315, R348). -/
def emLost {α : Type} (asid : Option Nat) (pa va : Nat) : EM α := do
  modify (fun s => noteLost s (queueIdie s.curQ) pa)
  jobFaultIn asid 25 va

/-- Read n bytes under an address space and mode, page by page (with fuel for the pages). -/
def emReadAux (asid mode : Nat) : Nat → Nat → Nat → EM (List Byte)
  | 0, _, _ => pure []
  | k + 1, va, n =>
    if n == 0 then pure []
    else do
      let m := Nat.min n (65536 - va % 65536)
      let t ← emXlatAs asid mode .load va
      match physRead (← get) t.pa m with
      | none => emLost (some asid) t.pa va
      | some l => do
        let r ← emReadAux asid mode k (va + m) (n - m)
        pure (l ++ r)

/-- Read n bytes under an address space and mode. -/
def emReadAs (asid mode va n : Nat) : EM (List Byte) := emReadAux asid mode (n / 65536 + 2) va n

/-- Read n bytes for a job. -/
def emRead (j : Job) (va n : Nat) : EM (List Byte) := emReadAs j.o.asid j.o.mode va n

/-- Read n dwords for a job. -/
def emDwords (j : Job) (va n : Nat) : EM (List Dword) := do pure (bytesDwords (← emRead j va (8 * n)))

/-- The physical places of n bytes to be written, page by page (with fuel for the pages). -/
def emPlaceAux (j : Job) : Nat → Nat → List Byte → Tbl (Byte × Nat) → EM (Tbl (Byte × Nat))
  | 0, _, _, acc => pure acc
  | k + 1, va, l, acc =>
    if l.isEmpty then pure acc
    else do
      let m := Nat.min l.length (65536 - va % 65536)
      let t ← emXlat j .store va
      let put := ((span t.pa m).zip l).foldl (fun w p => tput w p.1 (p.2, t.codec)) acc
      emPlaceAux j k (va + m) (l.drop m) put

/-- The physical places of writes at virtual addresses; of two to one byte the later wins. -/
def emPlace (j : Job) : List (Nat × List Byte) → Tbl (Byte × Nat) → EM (Tbl (Byte × Nat))
  | [], acc => pure acc
  | (va, l) :: ws, acc => do
    let t ← emPlaceAux j (l.length / 65536 + 2) va l acc
    emPlace j ws t

/-- Write bytes at virtual addresses as one act; what memory refuses is reported to the pushing element (R307, R315). -/
def emWrite (j : Job) (ws : List (Nat × List Byte)) : EM Unit := do
  let t ← emPlace j ws []
  modify (fun s => applyWritesFor s j.o t)

/-! ## Shape records (R83, R84, R189) -/

/-- A shape record. -/
abbrev Shp := BitVec 512

/-- BASE. -/
def shBase (r : Shp) : Nat := nbits r.toNat 63 0
/-- TOTAL. -/
def shTotal (r : Shp) : Nat := nbits r.toNat 127 80
/-- BMODE: 0 TRAP, 1 CLAMP, 2 ZERO. -/
def shBmode (r : Shp) : Nat := nbits r.toNat 73 72
/-- NDIM. -/
def shNdim (r : Shp) : Nat := nbits r.toNat 71 68
/-- The format code. -/
def shCode (r : Shp) : Nat := nbits r.toNat 67 64
/-- The format. -/
def shFmt (r : Shp) : Fmt := (fmtOfCode (BitVec.ofNat 4 (shCode r))).getD .fp32
/-- e_i. -/
def shExt (r : Shp) (i : Nat) : Nat := nbits r.toNat (128 + 20 * i + 19) (128 + 20 * i)
/-- s_0: the element size, a byte for TERN2 (R189). -/
def shSize (r : Shp) : Nat := fmtBytes (shFmt r)
/-- s_i. -/
def shStride (r : Shp) (i : Nat) : Int :=
  if i == 0 then (shSize r : Int) else (BitVec.ofNat 32 (nbits r.toNat (288 + 32 * (i - 1) + 31) (288 + 32 * (i - 1)))).toInt
/-- Replace the outermost extent. -/
def shOuter (r : Shp) (n : Nat) : Shp :=
  let i := 128 + 20 * (shNdim r - 1)
  BitVec.ofNat 512 (r.toNat - shExt r (shNdim r - 1) * 2 ^ i + n * 2 ^ i)

/-- The checks of R84 on a record. -/
def shOk (r : Shp) : Bool :=
  nbits r.toNat 79 75 == 0 && decide (1 ≤ shNdim r ∧ shNdim r ≤ 8) && shBmode r != 3 && shCode r != 15
    && (span 0 8).all (fun i => if i < shNdim r then shExt r i != 0 else shExt r i == 0)
    && (span 1 7).all (fun i => decide (i < shNdim r) || shStride r i == 0)

/-- The product of the first n extents. -/
def shProd (r : Shp) : Nat → Nat
  | 0 => 1
  | n + 1 => shProd r n * shExt r n

/-- The number of elements. -/
def shCount (r : Shp) : Nat := shProd r (shNdim r)
/-- The number of elements of one row: those that share the outermost index (R214). -/
def shInner (r : Shp) : Nat := shProd r (shNdim r - 1)
/-- The outermost extent. -/
def shRows (r : Shp) : Nat := shExt r (shNdim r - 1)

/-- The offset of the k-th element in linear order, over n dimensions from dimension i on. -/
def shOffFrom (r : Shp) : Nat → Nat → Nat → Int
  | 0, _, _ => 0
  | n + 1, i, k => ((k % shExt r i : Nat) : Int) * shStride r i + shOffFrom r n (i + 1) (k / shExt r i)

/-- The offset of the k-th element in linear order, i_0 varying fastest (R189). -/
def shOff (r : Shp) (k : Nat) : Int := shOffFrom r (shNdim r) 0 k

/-- The offset of element m of row i. -/
def shRowOff (r : Shp) (i m : Nat) : Int := (i : Int) * shStride r (shNdim r - 1) + shOffFrom r (shNdim r - 1) 0 m

/-- The element at an offset is in bounds (R189). -/
def shIn (r : Shp) (off : Int) : Bool := decide (0 ≤ off ∧ off + (shSize r : Int) ≤ (shTotal r : Int))

/-- The address of an offset. -/
def shAddr (r : Shp) (off : Int) : Nat := (((shBase r : Int) + off) % (2 ^ 64 : Nat)).toNat

/-- Read a shape record at issue; a bad one faults BADSHAPE (R84). -/
def emShape (j : Job) (va : Nat) : EM Shp := do
  if va % 64 != 0 then jobFault 3 va
  else do
    let l ← emRead j va 64
    let r : Shp := BitVec.ofNat 512 (leNat l)
    if shOk r then pure r else jobFault 3 va

/-- Read the extension block that follows a shape record; bits of its first two dwords outside the masks, and all of the
others, are rsv (R191). -/
def emBlock (j : Job) (va : Nat) (m0 m1 : Dword) : EM (List Dword) := do
  let l ← emDwords j (va + 64) 8
  if dwAt l 0 &&& ~~~m0 != 0 || dwAt l 1 &&& ~~~m1 != 0 || !(l.drop 2).all (· == 0) then jobFault 3 va else pure l

/-! ## What a copying job keeps

data holds, in order: 1 when data were dropped, the source shape, the destination shape, the number of elements or rows to
move, the number of them that have a source, the number of index entries, those entries, and then the missed pages. -/

/-- TRUNC. -/
def jTrunc (j : Job) : Bool := j.data.getD 0 0 == 1
/-- The source shape. -/
def jSrc (j : Job) : Shp := BitVec.ofNat 512 (j.data.getD 1 0)
/-- The destination shape. -/
def jDst (j : Job) : Shp := BitVec.ofNat 512 (j.data.getD 2 0)
/-- Elements or rows to move. -/
def jTotal (j : Job) : Nat := j.data.getD 3 0
/-- Those of them that have a source. -/
def jHave (j : Job) : Nat := j.data.getD 4 0
/-- Index entries. -/
def jIdxN (j : Job) : Nat := j.data.getD 5 0
/-- An index entry, as a number modulo 2^64. -/
def jIdx (j : Job) (i : Nat) : Int := (dw (j.data.getD (6 + i) 0)).toInt
/-- The missed pages. -/
def jPages (j : Job) : List Nat := j.data.drop (6 + jIdxN j)

/-- The data of a copying job at issue. -/
def jData (trunc : Bool) (src dst : Shp) (total have' : Nat) (idx : List Nat) : List Nat :=
  [bnat trunc, src.toNat, dst.toNat, total, have', idx.length] ++ idx

/-- Note dropped data and missed pages. -/
def jNote (j : Job) (trunc : Bool) (pages : List Nat) : Job :=
  { j with data := (if trunc then j.data.set 0 1 else j.data) ++ pages.filter (fun p => !(jPages j).contains p) }

/-! ## Elements and bursts (R190, R209, R210) -/

/-- What goes to a destination: nothing, zero bits, given bytes, the element at an offset of the source, or an index out of
bounds under TRAP. -/
inductive SrcEl where
  | skip
  | zero
  | lit (l : List Byte)
  | at' (off : Int)
  | oob (i : Nat)
  deriving DecidableEq, Repr

/-- What reading a source element gives: bytes, or nothing, with TRUNC or the far pages that were not read. -/
structure Got where
  bytes : Option (List Byte)
  trunc : Bool
  pages : List Nat
  deriving DecidableEq, Repr

/-- The far pages among those that n bytes at an address lie in (R313). -/
def emFarPages (j : Job) (va n : Nat) : EM (List Nat) := do
  let p := va / 65536 * 65536
  let t ← emXlat j .load va
  let here := if t.tier == 1 then [p] else []
  if va + n ≤ p + 65536 then pure here
  else do
    let u ← emXlat j .load (p + 65536)
    pure (if u.tier == 1 then here ++ [(p + 65536) % 2 ^ 64] else here)

/-- Read element i at an offset of a shape under its BMODE (R190); without far, one that lies in a far page, in part or whole, is skipped
(R210, R313). -/
def emSource (j : Job) (r : Shp) (far : Bool) (i : Nat) (off : Int) : EM Got := do
  if shIn r off then
    let va := shAddr r off
    let missed ← if far then pure [] else emFarPages j va (shSize r)
    if !missed.isEmpty then pure { bytes := none, trunc := false, pages := missed }
    else
      let l ← emRead j va (shSize r)
      pure { bytes := some l, trunc := false, pages := [] }
  else if shBmode r == 0 then jobFault 9 i
  else if shBmode r == 1 then pure { bytes := none, trunc := true, pages := [] }
  else pure { bytes := some (List.replicate (shSize r) (0 : Byte)), trunc := true, pages := [] }

/-- What a source element is, element i of the walk. -/
def emGet (j : Job) (r : Shp) (sz : Nat) (far : Bool) (i : Nat) (e : SrcEl) : EM Got :=
  match e with
  | .skip => pure { bytes := none, trunc := false, pages := [] }
  | .zero => pure { bytes := some (List.replicate sz (0 : Byte)), trunc := false, pages := [] }
  | .lit l => pure { bytes := some l, trunc := false, pages := [] }
  | .at' off => emSource j r far i off
  | .oob k => jobFault 9 k

/-- Where element i goes: its address, none when it is dropped (R190). -/
def emDest (r : Shp) (i : Nat) (off : Int) : EM (Option Nat) :=
  if shIn r off then pure (some (shAddr r off)) else if shBmode r == 0 then jobFault 9 i else pure none

/-- What a burst gathers: writes, TRUNC, missed pages. -/
structure Burst where
  ws    : List (Nat × List Byte)
  trunc : Bool
  pages : List Nat
  deriving DecidableEq, Repr

/-- Read every source element of a burst and find its place, in ascending order (R209). Where the source element is skipped, no place is looked
for, and one out of bounds under TRAP does not fault (DESIGN CHOICE, log 54: R190 does not say). -/
def emGather (j : Job) (src dst : Shp) (far : Bool) (pair : Nat → SrcEl × Int) : List Nat → EM Burst
  | [] => pure { ws := [], trunc := false, pages := [] }
  | i :: is => do
    let p := pair i
    let g ← emGet j src (shSize dst) far i p.1
    let w ← match g.bytes with
      | none => pure (none, false)
      | some l => do
        match ← emDest dst i p.2 with
        | some va => pure (some (va, l), false)
        | none => pure (none, true)
    let r ← emGather j src dst far pair is
    let pages := g.pages ++ r.pages.filter (fun a => !g.pages.contains a)
    pure { ws := (match w.1 with | some x => x :: r.ws | none => r.ws), trunc := g.trunc || w.2 || r.trunc, pages := pages }

/-- Elements of a burst (R209). -/
def burstLen (sz : Nat) : Nat := 4096 / Nat.max 1 sz

/-- One burst: every source element is read before any destination element is written; AUX counts the elements written; the
step's boundary is due. Gives the job with prog advanced over the elements of the burst, of n in all. -/
def emBurst (j : Job) (src dst : Shp) (n : Nat) (far : Bool) (pair : Nat → SrcEl × Int) : EM Job := do
  let is := span j.prog (Nat.min (burstLen (shSize dst)) (n - j.prog))
  let b ← emGather j src dst far pair is
  emWrite j b.ws
  stepEnd (b.ws.length * shSize dst)
  pure { jNote j b.trunc b.pages with prog := j.prog + is.length, aux := j.aux + b.ws.length }

/-- The tier-miss event (R313): one message on channel 2 of the pushing element. -/
def tierEvent (j : Job) (pages : List Nat) (phys : Bool) : EM Unit := do
  let s ← get
  let n := pages.length
  let d0 := j.jid.toNat + Nat.min n 65535 * 2 ^ 32 + bnat (decide (30 < n)) * 2 ^ 48 + bnat phys * 2 ^ 49
  set (sendMsg s (uQueue s.curQ) (elAddr s j.o.el) 2 ([dw d0, dw (j.o.asid % 65536)] ++ (pages.take 30).map dw) 0 j.o.ts j.o.lid 0 none)

/-- The end of a copying job once all n elements are done: the tier-miss event where pages were missed, and the code (R192). -/
def copyDone (n : Nat) (j : Job) : EM Job := do
  if j.prog < n then pure j
  else if !(jPages j).isEmpty then do
    tierEvent j (jPages j) false
    pure (doneIf j true 13)
  else pure (doneIf j true (bnat (jTrunc j)))

end Sys2Proof.Machine
end

