-- ==== Sys2Proof/Machine/MatUnit.lean ====
section
/-! DEFINITION. The parts of a matrix engine: operand slots and tiles (R194, R199), accumulator rows (R195), the chain of R102,
accumulator images (R205). -/

namespace Sys2Proof.Machine

/-- The cluster of the engine whose turn it is. -/
def emClus : EM Cluster := do let s ← get; pure (clus s s.curQ.idx)

/-- Change that cluster. -/
def emModClus (f : Cluster → Cluster) : EM Unit := modify (fun s => modClus s s.curQ.idx f)

/-- Bytes of a slot. -/
def slotBytes : Nat := 8192

/-! ## Formats (R101, R196) -/

/-- K_f: the depth of a tile of a weight format. -/
def tileDepth (f : Fmt) : Nat :=
  if f == .tern2 then 256 else if f == .e4m3 || f == .e5m2 || f == .int8 then 128 else 64

/-- The stream format a weight format pairs with. -/
def streamOf (f : Fmt) : Fmt := if f == .tern2 then .int8 else f

/-- The accumulate format. -/
def accOf (f : Fmt) : Fmt := if f == .fp64 then .fp64 else if f == .int8 || f == .tern2 then .int32 else .fp32

/-- Logical rows that a row of an accumulate format takes (R195). -/
def rowWidth (f : Fmt) : Nat := if f == .fp64 then 2 else 1

/-- Bytes of a tile, and the slots it takes (R194). -/
def tileSize (f : Fmt) : Nat := if f == .tern2 then 4096 else tileDepth f * 64 * fmtBytes f
/-- Slots of a tile. -/
def tileSlots (f : Fmt) : Nat := if f == .fp64 then 4 else if f == .fp32 then 2 else 1

/-! ## Slots and rows -/

/-- A slot belongs to a launch; launch 0 owns none. -/
def slotOwned (x : Cluster) (lid : BitVec 32) (i : Nat) : Bool := lid != 0 && tfind x.slotOwn i == some lid

/-- NOTOWNED unless every slot of a run belongs to the job's launch (R160); the detail is the slot. -/
def needSlots (j : Job) (slot n : Nat) : EM Unit := do
  let x ← emClus
  match (span slot n).find? (fun i => !slotOwned x j.o.lid i) with
  | some i => jobFault 10 i
  | none => pure ()

/-- The owner of a 512-row block. -/
def blkOwner (x : Cluster) (b : Nat) : BitVec 32 := tget x.blkOwn b 0

/-- The blocks that hold n rows from a row on. -/
def rowBlocks (row n : Nat) : List Nat := span (row / 512) ((row + n - 1) / 512 + 1 - row / 512)

/-- RANGE and NOTOWNED for n logical rows, for a launch (R195); the detail is the row. -/
def needRowsOf (lid : BitVec 32) (row n : Nat) : EM Unit := do
  let x ← emClus
  if x.rows < row + n then jobFault 11 (Nat.max row x.rows)
  else
    match (rowBlocks row n).find? (fun b => blkOwner x b != 0 && blkOwner x b != lid) with
    | some b => jobFault 10 (Nat.max row (512 * b))
    | none => pure ()

/-- Take the free blocks that hold n rows. -/
def takeRows (lid : BitVec 32) (row n : Nat) : EM Unit :=
  emModClus (fun x => { x with blkOwn := (rowBlocks row n).foldl (fun t b => if tget t b 0 == 0 then tput t b lid else t) x.blkOwn })

/-- The key of a word of the accumulator. -/
def accKey (row col : Nat) : Nat := row * 64 + col

/-- A word of a logical row. -/
def accWord (x : Cluster) (row col : Nat) : BitVec 32 := tget x.acc (accKey row col) 0

/-- Write a word of a logical row. -/
def setAccWord (x : Cluster) (row col : Nat) (v : BitVec 32) : Cluster := { x with acc := tput x.acc (accKey row col) v }

/-- The value of an accumulator of a format (R195). -/
def accGet (x : Cluster) (f : Fmt) (i col : Nat) : Nat :=
  if f == .fp64 then (accWord x (2 * i) col).toNat + (accWord x (2 * i + 1) col).toNat * 2 ^ 32 else (accWord x i col).toNat

/-- Write an accumulator of a format. -/
def accPut (x : Cluster) (f : Fmt) (i col v : Nat) : Cluster :=
  if f == .fp64 then
    setAccWord (setAccWord x (2 * i) col (BitVec.ofNat 32 v)) (2 * i + 1) col (BitVec.ofNat 32 (v / 2 ^ 32))
  else setAccWord x i col (BitVec.ofNat 32 v)

/-- Bytes of operand memory. -/
def opmBytes (x : Cluster) (at' n : Nat) : List Byte := memRead x.opm at' n

/-- Write bytes of operand memory. -/
def opmWrite (x : Cluster) (at' : Nat) (l : List Byte) : Cluster := { x with opm := memWrite x.opm at' l }

/-! ## Poison (R315) -/

/-- Write strings of bytes into a cluster's operand memory as one act; gives the poisoned words that the write covers only in part. -/
def opmPut (x : Cluster) (ws : List (Nat × List Byte)) : Cluster × List Nat :=
  let ups := ws.flatMap (fun w => (span w.1 w.2.length).zip w.2)
  let r := putBytes x.opm x.opmBad ups
  ({ x with opm := r.1, opmBad := r.2.1, opmTodo := x.opmTodo.filter (fun w => !coversWord ups w) }, r.2.2)

/-- Report writes that poison has discarded: an event that names the byte of operand memory, or of the accumulator store (log 49). -/
def reportBad (s : State) (o : Origin) (l : List Nat) : State := l.foldl (fun t w => errOf t o 8 (dw (8 * w)) 0 0) s

/-- Write strings of bytes into a cluster's operand memory for a job. -/
def opmWriteFor (s : State) (o : Origin) (c : Nat) (ws : List (Nat × List Byte)) : State :=
  let r := opmPut (clus s c) ws
  reportBad (modClus s c (fun _ => r.1)) o r.2

/-- Bytes of operand memory for an engine, which faults POISON on a poisoned word. -/
def emOpm (at' n : Nat) : EM (List Byte) := do
  let x ← emClus
  match x.opmBad.find? (fun w => decide (at' / 8 ≤ w ∧ w ≤ (at' + n - 1) / 8)) with
  | some w => jobFault 25 (8 * w)
  | none => pure (opmBytes x at' n)

/-- The 64-bit word of the accumulator store that holds a column of a logical row. -/
def accWordNo (row col : Nat) : Nat := row * 32 + col / 2

/-- A poisoned word among columns below cn of n logical rows: its row. -/
def badRow (x : Cluster) (row n cn : Nat) : Option Nat :=
  (x.accBad.find? (fun w => decide (row ≤ w / 32 ∧ w / 32 < row + n ∧ 2 * (w % 32) < cn))).map (· / 32)

/-- An engine that reads columns below cn of n logical rows faults POISON where a word of them is poisoned. -/
def needClean (row n cn : Nat) : EM Unit := do
  match badRow (← emClus) row n cn with
  | some r => jobFault 25 r
  | none => pure ()

/-- A cluster x after the logical words that a test picks out, by row and column, have been written, as y: a poisoned word that they cover
is clean again, and one that they cover in part keeps its contents and its poison. Gives those words. -/
def accSettle (x y : Cluster) (written : Nat → Nat → Bool) : Cluster × List Nat :=
  let has (w k : Nat) : Bool := written (w / 32) (2 * (w % 32) + k)
  let part := x.accBad.filter (fun w => has w 0 != has w 1)
  let back (z : Cluster) (w k : Nat) : Cluster := setAccWord z (w / 32) (2 * (w % 32) + k) (accWord x (w / 32) (2 * (w % 32) + k))
  (part.foldl (fun z w => back (back z w 0) w 1) { y with
    accBad := x.accBad.filter (fun w => !(has w 0 && has w 1)), accTodo := x.accTodo.filter (fun w => !(has w 0 && has w 1)) }, part)

/-- Write those logical words for a job. -/
def emAccAt (j : Job) (written : Nat → Nat → Bool) (f : Cluster → Cluster) : EM Unit := do
  let x ← emClus
  let r := accSettle x (f x) written
  emModClus (fun _ => r.1)
  modify (fun s => reportBad s j.o r.2)

/-- Write columns below cn of n logical rows for a job. -/
def emAcc (j : Job) (row n cn : Nat) (f : Cluster → Cluster) : EM Unit :=
  emAccAt j (fun r c => decide (row ≤ r ∧ r < row + n ∧ c < cn)) f

/-! ## Tiles (R194, R199, R335) -/

/-- The latched tile of an owner. -/
def tileOf (x : Cluster) (owner : Nat) : Option Tile := x.tiles.find? (fun t => t.owner == owner)

/-- Replace the latched tile of an owner. -/
def latch (x : Cluster) (t : Tile) : Cluster := { x with tiles := x.tiles.filter (fun u => u.owner != t.owner) ++ [t] }

/-- A byte of ternary cells with every 0b10 made 0, and whether there was one (R199). -/
def ternByte (b : Nat) : Nat × Bool :=
  (span 0 4).foldl (fun a i => let p := b / 4 ^ i % 4; if p == 2 then (a.1, true) else (a.1 + p * 4 ^ i, a.2)) (0, false)

/-- The bits of cell (k, j) of the bytes of a tile (R194). -/
def tileElem (f : Fmt) (data : Mem) (k j : Nat) : Nat :=
  if f == .tern2 then (memGet data (16 * k + j / 4)).toNat / 4 ^ (j % 4) % 4
  else memNat data ((64 * k + j) * fmtBytes f) (fmtBytes f)

/-- The bits of cell (k, j) of a tile. -/
def tileCell (t : Tile) (k j : Nat) : Nat := tileElem t.fmt t.data k j

/-- A sum of two values of an accumulate format: modulo 2^32, or rounded RNE. -/
def accSum (f : Fmt) (a b : Nat) : Nat := if f == .int32 then (a + b) % 2 ^ 32 else (fpAdd f 0 a b).1

/-- A cell as a value of the accumulate format, which holds it exactly. -/
def cellAcc (f : Fmt) (v : Nat) : Nat := if accOf f == .int32 then intBits 32 (intVal f v) else (fpConvert f (accOf f) 0 false v).1

/-- The sum of the 64 cells of row k, in ascending column order (R199; DESIGN CHOICE, log 38: each step of a floating sum rounds RNE). -/
def rowSum (f : Fmt) (data : Mem) (k : Nat) : Nat := (span 0 64).foldl (fun a j => accSum (accOf f) a (cellAcc f (tileElem f data k j))) 0

/-- A tile with its column sums. -/
def mkTile (owner : Nat) (f : Fmt) (data : Mem) : Tile :=
  { owner := owner, fmt := f, data := data, sums := (span 0 (tileDepth f)).map (rowSum f data) }

/-- The tile that bytes latch as, with the flags of its cells. -/
def tileFrom (owner : Nat) (f : Fmt) (l : List Byte) : Tile × Nat :=
  if f == .tern2 then
    let r := l.map (fun b => ternByte b.toNat)
    (mkTile owner f (memWrite [] 0 (r.map (fun p => BitVec.ofNat 8 p.1))), if r.any (·.2) then flTern else 0)
  else (mkTile owner f (memWrite [] 0 l), 0)

/-! ## The chain (R101 to R103) -/

/-- A sum modulo 2^32 as bits, and whether it lies outside INT32. -/
def wrapSum (a b : Int) : Nat × Bool := (intBits 32 (a + b), decide (a + b < -(2 ^ 31 : Nat) ∨ (2 ^ 31 : Nat) ≤ a + b))

/-- One step of the chain: the new accumulator, its flags, and integer overflow. -/
def chainStep (w : Fmt) (x c acc : Nat) : Nat × Nat × Bool :=
  if accOf w == .int32 then
    let r := wrapSum (intVal .int32 acc) (intVal .int8 x * intVal w c)
    (r.1, 0, r.2)
  else
    let r := fpFmaIn (accOf w) w 0 x c acc
    (r.1, r.2, false)

/-- The chain of an activation row against column j of a tile, from cell k on. -/
def chainFrom (t : Tile) (j : Nat) : List Nat → Nat → Nat → Nat × Nat × Bool
  | [], _, acc => (acc, 0, false)
  | x :: xs, k, acc =>
    let r := chainStep t.fmt x (tileCell t k j) acc
    let u := chainFrom t j xs (k + 1) r.1
    (u.1, r.2.1 ||| u.2.1, r.2.2 || u.2.2)

/-- The status bits of flags and integer overflow. -/
def stepFlags (r : Nat × Nat × Bool) : BitVec 8 := jobFlags r.2.1 r.2.2

/-- Write a row's columns 0 to cn - 1 by the chain; gives the status bits (R102). -/
def chainRow (t : Tile) (ovw : Bool) (row : Nat) (xs : List Nat) : Nat → Nat → Cluster × BitVec 8 → Cluster × BitVec 8
  | 0, _, a => a
  | n + 1, j, a =>
    let f := accOf t.fmt
    let r := chainFrom t j xs 0 (if ovw then 0 else accGet a.1 f row j)
    chainRow t ovw row xs n (j + 1) (accPut a.1 f row j r.1, a.2 ||| stepFlags r)

/-- The chains of consecutive rows. -/
def chainRows (t : Tile) (ovw : Bool) (cn : Nat) : Nat → List (List Nat) → Cluster × BitVec 8 → Cluster × BitVec 8
  | _, [], a => a
  | row, xs :: l, a => chainRows t ovw cn (row + 1) l (chainRow t ovw row xs cn 0 a)

/-! ## The checksum column (R201) -/

/-- A finite value of a format as an integer times a power of two; none for an infinity or a NaN. -/
def dyOf (f : Fmt) (v : Nat) : Option (Int × Int) :=
  match fpDecode f v with
  | .fin s m e => some (if s then -(m : Int) else m, e)
  | .inf _ => none
  | .nan _ _ _ => none

/-- A list all of whose entries are there. -/
def allSome {α : Type} : List (Option α) → Option (List α)
  | [] => some []
  | none :: _ => none
  | some a :: l => (allSome l).map (a :: ·)

/-- The sum of such numbers. -/
def dySum (l : List (Int × Int)) : Int × Int :=
  let e := l.foldl (fun a p => min a p.2) ((l.map (·.2)).headD 0)
  ((l.map (fun p => p.1 * 2 ^ (p.2 - e).toNat)).sum, e)

/-- The magnitude of such a number. -/
def dyAbs (p : Int × Int) : Int × Int := ((p.1.natAbs : Int), p.2)

/-- The product of two. -/
def dyMul (p q : Int × Int) : Int × Int := (p.1 * q.1, p.2 + q.2)

/-- a ≤ b. -/
def dyLe (a b : Int × Int) : Bool := decide (a.1 * 2 ^ (a.2 - min a.2 b.2).toNat ≤ b.1 * 2 ^ (b.2 - min a.2 b.2).toNat)

/-- What the 64 columns of a row compute, whatever CN is. -/
def rowOuts (t : Tile) (ovw : Bool) (x : Cluster) (row : Nat) (xs : List Nat) : List Nat :=
  (span 0 64).map (fun j => (chainFrom t j xs 0 (if ovw then 0 else accGet x (accOf t.fmt) row j)).1)

/-- c: the chain of a row against the column sums, from the sum of what the row's columns hold, or from 0 under OVW (DEDUCED, log 38). -/
def rowCheck (t : Tile) (ovw : Bool) (x : Cluster) (row : Nat) (xs : List Nat) : Nat :=
  let f := accOf t.fmt
  let c0 := if ovw then 0 else (span 0 64).foldl (fun a j => accSum f a (accGet x f row j)) 0
  (xs.zip t.sums).foldl (fun a p =>
    if f == .int32 then intBits 32 (intVal .int32 a + intVal .int8 p.1 * intVal .int32 p.2)
    else (fpFma f 0 (fpConvert t.fmt f 0 false p.1).1 p.2 a).1) c0

/-- The floating condition of R201, where every value is finite: |c − Σ out| · 2^(p−8) ≤ Σ |out| + Σ |x_k|·S_k. A row with an infinity or a
NaN in it has no such condition, and passes (DESIGN CHOICE, log 38). -/
def floatPasses (t : Tile) (c : Nat) (outs xs : List Nat) : Bool :=
  let f := accOf t.fmt
  let p : Nat := if f == .fp64 then 53 else 24
  let wt (k : Nat) : Option (List (Int × Int)) := allSome ((span 0 64).map (fun j => dyOf t.fmt (tileCell t k j)))
  let xw := ((span 0 xs.length).zip xs).map (fun q =>
    match dyOf t.fmt q.2, wt q.1 with
    | some x, some ws => some (dyMul (dyAbs x) (dySum (ws.map dyAbs)))
    | _, _ => none)
  match dyOf f c, allSome (outs.map (dyOf f)), allSome xw with
  | some cv, some os, some ps =>
    let diff := dySum (cv :: os.map (fun o => (-o.1, o.2)))
    dyLe (diff.1.natAbs, diff.2 + ((p - 8 : Nat) : Int)) (dySum (os.map dyAbs ++ ps))
  | _, _, _ => true

/-- The checksum of a streamed row passes (R201). -/
def rowPasses (t : Tile) (ovw : Bool) (x : Cluster) (row : Nat) (xs : List Nat) : Bool :=
  let outs := rowOuts t ovw x row xs
  let c := rowCheck t ovw x row xs
  if accOf t.fmt == .int32 then c == outs.sum % 2 ^ 32 else floatPasses t c outs xs

/-- The checksums of a block of rows pass. -/
def blockPasses (t : Tile) (ovw : Bool) (x : Cluster) (row : Nat) (l : List (List Nat)) : Bool :=
  ((span row l.length).zip l).all (fun p => rowPasses t ovw x p.1 p.2)

/-- Columns 0 to cn - 1 of rows, each word given by its row and column. -/
def fillRows (row n cn : Nat) (f : Nat → Nat → BitVec 32) (x : Cluster) : Cluster :=
  (span row n).foldl (fun t i => (span 0 cn).foldl (fun u c => setAccWord u i c (f i c)) t) x

/-! ## Images (R205) -/

/-- The slots a launch holds, ascending. -/
def slotsOf (x : Cluster) (lid : BitVec 32) : List Nat := (span 0 256).filter (slotOwned x lid)

/-- SLOTMAP as a number of 256 bits. -/
def slotMap (l : List Nat) : Nat := l.foldl (fun v i => v + 2 ^ i) 0

/-- Bytes of an image. -/
def imageSize (hw ns np : Nat) : Nat := 256 + 256 * hw + 32768 + slotBytes * ns + 64 * np

/-- A pending record (R205), with the pushing task's timestamp without its child offset. -/
def recordBytes (s : State) (j : Job) : List Byte :=
  leBytes 32 j.cmd.toNat ++ leBytes 8 (elAddr s j.o.el + j.jid.toNat * 2 ^ 32) ++ leBytes 8 j.now.toNat ++ leBytes 8 j.o.lid.toNat
    ++ leBytes 8 0

/-- The header of an image. -/
def imageHeader (tile : Option Tile) (hw : Nat) (slots : List Nat) (np : Nat) (lid : BitVec 32) (prog : Option Nat) : List Byte :=
  let m := slotMap slots
  let tf := match tile with | some t => (fmtCode t.fmt).toNat * 2 ^ 16 + 2 ^ 14 | none => 0
  leBytes 8 (0x4B344D53 + 2 ^ 32) ++ leBytes 8 (hw + tf) ++ leBytes 8 (slots.length + np * 2 ^ 16) ++ leBytes 8 lid.toNat
    ++ leBytes 8 (imageSize hw slots.length np) ++ leBytes 32 m
    ++ leBytes 8 (match prog with | some p => p + 2 ^ 13 | none => 0) ++ List.replicate 176 (0 : Byte)

/-- The bytes of logical rows. -/
def rowsBytes (x : Cluster) (hw : Nat) : List Byte :=
  (span 0 hw).flatMap (fun r => (span 0 64).flatMap (fun c => leBytes 4 (accWord x r c).toNat))

/-- The 32,768 bytes of a latched tile. -/
def tileBytes (tile : Option Tile) : List Byte :=
  match tile with
  | some t => memRead t.data 0 (tileSize t.fmt) ++ List.replicate (32768 - tileSize t.fmt) (0 : Byte)
  | none => List.replicate 32768 (0 : Byte)

/-- The bytes of slots. -/
def slotsBytes (x : Cluster) (slots : List Nat) : List Byte := slots.flatMap (fun i => opmBytes x (i * slotBytes) slotBytes)

/-- The command word of a record. -/
def recordCmd (l : List Byte) : BitVec 256 := BitVec.ofNat 256 (leNat (l.take 32))

/-- A record's command word is one of the engine's, with every rsv bit 0, and so are the rsv bits beside its element and its launch (R78,
R80, R205). A word that no ENQ would have let into the engine's queue is refused like one with a wrong rsv bit (DESIGN CHOICE, log 54). -/
def recordHeadOk (eng : Nat) (l : List Byte) : Bool :=
  let d := bytesDwords l
  (decodeCmd (recordCmd l)).isSome && Decode.engineOf (cmdOpc (recordCmd l)) == some eng && fld (dwAt d 4) 31 27 == 0 && fld (dwAt d 6) 63 32 == 0

/-- The rsv bits of every record of an image are 0, dword 7 among them (R205, R208). -/
def recordsOk (l : List Byte) : Bool := (pieces 64 l).all (fun r => recordHeadOk 0 r && dwAt (bytesDwords r) 7 == 0)

/-- MAGIC, VERSION and the rsv bits of an image's header (R205). -/
def imageRsvOk (h : List Dword) : Bool :=
  let d (i : Nat) : Dword := dwAt h i
  (d 0).toNat == 0x4B344D53 + 2 ^ 32 && fld (d 1) 63 20 == 0 && !dbit (d 1) 15
    && fld (d 2) 63 23 == 0 && fld (d 2) 15 9 == 0 && fld (d 3) 63 32 == 0 && fld (d 9) 63 14 == 0
    && (h.drop 10).all (· == 0)

/-- The header checks of MRESTORE on its 32 dwords (R205, R208). -/
def imageOk (h : List Dword) : Bool :=
  let d (i : Nat) : Dword := dwAt h i
  let m := (d 5).toNat + (d 6).toNat * 2 ^ 64 + (d 7).toNat * 2 ^ 128 + (d 8).toNat * 2 ^ 192
  imageRsvOk h && decide (fld (d 2) 22 16 ≤ 64) && fld (d 2) 8 0 == popCount m 256
    && (!dbit (d 1) 14 || (match fmtOfCode (BitVec.ofNat 4 (fld (d 1) 19 16)) with | some f => weightFmt f | none => false))

/-- The slots that SLOTMAP names. -/
def imageSlots (h : List Dword) : List Nat := (span 0 256).filter (fun i => dbit (dwAt h (5 + i / 64)) (i % 64))

/-- Where the records of an image begin: behind its rows, its tile and its slots. -/
def recordsAt (h : List Dword) : Nat := 256 + 256 * fld (dwAt h 1) 13 0 + 32768 + slotBytes * (imageSlots h).length

/-- The number of an image's records: NP. -/
def imageNp (h : List Dword) : Nat := fld (dwAt h 2) 22 16

/-- Write slots from consecutive bytes. -/
def putSlots (x : Cluster) : List Nat → List Byte → Cluster
  | [], _ => x
  | i :: is, l => putSlots (opmWrite x (i * slotBytes) (l.take slotBytes)) is (l.drop slotBytes)

/-- Write logical rows 0 on from their bytes. -/
def putRows (x : Cluster) (hw : Nat) (l : List Byte) : Cluster :=
  ((span 0 (64 * hw)).zip (pieces 4 l)).foldl (fun t p => setAccWord t (p.1 / 64) (p.1 % 64) (BitVec.ofNat 32 (leNat p.2))) x

/-- The job that a pending record stands for; prog is the rows its stream has done. -/
def jobOfRecord (s : State) (l : List Byte) (prog : Nat) : Job :=
  let d := bytesDwords l
  let lid := BitVec.ofNat 32 (fld (dwAt d 6) 31 0)
  let jid := BitVec.ofNat 32 (fld (dwAt d 4) 63 32)
  let o : Origin := { el := fld (dwAt d 4) 26 0 % elCount, chan := 0, mode := bnat (Config.replaySuper s.tick jid), ts := dwAt d 5,
                      lid := lid, asid := lidAsid s lid }
  { newJob jid (recordCmd l) (dwAt d 5) o with prog := prog }

end Sys2Proof.Machine
end

