-- ==== Sys2Proof/Machine/Operands.lean ====
section
/-! DEFINITION. Operand forms of the scalar groups: two sources, one source, an immediate, floating operands (R92, R108, R112,
R113). Sources are read, a before b, before the destination is written. -/

namespace Sys2Proof.Machine

/-- w[d] := f(w[a], w[b]). -/
def op2 (w : Dword) (d a b : Reg) (f : Dword → Dword → Dword) : M Unit := do
  let x ← readReg w a
  let y ← readReg w b
  writeReg w d (f x y)

/-- w[d] := f(w[a]). -/
def op1 (w : Dword) (d a : Reg) (f : Dword → Dword) : M Unit := do
  let x ← readReg w a
  writeReg w d (f x)

/-- w[d] := w[a] when the condition on w[b] holds; the ports of a and b are read in any case (R111). -/
def opIf (w : Dword) (d a b : Reg) (c : Dword → Bool) : M Unit := do
  let x ← readReg w a
  let y ← readReg w b
  if c y then writeReg w d x else pure ()

/-- A 16-bit immediate, sign-extended. -/
def simm (i : BitVec 16) : Dword := i.signExtend 64

/-- A 16-bit immediate, zero-extended. -/
def zimm (i : BitVec 16) : Dword := i.setWidth 64

/-- 1 or 0 in all 64 bits. -/
def boolW (b : Bool) : Dword := if b then 1 else 0

/-- The format of the FPU group's sh field (R67). -/
def fpFmt : FpFmt → Fmt
  | .fp32 => .fp32 | .fp64 => .fp64 | .bf16 => .bf16

/-- A floating source: the low bits of the register (R92). -/
def fpSrc (f : Fmt) (v : Dword) : Nat := v.toNat % 2 ^ fmtBits f

/-- A floating operation of two sources, its flags ORed into FPFLAGS; the result is zero-extended (R92, R113). -/
def fop2 (w : Dword) (d a b : Reg) (f : Fmt) (op : Nat → Nat → Nat → Nat × Nat) : M Unit := do
  let x ← readReg w a
  let y ← readReg w b
  let rm ← roundMode
  let r := op rm (fpSrc f x) (fpSrc f y)
  writeReg w d (dw r.1)
  raise r.2

/-- A floating operation of one source. -/
def fop1 (w : Dword) (d a : Reg) (f : Fmt) (op : Nat → Nat → Nat × Nat) : M Unit := do
  let x ← readReg w a
  let rm ← roundMode
  let r := op rm (fpSrc f x)
  writeReg w d (dw r.1)
  raise r.2

/-- The result of a conversion as w[d] receives it: INT32 sign-extended, INT64 and FP64 whole, the others zero-extended
(R92, R116). -/
def cvtResult (f : Fmt) (v : Nat) : Dword := if f == .int32 then (BitVec.ofNat 32 v).signExtend 64 else dw v

end Sys2Proof.Machine
end

