-- ==== Sys2Proof/Machine/Atomic.lean ====
section
/-! DEFINITION. AMO (R120 to R122, R286) and FENCE (R123). -/

namespace Sys2Proof.Machine

/-- The operations of R120 on the old value, the operand, and the comparand of CAS, by aop code. -/
def amoNew (aop : Nat) (old v cmp : Dword) : Dword :=
  match aop with
  | 0 => old + v
  | 1 => old &&& v
  | 2 => old ||| v
  | 3 => old ^^^ v
  | 4 => if old.slt v then v else old
  | 5 => if old.slt v then old else v
  | 6 => if old.ult v then v else old
  | 7 => if old.ult v then old else v
  | 8 => v
  | 9 => if old == cmp then v else old
  | 10 => old
  | _ => v

/-- aop LOAD. -/
def aopLoad : Nat := 10
/-- aop CAS. -/
def aopCas : Nat := 9
/-- aop STORE. -/
def aopStore : Nat := 11

/-- Entries the immediate-atomic queue holds (R21). -/
def iqCap : Nat := 8

/-- An immediate atomic on another device's memory leaves as a request to its home, which performs it, and the old value comes back
(R121, R350; log 1); none where no route takes it, which is counted (R348), or no data comes. -/
def iatomSend (s : State) (e : Nat) (a : Iatom) : State × Option Dword :=
  let r := sendFab s (idieOf (dieOf e)) (winDev s a.pa) (.atomic (remotePa s a.pa) a.aop a.use a.v a.cmp s.regs.devnum)
  (r.1, if r.2 then physDword s a.pa else none)

/-- Perform an immediate atomic at its home; gives the old value, or none when the memory has been lost meanwhile (R286, R315). -/
def iatomDo (s : State) (e : Nat) (a : Iatom) : State × Option Dword :=
  if paRegion a.pa == 8 then iatomSend s e a
  else
  match physDword s a.pa with
  | none => (s, none)
  | some old =>
    if a.aop == aopLoad then (s, some old)
    else
      let r := physWrite s a.pa (leBytes 8 (amoNew a.aop old a.v a.cmp).toNat) a.codec
      (reportErrs r.1 (originOf s e) r.2, some old)

/-- An immediate atomic of another device, at its home (R350). -/
def remoteAtomic (s : State) (pa aop : Nat) (v cmp : Dword) : State × Option Dword :=
  match physDword s pa with
  | none => (s, none)
  | some old => if aop == aopLoad then (s, some old) else (physPutDword s pa (amoNew aop old v cmp), some old)

/-- The response to another device's access: it leaves by the route table of the I-die that the port lies on, or is dropped there and
counted (R347, R348, R350). -/
def answerPeer (s : State) (p : Peer) (data : Option (List Byte)) : State :=
  (sendFab s (p.port / 8) p.dev.toNat (.answer data)).1

/-- An immediate atomic of the queue has its home within a scope (R123). -/
def fenceHolds (c scope : Nat) (l : List Iatom) : Bool := l.any (fun a => decide (homeScope c a.pa ≤ scope))

/-- The k-th entry of an element's queue has freed: an element that waits for room goes on when it was the oldest (R122); a FENCE is
complete when no entry within its scope is left (R123). -/
def wake (e k : Nat) (x : Elem) : Elem :=
  match x.stall with
  | .none => x
  | .full => x
  | .value => x
  | .room => if k == 0 then { x with stall := .none } else x
  | .fence scope =>
    if fenceHolds (clOf e) scope x.iq then x else { x with seq := seqNext x.seq, afterEret := false, stall := .none }

/-- What the atomic of the k-th entry leaves at its element once it has been performed: an element that awaits its old value writes it
to w[d] and moves on; one that waits for room or inside a FENCE may go on. Where the memory has been lost, the trap of R371 is taken
at the waiting AMO, and a posted one raises the machine check alone. -/
def iatomBack (s : State) (e k : Nat) (a : Iatom) (old : Option Dword) : State :=
  if a.d == 0 then
    modElem (if old.isNone then mcheck s (dieOf e) 1 a.va e (originOf s e).ts (originOf s e).lid else s) e (wake e k)
  else
    match old with
    | some v =>
      modElem s e (fun x => { lsWrite x (wOff x a.d) 8 v.toNat with seq := seqNext x.seq, afterEret := false, stall := .none })
    | none =>
      let t := { (modElem s e (fun x => { x with stall := .none })) with cur := e }
      { takeTrap (noteMcheck t cMCHECK a.va) cMCHECK a.va with cur := s.cur }

/-- The IATOM step of the k-th entry of an element's queue: performed, or, for a quantum operation, held at its home (R286). -/
def iatomStep (s : State) (e k : Nat) : State :=
  let x := elem s e
  match x.iq[k]? with
  | none => s
  | some a =>
    if a.held then s
    else if a.use == .quant then
      let r := if paRegion a.pa == 8 then iatomSend s e a else (s, some 0)
      if r.2.isNone then iatomBack (modElem r.1 e (fun y => { y with iq := dropAt y.iq k })) e k a none
      else
        { (modElem r.1 e (fun y => { y with iq := y.iq.set k { a with held := true } })) with
          quants := s.quants ++ [{ el := e, a := { a with held := true }, peer := none }] }
    else
      let r := iatomDo (modElem s e (fun y => { y with iq := dropAt y.iq k })) e a
      iatomBack r.1 e k a r.2

/-- An earlier atomic that has not reached its home must go before a later one: homes in one cluster, or non-ordering ones to one address
(R286). -/
def mustPrecede (a b : Iatom) : Bool :=
  !a.held && ((paRegion a.pa == 3 && paRegion b.pa == 3 && spCluster a.pa == spCluster b.pa)
    || (a.use == .nord && b.use == .nord && a.pa == b.pa))

/-- The element waits. -/
def waitAtomic {α : Type} (s : State) (w : Stall) : M α := throw (.wait (modCur s (fun x => { x with stall := w })))

/-- Room in the queue: the element waits until its oldest entry frees (R122). -/
def iqRoom : M Unit := do
  let s ← get
  if (curElem s).iq.length < iqCap then pure () else waitAtomic s .room

/-- An immediate atomic (R121, R122) joins the queue, from which its IATOM takes it. A posted one retires; with w[d] to come the element
stays at the instruction until its IATOM has returned the old value. -/
def immediate (a : Iatom) (d : Reg) : M Unit := do
  let s0 ← get
  if (physDword s0 a.pa).isNone then do
    modify (fun t => noteLost t (idieOf (dieOf t.cur)) a.pa)
    trap cMCHECK a.va
  else do
    iqRoom
    if d == 0 then modE (fun x => { x with iq := x.iq ++ [a] })
    else do
      logUndo (wOff (curElem s0) d.toNat / 8)
      let s ← get
      throw (.wait (modCur s (fun x => { x with iq := x.iq ++ [a], stall := .value })))

/-- The operand of an AMO, and the comparand of CAS: the registers it reads (R120). -/
def amoArgs (w : Dword) (aop : Nat) (d b : Reg) : M (Dword × Dword) := do
  let v ← if aop == aopLoad then pure 0 else readReg w b
  let cmp ← if aop == aopCas then readReg w d else pure 0
  pure (v, cmp)

/-- AMO (R120): the operation of an aop code under a use, once the checks of R117 have passed. -/
def amoOp (w : Dword) (aop : Nat) (d : Reg) (bf : BitVec 4) (x b : Reg) (use : AmoUse) : M Unit := do
  bfPriv w bf.toNat
  let base ← readReg w x
  let a ← checkAt w (if aop == aopLoad then .load else .rmw) bf.toNat base.toNat 8
  match a with
  | .zero => writeReg w d 0
  | .loc off =>
    if use != .spec then trap cPROT (lsVa off)
    else do
      let args ← amoArgs w aop d b
      let old := dw (leNat (← lsLoad off 8))
      if aop == aopLoad then pure () else lsStore off 8 (amoNew aop old args.1 args.2).toNat
      writeReg w d old
  | .phys pa va codec untr => do
    let args ← amoArgs w aop d b
    if use == .spec then do
      let old := dw (leNat (← readTracked pa va 8 untr))
      if aop == aopLoad then pure () else writeBuffer pa codec (leBytes 8 (amoNew aop old args.1 args.2).toNat)
      writeReg w d old
    else
      immediate { pa := pa, va := dw va, codec := codec, aop := aop, v := args.1, cmp := args.2, use := use, d := d.toNat, held := false } d

/-- AMO_ADD (R120, R121). -/
def execAmoAdd (d : Reg) (bf : BitVec 4) (x b : Reg) (use : AmoUse) (s : State) : Host.Outcome State Fault Refusal :=
  perform (amoOp (instrWord (.amoAdd d bf x b use)) 0 d bf x b use) s

/-- AMO_AND (R120, R121). -/
def execAmoAnd (d : Reg) (bf : BitVec 4) (x b : Reg) (use : AmoUse) (s : State) : Host.Outcome State Fault Refusal :=
  perform (amoOp (instrWord (.amoAnd d bf x b use)) 1 d bf x b use) s

/-- AMO_OR (R120, R121). -/
def execAmoOr (d : Reg) (bf : BitVec 4) (x b : Reg) (use : AmoUse) (s : State) : Host.Outcome State Fault Refusal :=
  perform (amoOp (instrWord (.amoOr d bf x b use)) 2 d bf x b use) s

/-- AMO_XOR (R120, R121). -/
def execAmoXor (d : Reg) (bf : BitVec 4) (x b : Reg) (use : AmoUse) (s : State) : Host.Outcome State Fault Refusal :=
  perform (amoOp (instrWord (.amoXor d bf x b use)) 3 d bf x b use) s

/-- AMO_MAX (R120, R121). -/
def execAmoMax (d : Reg) (bf : BitVec 4) (x b : Reg) (use : AmoUse) (s : State) : Host.Outcome State Fault Refusal :=
  perform (amoOp (instrWord (.amoMax d bf x b use)) 4 d bf x b use) s

/-- AMO_MIN (R120, R121). -/
def execAmoMin (d : Reg) (bf : BitVec 4) (x b : Reg) (use : AmoUse) (s : State) : Host.Outcome State Fault Refusal :=
  perform (amoOp (instrWord (.amoMin d bf x b use)) 5 d bf x b use) s

/-- AMO_MAXU (R120, R121). -/
def execAmoMaxu (d : Reg) (bf : BitVec 4) (x b : Reg) (use : AmoUse) (s : State) : Host.Outcome State Fault Refusal :=
  perform (amoOp (instrWord (.amoMaxu d bf x b use)) 6 d bf x b use) s

/-- AMO_MINU (R120, R121). -/
def execAmoMinu (d : Reg) (bf : BitVec 4) (x b : Reg) (use : AmoUse) (s : State) : Host.Outcome State Fault Refusal :=
  perform (amoOp (instrWord (.amoMinu d bf x b use)) 7 d bf x b use) s

/-- AMO_SWAP (R120, R121). -/
def execAmoSwap (d : Reg) (bf : BitVec 4) (x b : Reg) (use : AmoUse) (s : State) : Host.Outcome State Fault Refusal :=
  perform (amoOp (instrWord (.amoSwap d bf x b use)) 8 d bf x b use) s

/-- AMO_CAS (R120, R121). -/
def execAmoCas (d : Reg) (bf : BitVec 4) (x b : Reg) (use : AmoUse) (s : State) : Host.Outcome State Fault Refusal :=
  perform (amoOp (instrWord (.amoCas d bf x b use)) 9 d bf x b use) s

/-- AMO_LOAD (R120, R121): no write at the home. -/
def execAmoLoad (d : Reg) (bf : BitVec 4) (x : Reg) (use : AmoUse) (s : State) : Host.Outcome State Fault Refusal :=
  perform (amoOp (instrWord (.amoLoad d bf x use)) aopLoad d bf x 0 use) s

/-- AMO_STORE (R120, R121): no old value is written. -/
def execAmoStore (bf : BitVec 4) (x b : Reg) (use : AmoUse) (s : State) : Host.Outcome State Fault Refusal :=
  perform (amoOp (instrWord (.amoStore bf x b use)) aopStore 0 bf x b use) s

/-- FENCE (R123): the element waits until every earlier immediate atomic whose home lies within the scope has been performed. -/
def fenceOp (scope : Nat) : M Unit := do
  let s ← get
  if fenceHolds (clOf s.cur) scope (curElem s).iq then waitAtomic s (.fence scope) else pure ()

/-- FENCE (R123). -/
def execFence (scope : BitVec 2) (s : State) : Host.Outcome State Fault Refusal := perform (fenceOp scope.toNat) s

end Sys2Proof.Machine
end

