-- ==== Sys2Proof/Machine/Cf.lean ====
section
/-! DEFINITION. The homes of the confluence objects (R219 to R229, R107): what a bank does with an operation that reaches it. -/

namespace Sys2Proof.Machine

/-! ## Fields of a block (R224, R226, R228) -/

/-- HANDLE. -/
def cfHandle (op : CfOp) : Dword := dwAt op.block 0
/-- D1. -/
def cfD1 (op : CfOp) : Dword := dwAt op.block 1
/-- GEN. -/
def cfGen (op : CfOp) : Nat := fld (cfD1 op) 15 0
/-- FREE of CFOPEN. -/
def cfFree (op : CfOp) : Bool := dbit (cfD1 op) 31
/-- NL of CFOPEN. -/
def cfNl (op : CfOp) : Nat := fld (cfD1 op) 23 16 + 1
/-- W of CFOPEN. -/
def cfW (op : CfOp) : Int := (BitVec.ofNat 7 (fld (cfD1 op) 30 24)).toInt
/-- CONTRIB of CFPOST; 0 for other operations (R221). -/
def cfContrib (op : CfOp) : Nat := if op.sub == 3 then fld (cfD1 op) 21 16 else 0
/-- COND of CFPOST. -/
def postCond (op : CfOp) : Bool := dbit (cfD1 op) 23
/-- NULL of CFPOST. -/
def postNull (op : CfOp) : Bool := dbit (cfD1 op) 22
/-- The format of a post's terms. -/
def postFmt (op : CfOp) : Fmt := if fld (cfD1 op) 27 24 == 1 then .fp32 else .bf16
/-- OFF of CFPOST. -/
def postOff (op : CfOp) : Nat := fld (cfD1 op) 41 28
/-- The number of terms of a post. -/
def postCnt (op : CfOp) : Nat := fld (cfD1 op) 55 42 + 1
/-- SCHAN of CFPOST. -/
def postChan (op : CfOp) : Nat := fld (cfD1 op) 61 56
/-- OFF of CFREAD. -/
def readOff (op : CfOp) : Nat := fld (cfD1 op) 47 34
/-- The number of outputs of a read. -/
def readCnt (op : CfOp) : Nat := fld (cfD1 op) 61 48 + 1
/-- The format of a read's outputs. -/
def readFmt (op : CfOp) : Fmt := if fld (cfD1 op) 27 24 == 0 then .fp64 else if fld (cfD1 op) 27 24 == 1 then .fp32 else .bf16
/-- CCHAN of CFREAD. -/
def readChan (op : CfOp) : Nat := fld (cfD1 op) 33 28
/-- The lateness limit of CFREAD. -/
def readLate (op : CfOp) : Nat := fld (cfD1 op) 23 16
/-- The required mask. -/
def readQ (op : CfOp) : Dword := dwAt op.block 2
/-- The optional mask. -/
def readO (op : CfOp) : Dword := dwAt op.block 3

/-! ## Objects -/

/-- Where a handle's object lies: the die, and the key of its table (R30). -/
def cfPlace (h : Dword) : Nat × Nat := (fld h 47 46, fld h 45 42 * 8192 + fld h 41 29)

/-- A handle of this device names an object (R30). -/
def cfNamed (s : State) (h : Dword) : Bool := fld h 63 48 == s.regs.devnum.toNat && fld h 28 0 == 0

/-- The object of a handle. -/
def cfObj (s : State) (h : Dword) : CfObj := tget (die s (cfPlace h).1).cf (cfPlace h).2 CfObj.reset

/-- Replace the object of a handle. -/
def setCf (s : State) (h : Dword) (o : CfObj) : State :=
  modDie s (cfPlace h).1 (fun d => { d with cf := tput d.cf (cfPlace h).2 o })

/-- Lanes of an object. -/
def cfLanes (o : CfObj) : Nat := 64 * o.nl

/-- A lane as a signed integer. -/
def laneInt (o : CfObj) (i : Nat) : Int := (tget o.lanes i (0 : Dword)).toInt

/-- The lanes that the other objects of a handle's bank hold (R220). -/
def bankLanes (s : State) (h : Dword) : Nat :=
  let p := cfPlace h
  ((die s p.1).cf.filter (fun o => o.1 / 8192 == p.2 / 8192 && o.1 != p.2 && o.2.state != 0)).foldl (fun n o => n + cfLanes o.2) 0

/-- Lanes a bank holds: 4 MiB (R220). -/
def bankCap : Nat := 524288

/-! ## Status codes (R221) and messages -/

/-- The counter of a status code: DUP, LATE, SQUASH, WINDOW, EXITED, PARKFULL, NOTOWNER, READBUSY (R219). -/
def cfCounter (code : Nat) : Option Nat :=
  match code with
  | 1 => some 0 | 2 => some 1 | 3 => some 2 | 5 => some 3 | 6 => some 4 | 9 => some 5 | 10 => some 6 | 11 => some 7 | _ => none

/-- Count a refusal, saturating. -/
def cfCount (o : CfObj) (code : Nat) : CfObj :=
  match cfCounter code with
  | none => o
  | some k => { o with counts := tmod o.counts k 0 (fun v => if v == BitVec.allOnes 16 then v else v + 1) }

/-- Count a refusal at a handle's object. -/
def countAt (s : State) (h : Dword) (code : Nat) : State :=
  if (cfCounter code).isSome then setCf s h (cfCount (cfObj s h) code) else s

/-- D1 of a message of a bank (R221). -/
def cfWord (s : State) (op : CfOp) (code : Nat) : Dword :=
  dw (cfGen op + cfContrib op * 2 ^ 16 + code * 2 ^ 24 + s.roundNo % 2 ^ 32 * 2 ^ 32)

/-- The unit of a handle's bank. -/
def bankUnit (h : Dword) : Nat := uBank (fld h 47 46) (fld h 45 42)

/-- A message of a bank to the issuing element. -/
def cfSend (s : State) (op : CfOp) (ch : Nat) (payload : List Dword) : State :=
  sendMsg s (bankUnit (cfHandle op)) (origAddr s op.o) ch payload 0 op.o.ts op.o.lid 0 none

/-- A status message to a channel; none to channel 0 of a post. -/
def cfStatus (s : State) (op : CfOp) (ch code : Nat) : State :=
  if ch == 0 then s else cfSend s op ch [cfHandle op, cfWord s op code]

/-- The machine check of a post or a read that meets poison: code 9, with an address (R371). -/
def cfMcheck (s : State) (op : CfOp) (addr : Dword) : State :=
  let d := (cfPlace (cfHandle op)).1
  let r := mcRecord s d 9 addr (origAddr s op.o)
  errTo r.1 op.o 11 9 addr (dw r.2)

/-! ## Posts (R227) -/

/-- The lane integer of a term: RNE(t * 2^-W), none for a NaN, an infinity, or a magnitude of 2^56 and more (R107). -/
def termInt (f : Fmt) (w : Int) (t : Nat) : Option Int :=
  match fpDecode f t with
  | .nan _ _ _ => none
  | .inf _ => none
  | .fin s m e =>
    let q := if 0 ≤ e - w then m <<< (e - w).toNat else (roundShift 0 s m (w - e).toNat).1
    if q < 2 ^ 56 then some (if s then -(q : Int) else q) else none

/-- The device of an operation's issuer, where it is another one. -/
def opPeer (op : CfOp) : Option Nat := if op.o.el < elCount then none else some ((op.o.el - elCount) / 2048)

/-- Read bytes through an address that a post captured: at its home in this package, or by a request to the issuer's device, whose answer is
free (R226, R350; log 1). -/
def readCaptured (s : State) (op : CfOp) (pa n : Nat) : Option (List Byte) :=
  match opPeer op with
  | none => physRead s pa n
  | some d =>
    if (routePort s d).isSome && (span (pa / 64) ((pa + n - 1) / 64 + 1 - pa / 64)).all (Config.remoteReachable s.tick (BitVec.ofNat 16 d)) then
      some ((span pa n).map (Config.remoteByte s.tick (BitVec.ofNat 16 d)))
    else none

/-- The terms of a post as its home takes them: as they were sent, or, with COND, as memory holds them now, read through the captured
addresses; none when one cannot be read. -/
def homeTerms (s : State) (op : CfOp) : Option (List (BitVec 32)) :=
  if postCond op then
    let bytes : Option (List Byte) := op.pages.foldl (fun acc p =>
      match acc, readCaptured s op p.1 p.2.1 with
      | some a, some l => some (a ++ l)
      | _, _ => none) (some [])
    bytes.map (fun l => (pieces (fmtBytes (postFmt op)) l).map (fun b => BitVec.ofNat 32 (leNat b)))
  else op.terms

/-- The address that a post's machine check names: the first captured page that cannot be read, or the source (log 17). -/
def badTerm (s : State) (op : CfOp) : Dword :=
  match op.pages.find? (fun p => (readCaptured s op p.1 p.2.1).isNone) with
  | some p => dw p.1
  | none => dwAt op.block 2

/-- The request of a bank for terms that no route takes is dropped, and counted on its die's I-die (R348). -/
def termsLost (s : State) (op : CfOp) : State :=
  let d := idieOf (cfPlace (cfHandle op)).1
  if !postCond op then s
  else
    match opPeer op with
    | some p => if (routePort s p).isNone then countDrop s d else s
    | none => countLost s d (badTerm s op).toNat

/-- Add lane integers from a lane on. -/
def addLanes (lanes : Tbl Dword) : Nat → List Int → Tbl Dword
  | _, [] => lanes
  | i, q :: l => addLanes (tmod lanes i 0 (fun v => v + BitVec.ofInt 64 q)) (i + 1) l

/-- The outcome of a post is sent and counted. -/
def postEnd (s : State) (op : CfOp) (code : Nat) : State := cfStatus (countAt s (cfHandle op) code) op (postChan op) code

/-- Set a bit of the arrived mask. -/
def arrive (a : Dword) (c : Nat) : Dword := a ||| dw (2 ^ c)

/-- The last branch of R227. -/
def postAdd (s : State) (op : CfOp) : State :=
  let h := cfHandle op
  let o := cfObj s h
  let c := cfContrib op
  if postNull op then postEnd (setCf s h { o with a := arrive o.a c }) op 0
  else
    match homeTerms s op with
    | none => postEnd (cfMcheck (termsLost s op) op (badTerm s op)) op 16
    | some ts =>
      let qs := ts.map (fun t => termInt (postFmt op) o.w t.toNat)
      if qs.any (·.isNone) then postEnd s op 5
      else postEnd (setCf s h { o with a := arrive o.a c, lanes := addLanes o.lanes (postOff op) (qs.map (·.getD 0)) }) op 0

/-- The posting tests from DUP onward. -/
def postSettle (s : State) (op : CfOp) : State :=
  let h := cfHandle op
  let o := cfObj s h
  let c := cfContrib op
  if dbit o.a c then postEnd s op 1
  else if o.eset && !dbit o.e c then postEnd s op 3
  else if postCond op && !o.eset then
    if 8 ≤ o.parked.length then postEnd s op 9
    else cfStatus (setCf s h { o with parked := o.parked ++ [op] }) op (postChan op) 4
  else postAdd s op

/-! ## Reads (R229) -/

/-- The completion message of a read. -/
def readMsg (s : State) (op : CfOp) (code : Nat) (a : Dword) : State :=
  cfSend s op (readChan op) [cfHandle op, cfWord s op code, a, (readQ op ||| readO op) &&& ~~~a, dw s.roundNo]

/-- A completion without data. -/
def readEmpty (s : State) (op : CfOp) (code : Nat) : State := readMsg s op code 0

/-- The outputs of a read: each lane converted once (R107). -/
def readBytes (o : CfObj) (op : CfOp) : List Byte :=
  (span (readOff op) (readCnt op)).flatMap (fun i =>
    let v := laneInt o i
    leBytes (fmtBytes (readFmt op)) (fpRound (readFmt op) 0 false (decide (v < 0)) v.natAbs o.w).1)

/-- Write bytes through captured pages: for an element of this device at their homes, for another device's by the fabric. -/
def writePages (op : CfOp) : List (Nat × Nat × Nat) → List Byte → State → State
  | [], _, s => s
  | p :: ps, l, s =>
    let s1 :=
      if op.o.el < elCount then
        let r := physWrite s p.1 (l.take p.2.1) p.2.2
        r.2.foldl (fun t e => errTo t op.o e.kind (dw e.pa) 0 0) (countDrops r.1 (idieOf (cfPlace (cfHandle op)).1) r.2)
      else (sendFab s (idieOf (cfPlace (cfHandle op)).1) ((op.o.el - elCount) / 2048) (.write p.1 (l.take p.2.1) 0)).1
    writePages op ps (l.drop p.2.1) s1

/-- A read touches a poisoned lane. -/
def readBad (o : CfObj) (op : CfOp) : Bool := o.bad.any (fun i => decide (readOff op ≤ i ∧ i < readOff op + readCnt op))

/-- A completion with data, of a read that is no longer pending: 12 COMPLETE or 13 SEALEDINCOMPLETE; 17 WIDE in place of
COMPLETE; 16 POISON without data (R229, R315). -/
def readDone (s : State) (op : CfOp) (code : Nat) : State :=
  let o := cfObj s (cfHandle op)
  if readBad o op then readEmpty (cfMcheck s op (cfHandle op)) op 16
  else readMsg (writePages op op.pages (readBytes o op) s) op (if code == 12 && o.wide then 17 else code) o.a

/-- The required contributors have arrived. -/
def readReady (o : CfObj) (op : CfOp) : Bool := readQ op &&& ~~~o.a == 0

/-- The test of a pending read. -/
def readTest (s : State) (o : CfObj) (p : CfPend) : Bool :=
  readReady o p.op && (readO p.op &&& ~~~o.a == 0 || (readLate p.op != 255 && decide (p.start + readLate p.op ≤ s.roundNo)))

/-- Remove a pending read and complete it. -/
def readTake (s : State) (h : Dword) (p : CfPend) (code : Nat) : State :=
  let o := cfObj s h
  readDone (setCf s h { o with reads := o.reads.filter (· != p) }) p.op code

/-- Test the pending reads of an object, in order (R220). -/
def readTests (s : State) (h : Dword) : State :=
  (cfObj s h).reads.foldl (fun t p => if readTest t (cfObj t h) p then readTake t h p 12 else t) s

/-- Every pending read completes at once (R229). -/
def readsEnd (s : State) (h : Dword) : State :=
  (cfObj s h).reads.foldl (fun t p => readTake t h p (if readReady (cfObj t h) p.op then 12 else 13)) s

/-- Every parked post is refused with a code. -/
def parkedEnd (s : State) (h : Dword) (code : Nat) : State :=
  let o := cfObj s h
  o.parked.foldl (fun t p => postEnd t p code) (setCf s h { o with parked := [] })

/-! ## Management (R224, R225) -/

/-- The issuing task's launch is the owner, or the task runs in supervisor mode (R223). A FREE object has no owner, so every user task is
refused NOTOWNER there but for CFOPEN, also the launch that opened it (DESIGN CHOICE, log 49: R223 and R225 do not say which refusal
comes first). -/
def cfOwns (o : CfObj) (op : CfOp) : Bool := op.o.mode != 0 || (o.state != 0 && o.owner == op.o.lid)

/-- The home's checks of a management operation, in order: the status code of the refusal. -/
def cfRefuse (s : State) (op : CfOp) : Option Nat :=
  let h := cfHandle op
  let o := cfObj s h
  let same := o.gen.toNat == cfGen op
  if !cfNamed s h then some 7
  else if op.sub == 0 then
    if o.state != 0 && !cfOwns o op then some 10
    else if cfFree op then none
    else if cfGen op != (o.gen.toNat + 1) % 65536 then some 15
    else if bankCap < bankLanes s h + 64 * cfNl op then some 14
    else none
  else if !cfOwns o op then some 10
  else if op.sub == 1 || op.sub == 7 then (if same && (o.state == 1 || o.state == 2) then none else some 15)
  else if op.sub == 2 then (if same && o.state == 1 && !o.eset then none else some 15)
  else if same && o.state == 1 then none else some 15

/-- End pending reads and refuse parked posts LATE. -/
def cfClear (s : State) (h : Dword) : State := parkedEnd (readsEnd s h) h 2

/-- CFOPEN with FREE = 1, and what the end of the owner's launch does (R220, R225). The fields of a FREE object that R225 does not name
keep their values, and CFSTAT reads them (DESIGN CHOICE, log 49). -/
def cfRelease (s : State) (h : Dword) : State :=
  if (cfObj s h).state == 0 then s
  else
    let t := cfClear s h
    setCf t h { cfObj t h with state := 0, lanes := [], bad := [] }

/-- CFOPEN (R225). -/
def cfOpenDo (s : State) (op : CfOp) : State :=
  let h := cfHandle op
  if cfFree op then cfRelease s h
  else
    setCf (cfClear s h) h
      { state := 1, gen := BitVec.ofNat 16 (cfGen op), wide := false, nl := cfNl op, w := cfW op, owner := op.o.lid, a := 0,
        e := 0, eset := false, parked := [], reads := [], counts := [], exitl := 0, lanes := [], bad := [] }

/-- A kept lane has reached 2^62 in magnitude (R225). -/
def laneWide (o : CfObj) : Bool := o.lanes.any (fun l => decide (2 ^ 62 ≤ l.2.toInt.natAbs))

/-- CFNEXT (R225). -/
def cfNextDo (s : State) (op : CfOp) : State :=
  let h := cfHandle op
  let t := cfClear s h
  let o := cfObj t h
  setCf t h { o with gen := o.gen + 1, a := 0, e := 0, eset := false, state := 1, wide := o.wide || laneWide o }

/-- CFEXPECT (R225): the parked posts are settled in arrival order. -/
def cfExpectDo (s : State) (op : CfOp) : State :=
  let h := cfHandle op
  let o := cfObj s h
  o.parked.foldl postSettle (setCf s h { o with e := dwAt op.block 2, eset := true, parked := [] })

/-- CFSEAL (R225). -/
def cfSealDo (s : State) (op : CfOp) : State :=
  let h := cfHandle op
  readsEnd (parkedEnd (setCf s h { cfObj s h with state := 2 }) h 2) h

/-- EXITMARK (R225). -/
def cfExitDo (s : State) (op : CfOp) : State :=
  let h := cfHandle op
  parkedEnd (setCf s h { cfObj s h with state := 3, exitl := BitVec.ofNat 16 (fld (cfD1 op) 31 16) }) h 6

/-- A management operation at its home: refused with a status to channel 5, or done (R223, R225). -/
def cfManage (s : State) (op : CfOp) (act : State → CfOp → State) : State :=
  match cfRefuse s op with
  | some code => cfStatus (if code == 7 then s else countAt s (cfHandle op) code) op 5 code
  | none => readTests (act s op) (cfHandle op)

/-! ## Arrival (R220, R227, R229) -/

/-- A post at its home. -/
def cfPostDo (s : State) (op : CfOp) : State :=
  let h := cfHandle op
  let o := cfObj s h
  if !cfNamed s h then cfStatus s op (postChan op) 7
  else if o.state == 3 then readTests (postEnd s op 6) h
  else if o.state != 1 || o.gen.toNat != cfGen op then readTests (postEnd s op 2) h
  else if !postNull op && decide (cfLanes o < postOff op + postCnt op) then readTests (postEnd s op 8) h
  else readTests (postSettle s op) h

/-- A read at its home. -/
def cfReadDo (s : State) (op : CfOp) : State :=
  let h := cfHandle op
  let o := cfObj s h
  if !cfNamed s h then readEmpty s op 7
  else if o.state == 0 || o.gen.toNat != cfGen op then readTests (readEmpty (countAt s h 2) op 2) h
  else if cfLanes o < readOff op + readCnt op then readTests (readEmpty s op 8) h
  else if 8 ≤ o.reads.length then readTests (readEmpty (countAt s h 11) op 11) h
  else readTests (setCf s h { o with reads := o.reads ++ [{ op := op, start := s.roundNo }] }) h

/-- An operation that reaches its bank. -/
def cfApply (s : State) (op : CfOp) : State :=
  match op.sub with
  | 0 => cfManage s op cfOpenDo
  | 1 => cfManage s op cfNextDo
  | 2 => cfManage s op cfExpectDo
  | 3 => cfPostDo s op
  | 4 => cfReadDo s op
  | 5 => cfManage s op cfSealDo
  | _ => cfManage s op cfExitDo

/-- The pending reads of every object are tested at a round edge (R229). -/
def cfEdge (s : State) : State :=
  (span 0 4).foldl (fun t d =>
    (die t d).cf.foldl (fun u o => readTests u (dw (s.regs.devnum.toNat * 2 ^ 48 + d * 2 ^ 46 + o.1 * 2 ^ 29))) t) s

/-- The objects of a launch return to FREE when it ends (R220). -/
def cfLaunchEnd (s : State) (lid : BitVec 32) : State :=
  (span 0 4).foldl (fun t d =>
    ((die t d).cf.filter (fun o => o.2.state != 0 && o.2.owner == lid)).foldl
      (fun u o => cfRelease u (dw (s.regs.devnum.toNat * 2 ^ 48 + d * 2 ^ 46 + o.1 * 2 ^ 29))) t) s

end Sys2Proof.Machine
end

