-- ==== Sys2Proof/Machine/Task.lean ====
section
/-! DEFINITION. The TASK group (R143 to R149). -/

namespace Sys2Proof.Machine

/-- The result −1 of an instruction that is refused for want of room. -/
def minus1 : Dword := BitVec.allOnes 64
/-- The result −2 of an instruction whose operands are refused. -/
def minus2 : Dword := BitVec.allOnes 64 - 1

/-- A user task names a channel below 8 (R17). -/
def chanPriv (x : Elem) (ch : Nat) : Bool := modeOf x == 0 && decide (ch < 8)

/-! ## SEND and SENDM (R144) -/

/-- The destination addresses of a message: one, or those of the mask within a cluster. -/
def sendDests (multi : Bool) (ca : Dword) : List Nat :=
  if multi then ((span 0 8).filter (fun i => dbit ca (33 + i))).map (fun i => fld ca 26 3 * 8 + i) else [fld ca 26 0]

/-- The bits of the destination operand are as R144 asks. -/
def sendBitsOk (multi : Bool) (ca : Dword) : Bool :=
  if multi then fld ca 63 41 == 0 && fld ca 40 33 != 0 else fld ca 63 33 == 0

/-- No named element of this device is absent or unusable. -/
def destsOk (s : State) (ds : List Nat) : Bool :=
  ds.all (fun d => d / 2048 != s.regs.devnum.toNat || elUsable s (d % 2048))

/-- SEND and SENDM (R144). -/
def sendOp (w : Dword) (multi : Bool) (d a b : Reg) (len : Nat) : M Unit := do
  let ca ← readReg w a
  let pa ← readReg w b
  let x ← getE
  if chanPriv x (fld ca 32 27) then trap cPRIV w
  else do
    checkTs
    let payload ← readBlock pa len
    let s ← get
    let ds := sendDests multi ca
    if !sendBitsOk multi ca || !destsOk s ds then writeReg w d minus2
    else if obFull x then writeReg w d minus1
    else do
      outbox (.msg ds (fld ca 32 27) payload (originOf s s.cur))
      writeReg w d 0

/-- SEND (R144). -/
def execSend (d a b : Reg) (len1 : BitVec 5) (s : State) : Host.Outcome State Fault Refusal :=
  perform (sendOp (instrWord (.send d a b len1)) false d a b (len1.toNat + 1)) s

/-- SENDM (R144). -/
def execSendm (d a b : Reg) (len1 : BitVec 5) (s : State) : Host.Outcome State Fault Refusal :=
  perform (sendOp (instrWord (.sendm d a b len1)) true d a b (len1.toNat + 1)) s

/-! ## TEND and TABORT (R145, R146) -/

/-- TEND (R145, R138): ILLOP in a trap handler; otherwise the run is finished. -/
def execTend (s : State) : Host.Outcome State Fault Refusal :=
  performAs (do
    let x ← getE
    if stTrap x.csr.status then trap cILLOP (instrWord .tend) else modify (fun t => finishRun t t.cur)) s

/-- TABORT (R146). -/
def execTabort (defer : Bool) (s : State) : Host.Outcome State Fault Refusal :=
  performAs (modify (fun t => abortRunning t t.cur (if defer then .defer else .again))) s

/-! ## The handler table (R147) -/

/-- The rsv bits of a block of R13 are 0. -/
def chRsvOk (c : ChEntry) : Bool :=
  fld c.d0 63 55 == 0 && fld c.d0 1 0 == 0 && fld c.d1 63 42 == 0 && fld c.d1 31 18 == 0 && fld c.d1 2 0 == 0
    && fld c.d2 53 48 == 0 && fld c.d2 15 12 == 0 && fld c.d2 5 3 == 0

/-- The checks of R147 on a block. -/
def chEntryOk (s : State) (e : Nat) (c : ChEntry) : Bool :=
  chRsvOk c && c.trig != 3 && (if c.trig == 1 then decide (1 ≤ c.tcnt ∧ c.tcnt ≤ 16) else c.tcnt == 0)
    && wpOk (elem s e) c.wpo && !(c.trig == 1 && (neighbour s e c.tport).isNone)

/-- CHCFG (R147). -/
def execChcfg (a b : Reg) (s : State) : Host.Outcome State Fault Refusal :=
  perform (do
    let w := instrWord (.chcfg a b)
    let va ← readReg w a
    let ch ← readReg w b
    let l ← readBlock va 3
    let c : ChEntry := { d0 := dwAt l 0, d1 := dwAt l 1, d2 := dwAt l 2 }
    let t ← get
    if fld ch 63 6 != 0 || !chEntryOk t t.cur c then trap cILLOP w
    else if chanPriv (curElem t) ch.toNat || (modeOf (curElem t) == 0 && c.mode == 1) then trap cPRIV w
    else outbox (.chcfg ch.toNat c)) s

/-- CHMASK and CHUNMASK (R147). -/
def maskOp (w : Dword) (a : Reg) (m : Bool) : M Unit := do
  let ch ← readReg w a
  let x ← getE
  if fld ch 63 6 != 0 then trap cILLOP w
  else if chanPriv x ch.toNat then trap cPRIV w
  else outbox (.chmask ch.toNat m)

/-- CHMASK (R147). -/
def execChmask (a : Reg) (s : State) : Host.Outcome State Fault Refusal := perform (maskOp (instrWord (.chmask a)) a true) s

/-- CHUNMASK (R147). -/
def execChunmask (a : Reg) (s : State) : Host.Outcome State Fault Refusal := perform (maskOp (instrWord (.chunmask a)) a false) s

/-- TSSET (R148). -/
def execTsset (a : Reg) (s : State) : Host.Outcome State Fault Refusal :=
  perform (do
    let w := instrWord (.tsset a)
    let v ← readReg w a
    if fld v 63 32 != 0 then trap cILLOP w
    else modE (fun x => { x with csr := { x.csr with status := setChoff x.csr.status v.toNat } })) s

/-! ## LAUNCH (R149) -/

/-- Active launches the package holds. -/
def launchCap : Nat := 4096

/-- The dwords of a launch record from the i-th on, n of them, checked and read as loads through bfN that do not enter the
read set, with those before them and the line that this execution has read: each line outside local store is a step of its own (R277). -/
def recordLoads (w : Dword) (bf off : Nat) : Nat → Nat → List Nat → Option Nat → M (List Dword)
  | 0, _, got, _ => do
    endLoads
    pure (got.map dw)
  | n + 1, i, got, last => do
    let s ← get
    let x := curElem s
    if i < vdoneOf x then recordLoads w bf off n (i + 1) (got ++ [(vgotOf x).getD i 0]) last
    else do
      let a ← checkAt w .load bf (off + 8 * i) 8
      if last.isSome && (accLine a).isSome && last != accLine a then throw (.wait (modCur s (fun y => setVgot y i got)))
      else do
        let l ← loadAcc (match a with | .phys pa va c _ => .phys pa va c true | b => b) 8
        recordLoads w bf off n (i + 1) (got ++ [leNat l]) (if (accLine a).isSome then accLine a else last)

/-- The address space of a new launch: the record's, or the launching task's (R318). -/
def launchAsid (s : State) (x : Elem) (r : List Dword) : Nat := if recAsidOf r == 0 then lidAsid s x.csr.lid else recAsidOf r

/-- What LAUNCH does (R149). The record's alignment to 64 is checked before the loads, and so before the bounds and the high bits of its dwords, for
an address that fails both (DESIGN CHOICE, log 54: R149 names no order). -/
def launchOp (w : Dword) (d a : Reg) (n : Nat) : M Unit := do
  bfPriv w n
  let off ← readReg w a
  let x ← getE
  let va := recBase (bfReg x n) + off.toNat
  if va % 64 != 0 then trap cALIGN (dw va)
  else do
    let r ← recordLoads w n off.toNat 32 0 [] none
    let s ← get
    let y := curElem s
    if !recordOk s r (modeOf y == 0) (lidPrio s y.csr.lid) then writeReg w d minus2
    else if launchCap ≤ s.launches.length + (reservedLids s).length || obFull y then writeReg w d minus1
    else do
      let used := s.launches.map (·.1) ++ reservedLids s
      let lid := if recSlid r != 0 then recSlid r else nextLid used (used.length + 1) s.lidLast
      outbox (.launch (BitVec.ofNat 32 lid) r (launchAsid s y r))
      modify (fun t => { t with lidLast := if recSlid r != 0 then t.lidLast else lid })
      modE (fun z => { z with run := z.run.map (fun q => { q with lids := q.lids ++ [BitVec.ofNat 32 lid] }) })
      writeReg w d (dw lid)

/-- LAUNCH (R149). -/
def execLaunch (d a : Reg) (n : BitVec 5) (s : State) : Host.Outcome State Fault Refusal :=
  perform (launchOp (instrWord (.launch d a n)) d a n.toNat) s

end Sys2Proof.Machine
end

