-- ==== Sys2Proof/Machine/Coll.lean ====
section
/-! DEFINITION. The GROUP group on the element (R251 to R260). -/

namespace Sys2Proof.Machine

/-- GSTORE (R254). -/
def execGstore (d a b : Reg) (s : State) : Host.Outcome State Fault Refusal :=
  perform (do
    let w := instrWord (.gstore d a b)
    let gw ← readReg w a
    let v ← readReg w b
    if !gwOk gw then writeReg w d minus2
    else do
      let t ← get
      outbox (.gstore gw v (originOf t t.cur))
      writeReg w d 0) s

/-- The checks of R257 on a block of GRDY. -/
def grdyOk (l : List Dword) : Bool := gwOk (dwAt l 0) && fld (dwAt l 1) 63 26 == 0 && (dwAt l 2).toNat % 64 == 0

/-- The checks of R257 on a block of GPULL. -/
def gpullOk (l : List Dword) : Bool :=
  let d1 := dwAt l 1
  let ch := fld d1 29 24
  gwOk (dwAt l 0) && fld d1 63 39 == 0 && fld d1 23 22 == 0 && (ch == 0 || decide (8 ≤ ch)) && (dwAt l 2).toNat % 64 == 0
    && !inLs (dwAt l 2).toNat

/-- GRDY and GPULL: a block of three dwords that passes a check enters the outbox. -/
def pullOp (w : Dword) (d a : Reg) (ok : List Dword → Bool) (o : List Dword → Origin → OutEntry) : M Unit := do
  let va ← readReg w a
  let l ← readBlock va 3
  if !ok l then writeReg w d minus2
  else do
    let t ← get
    outbox (o l (originOf t t.cur))
    writeReg w d 0

/-- GRDY (R257). -/
def execGrdy (d a : Reg) (s : State) : Host.Outcome State Fault Refusal :=
  perform (pullOp (instrWord (.grdy d a)) d a grdyOk .grdy) s

/-- GPULL (R257). -/
def execGpull (d a : Reg) (s : State) : Host.Outcome State Fault Refusal :=
  perform (pullOp (instrWord (.gpull d a)) d a gpullOk .gpull) s

/-- The number of leading chunks that this leaf has announced (R260), from chunk c on (with fuel for the chunks). -/
def annLead (s : State) (g q : Nat) : Nat → Nat → Nat
  | 0, c => c
  | f + 1, c => if (annOf s g q c).isSome then annLead s g q f (c + 1) else c

/-- The bulk job that last ended for a group and sequence: chunks delivered, leaves missing. -/
def bulkEnded (s : State) (g q : Nat) : Option (Nat × Dword) :=
  (s.bulk.find? (fun b => b.1 == g && b.2.1 == q)).map (fun b => (b.2.2.1, b.2.2.2))

/-- What GCNT reads (R260). -/
def gcntOf (s : State) (g q sel : Nat) : Dword :=
  match sel with
  | 0 => dw (annLead s g q s.anns.length 0)
  | 1 =>
    match bulkJob s g q with
    | some j => dw j.prog
    | none => match bulkEnded s g q with | some b => dw b.1 | none => 0
  | _ => match bulkEnded s g q with | some b => b.2 | none => 0

/-- GCNT (R260). -/
def execGcnt (d a : Reg) (sel : BitVec 5) (s : State) : Host.Outcome State Fault Refusal :=
  perform (do
    let w := instrWord (.gcnt d a sel)
    let gw ← readReg w a
    let t ← get
    if !gwOk gw then writeReg w d minus2 else writeReg w d (gcntOf t (gwGroup gw) (gwSeq gw) sel.toNat)) s

/-- GCFG (R252). -/
def execGcfg (d a : Reg) (s : State) : Host.Outcome State Fault Refusal :=
  perform (do
    let i : Instr := .gcfg d a
    needSuper i
    let va ← readReg (instrWord i) a
    let l ← readBlock va 2
    if !gcfgOk (dwAt l 0) (dwAt l 1) then trap cILLOP (instrWord i)
    else do
      outbox (.gcfg l)
      writeReg (instrWord i) d 0) s

end Sys2Proof.Machine
end

