-- ==== Sys2Proof/Machine/Domain.lean ====
section
/-! DEFINITION. Ordering domains (R25, R273 to R276): unfinished runs, pending events, the horizon and the outbox bound; the commits
that an edge admits (R276, R285); serial admission (R282). -/

namespace Sys2Proof.Machine

/-- The greatest timestamp: the horizon of a domain that holds nothing back (R275). -/
def topTs : Nat := 2 ^ 64 - 1

/-! ## Unfinished and finished runs -/

/-- The unfinished runs of an element: the running one and the one it interrupted. -/
def unfinished (x : Elem) : List Run :=
  (match x.run with | some r => [r] | none => []) ++ (match x.under with | some u => [u.run] | none => [])

/-- A run's order key (R273): timestamp, element address, arrival number. -/
abbrev OKey := Nat × Nat × Nat

/-- The order of keys. -/
def keyLt (a b : OKey) : Bool :=
  decide (a.1 < b.1) || (a.1 == b.1 && (decide (a.2.1 < b.2.1) || (a.2.1 == b.2.1 && decide (a.2.2 < b.2.2))))

/-- The key of an event of an element. -/
def evKey (e : Nat) (v : Ev) : OKey := (v.ts.toNat, e, v.num)

/-- The unfinished runs of a domain, with their elements. -/
def domUnfinished (s : State) (lid : BitVec 32) : List (Nat × Run) :=
  s.elems.flatMap (fun x => ((unfinished x.2).filter (fun r => r.ev.lid == lid)).map (fun r => (x.1, r)))

/-- The finished, uncommitted runs of a domain: F of R272. -/
def domFinished (s : State) (lid : BitVec 32) : List (Nat × Run) :=
  s.elems.flatMap (fun x => (x.2.fin.filter (fun r => r.ev.lid == lid)).map (fun r => (x.1, r)))

/-! ## Pending events (R274) -/

/-- The timestamp of an origin of the domain. -/
def tsIf (lid : BitVec 32) (o : Origin) : List Nat := if o.lid == lid then [o.ts.toNat] else []

/-- A CF operation that has a status or completion message to come (log 23: a management operation may be refused). -/
def cfTells (op : CfOp) : Bool := op.sub != 3 || postChan op != 0

/-- The timestamps that an act in flight holds pending for a domain. -/
def bodyTs (lid : BitVec 32) (b : Body) : List Nat :=
  match b with
  | .ev _ v => if v.lid == lid then [v.ts.toNat] else []
  | .word _ _ w => if w.lid == lid then [w.ts.toNat] else []
  | .credit _ _ => []
  | .cf op => if cfTells op then tsIf lid op.o else []
  | .group _ _ c => tsIf lid c.o
  | .result _ _ _ _ _ _ _ => []
  | .barv _ _ _ => []
  | .barcfg _ _ => []
  | .grdy _ _ => []
  | .gpull block o => if fld (dwAt block 1) 29 24 != 0 then tsIf lid o else []
  | .cell _ _ _ _ _ _ _ => []
  | .launch _ _ => []
  | .preempt _ _ => []
  | .push _ _ cmd _ o _ _ => if cmdDone cmd then tsIf lid o else []

/-- The launch identifier of the runs a channel's entry starts for ports and counters. -/
def chanLid (s : State) (e ch : Nat) : BitVec 32 := (chEntry (elem s e) ch).lid

/-- What an element holds pending: its inbound queue, the words in its FIFOs, and the words that unfinished runs have taken. -/
def elemTs (lid : BitVec 32) (x : Elem) : List Nat :=
  (x.inq.filter (fun v => v.lid == lid)).map (fun v => v.ts.toNat)
    ++ x.fifo.flatMap (fun f => (f.2.filter (fun w => w.lid == lid)).map (fun w => w.ts.toNat))
    ++ (unfinished x).flatMap (fun r => (r.taken.filter (fun w => w.2.lid == lid)).map (fun w => w.2.ts.toNat))

/-- What a cluster's counters hold pending: arms, for the domain of the channel they start (log 23), and expectations. -/
def clusTs (s : State) (lid : BitVec 32) (c : Cluster) : List Nat :=
  c.sc.flatMap (fun k =>
    (match k.2.arm with | some a => if chanLid s a.o.el a.chan == lid then [a.o.ts.toNat] else [] | none => [])
      ++ (match k.2.expect with | some x => if x.fired then [] else tsIf lid x.o | none => []))

/-- What an engine queue holds pending: jobs with DONE, and JOBARM requests. -/
def queueTs (lid : BitVec 32) (q : EQueue) : List Nat :=
  q.jobs.flatMap (fun j => if cmdDone j.cmd then tsIf lid j.o else []) ++ q.arms.flatMap (fun a => tsIf lid a.o)

/-- What the objects of a die hold pending: parked posts with a channel, and reads. -/
def cfTs (lid : BitVec 32) (d : Die) : List Nat :=
  d.cf.flatMap (fun o => (o.2.parked.filter cfTells).flatMap (fun p => tsIf lid p.o) ++ o.2.reads.flatMap (fun p => tsIf lid p.op.o))

/-- What a combining node holds pending: local contributions of slots that have not ended, and pulls with DCHAN. -/
def nodeTs (s : State) (lid : BitVec 32) : List Nat :=
  (s.rslots.filter (fun x => x.state != 2)).flatMap (fun x => (x.ins.filter (fun c => c.port.isNone)).flatMap (fun c => tsIf lid c.o))
    ++ (s.pulls.filter (fun p => fld (dwAt p.block 1) 29 24 != 0)).flatMap (fun p => tsIf lid p.o)

/-- The start messages that a launch has not sent yet (log 23). -/
def launchTs (s : State) (lid : BitVec 32) : List Nat :=
  match launchOf s lid with
  | some l => if l.todo.isEmpty then [] else [(dwAt l.rcd 1).toNat]
  | none => []

/-- The timestamps of a domain's pending events (R274). -/
def pendingTs (s : State) (lid : BitVec 32) : List Nat :=
  s.net.flatMap (fun p => bodyTs lid p.body) ++ s.elems.flatMap (fun x => elemTs lid x.2)
    ++ s.clusters.flatMap (fun c => clusTs s lid c.2) ++ s.queues.flatMap (fun q => queueTs lid q.2)
    ++ s.dies.flatMap (fun d => cfTs lid d.2) ++ s.cfAway.flatMap (fun a => tsIf lid a.o) ++ nodeTs s lid ++ launchTs s lid

/-! ## The horizon and the outbox bound (R275) -/

/-- The horizon as the state of this package gives it. -/
def horizonNow (s : State) (lid : BitVec 32) : Nat :=
  leastOf topTs ((domUnfinished s lid).map (fun r => r.2.ev.ts.toNat) ++ pendingTs s lid)

/-- The timestamp that an outbox entry will carry, for the entries that carry one. -/
def entryTs (o : OutEntry) : List Nat :=
  match o with
  | .msg _ _ _ og => [og.ts.toNat]
  | .port _ w => [w.ts.toNat]
  | .push _ _ cmd _ og => if cmdDone cmd then [og.ts.toNat] else []
  | .cf op => if cfTells op then [op.o.ts.toNat] else []
  | .kv _ => []
  | .gstore _ _ og => [og.ts.toNat]
  | .scinc _ _ => []
  | .scarm _ _ _ og => [og.ts.toNat]
  | .scexpect _ _ _ og => [og.ts.toNat]
  | .scmode _ _ => []
  | .barv _ _ og => [og.ts.toNat]
  | .barcfg _ _ => []
  | .chcfg _ _ => []
  | .chmask _ _ => []
  | .jobarm _ _ og => [og.ts.toNat]
  | .osfree _ _ _ => []
  | .jobresume _ => []
  | .jobcancel _ => []
  | .launch _ _ _ => []
  | .grdy _ _ => []
  | .gpull block og => if fld (dwAt block 1) 29 24 != 0 then [og.ts.toNat] else []
  | .gcfg _ => []
  | .rcupd _ _ _ _ => []
  | .audit _ _ og => [og.ts.toNat]

/-- The least timestamp of a run's outbox. -/
def obLeast (r : Run) : Nat := leastOf topTs (r.ob.flatMap entryTs)

/-- H_O of a finished run: the other finished runs' outboxes. -/
def outBound (l : List (Nat × Run)) (x : Nat × Run) : Nat :=
  leastOf topTs ((l.filter (fun r => !(r.1 == x.1 && r.2.ev.num == x.2.ev.num))).map (fun r => obLeast r.2))

/-- H at the domain's scope: at system scope the last H(k) that the reports gave (R353). -/
def horizon (s : State) (lid : BitVec 32) : Nat :=
  if lidScope s lid == 3 then (tget s.hor lid.toNat (0, 0, 0)).1.toNat else horizonNow s lid

/-- The outboxes of this device's other finished runs of a system launch, at the cut of an edge (R353). -/
def obAtCut (s : State) (lid : BitVec 32) (j : Nat) (x : Nat × Run) : Nat :=
  leastOf topTs ((s.obHist.filter (fun r => r.slid == lid && r.j == j && !(r.el == x.1 && r.num == x.2.ev.num))).map (·.lo))

/-- H_O at the domain's scope: at system scope, the lesser of the other members' and of this device's at the same cut (R353). -/
def obBound (s : State) (lid : BitVec 32) (x : Nat × Run) : Nat :=
  if lidScope s lid == 3 then
    let h := tget s.hor lid.toNat (0, 0, 0)
    Nat.min h.2.1.toNat (obAtCut s lid h.2.2 x)
  else outBound (domFinished s lid) x

/-- A run that is not serial waits while its domain holds a serial one (R293). -/
def serialWait (s : State) (x : Nat × Run) : Bool := !x.2.serial && serialHeld s x.2.ev.lid

/-- R276's test of a finished run, and R293's. -/
def admitted (s : State) (lid : BitVec 32) (x : Nat × Run) : Bool :=
  decide (x.2.ev.ts.toNat < horizon s lid ∧ x.2.ev.ts.toNat ≤ obBound s lid x) && !serialWait s x

/-- A finished run may commit now, outside an edge: at group scope when it is admitted, a run that is a domain of its own at once,
and a run with nothing read or buffered (R25, R276). -/
def mayCommit (s : State) (x : Nat × Run) : Bool :=
  match lidScope s x.2.ev.lid with
  | 0 => true
  | 1 => admitted s x.2.ev.lid x || (x.2.rs.isEmpty && x.2.wb.isEmpty && !serialWait s x)
  | _ => x.2.rs.isEmpty && x.2.wb.isEmpty && !serialWait s x

/-- No finished run of the same domain that may commit has a lower key (R276: commits admitted at the same time take place in
key order). -/
def commitFirst (s : State) (x : Nat × Run) : Bool :=
  (domFinished s x.2.ev.lid).all (fun y => !(mayCommit s y && keyLt (evKey y.1 y.2.ev) (evKey x.1 x.2.ev)))

/-- COMMIT (R276, R279): the k-th finished run of an element commits when it is admitted, in key order. -/
def execCommit (el k : Nat) (s : State) : Host.Outcome State Fault Refusal :=
  match (elem s el).fin[k]? with
  | none => .next s
  | some r => if mayCommit s (el, r) && commitFirst s (el, r) then .next (commitFin s el k) else .next s

/-! ## Commits at an edge (R276, R285) -/

/-- Where a finished run stands in its element. -/
def finAt (s : State) (e num : Nat) : Option Nat := (elem s e).fin.findIdx? (fun r => r.ev.num == num)

/-- The identifiers of active launches, rising. -/
def activeLids (s : State) : List (BitVec 32) := s.launches.map (fun l => BitVec.ofNat 32 l.1)

/-- The admitted runs of a domain, in key order. -/
def admittedRuns (s : State) (lid : BitVec 32) : List (Nat × Nat × OKey) :=
  (sortBy (fun a b => keyLt (evKey a.1 a.2.ev) (evKey b.1 b.2.ev)) ((domFinished s lid).filter (admitted s lid))).map
    (fun x => (x.1, x.2.ev.num, evKey x.1 x.2.ev))

/-- The admitted runs that have not been aborted since. -/
def stillIn (s : State) (l : List (Nat × Nat × OKey)) : Bool := l.all (fun x => (finAt s x.1 x.2.1).isSome)

/-- Commit admitted runs in key order; one that a commit aborts holds back itself and every later one. A commit can only abort runs
after it or before it in the list: rest holds those still to come. -/
def commitAll : List (Nat × Nat × OKey) → State → State
  | [], s => s
  | x :: l, s =>
    match finAt s x.1 x.2.1 with
    | none => s
    | some k => commitAll l (commitFin s x.1 k)

/-- The partial COMMITs of a domain's serial runs that stalled for the edge of its scope, those that an urgent task has interrupted
among them (R282). -/
def stallCommits (lid : BitVec 32) (s : State) : State :=
  s.elems.foldl (fun t x =>
    let t1 := match x.2.under with
      | some u => if u.stall == .full && u.run.ev.lid == lid then partialUnder t x.1 else t
      | none => t
    match x.2.run with
    | some r => if x.2.stall == .full && r.ev.lid == lid then modElem (partialCommit t1 x.1) x.1 (fun y => { y with stall := .none }) else t1
    | none => t1) s

/-- The partial COMMITs and COMMITs that an edge admits for a domain. -/
def edgeCommit (s : State) (lid : BitVec 32) : State :=
  let t := stallCommits lid s
  commitAll (admittedRuns t lid) t

/-- The COMMITs of an edge for the domains of a scope, in ascending launch identifier (R285). -/
def edgeCommits (scope : Nat) (s : State) : State :=
  (activeLids s).foldl (fun t lid => if lidScope t lid == scope then edgeCommit t lid else t) s

/-! ## Serial runs (R282) -/

/-- The event of an element that awaits serial admission on a channel, at its head. -/
def serialHead (x : Elem) (ch : Nat) : Option Ev := (x.inq.find? (fun v => v.chan == ch)).bind (fun v => if v.serial && !v.admitted then some v else none)

/-- A serial event of a domain has been admitted and its run is still to start. -/
def admittedWaits (s : State) (lid : BitVec 32) : Bool :=
  s.elems.any (fun x => x.2.inq.any (fun u => u.serial && u.admitted && u.lid == lid))

/-- An event is the oldest of its domain: its key is the least of the unfinished runs' keys, its timestamp is the horizon, no run of
a lower timestamp is yet to commit, as none may once the serial run has read, no serial run is unfinished and no serial event has been
admitted: serial runs are one after another (R276, R282, R284, R293; DEDUCED, log 15). -/
def oldest (s : State) (e : Nat) (v : Ev) : Bool :=
  (domUnfinished s v.lid).all (fun r => !r.2.serial && !keyLt (evKey r.1 r.2.ev) (evKey e v)) && horizon s v.lid == v.ts.toNat
    && (domFinished s v.lid).all (fun r => decide (v.ts.toNat ≤ r.2.ev.ts.toNat)) && !admittedWaits s v.lid

/-- The finished serial runs of a domain commit, in key order. -/
def commitSerial (s : State) (lid : BitVec 32) : State :=
  commitAll ((sortBy (fun a b => keyLt (evKey a.1 a.2.ev) (evKey b.1 b.2.ev)) ((domFinished s lid).filter (fun r => r.2.serial))).map
    (fun x => (x.1, x.2.ev.num, evKey x.1 x.2.ev))) s

/-- An event of an element has its serial admission. -/
def admitEv (s : State) (e num : Nat) : State :=
  modElem s e (fun x => { x with inq := x.inq.map (fun u => if u.num == num then { u with admitted := true } else u) })

/-- Admit the serial event at the head of a channel, when it is the oldest of its domain. A serial run that has finished at the same
timestamp, which the pending event itself keeps from being below the horizon, commits first: the event's run sees what it wrote, and
neither waits for the other (R276, R284, R293; DEDUCED, log 15). -/
def admitSerial (s : State) (e ch : Nat) : State :=
  match serialHead (elem s e) ch with
  | none => s
  | some v =>
    if lidScope s v.lid == 0 then admitEv s e v.num
    else if oldest s e v then admitEv (commitSerial s v.lid) e v.num
    else s

/-- A run of a domain starts: a serial event that has been admitted and has a greater key is not the oldest any more, and waits for
another admission (R282). -/
def unadmit (s : State) (lid : BitVec 32) (k : OKey) : State :=
  let late (e : Nat) (u : Ev) : Bool := u.serial && u.admitted && u.lid == lid && keyLt k (evKey e u)
  if lidScope s lid != 0 && s.elems.any (fun x => x.2.inq.any (late x.1)) then
    { s with elems := s.elems.map (fun x =>
        (x.1, { x.2 with inq := x.2.inq.map (fun u => if late x.1 u then { u with admitted := false } else u) })) }
  else s

/-- SERIAL_ADMISSION (R282): judged at once at group scope and for a run that is a domain of its own; at device and system scope
only as part of a round edge. -/
def execSerialAdmission (el ch : Nat) (s : State) : Host.Outcome State Fault Refusal :=
  match serialHead (elem s el) ch with
  | none => .next s
  | some v => if lidScope s v.lid ≤ 1 then .next (admitSerial s el ch) else .next s

/-- The serial admissions of a round edge, for some domains. -/
def serialWhere (p : BitVec 32 → Bool) (s : State) : State :=
  s.elems.foldl (fun t x => (x.2.inq.filter (fun v => v.serial && p v.lid)).foldl (fun u v => admitSerial u x.1 v.chan) t) s

/-- The serial admissions of a round edge, for the domains of a scope. -/
def edgeSerial (scope : Nat) (s : State) : State := serialWhere (fun lid => lidScope s lid == scope) s

/-! ## Immediate atomics (R286) -/

/-- IATOM (R286): the k-th entry of an element's queue is performed at its home, unless one that must precede it is still there; the
element that waits for room or for the value goes on. -/
def execIatom (el k : Nat) (s : State) : Host.Outcome State Fault Refusal :=
  let x := elem s el
  match x.iq[k]? with
  | none => .next s
  | some a => if (x.iq.take k).any (fun b => mustPrecede b a) then .next s else .next (iatomStep s el k)

/-- Combine the quantum operations of one address, in arrival order, from the value of the round's beginning: every one of them
returns that value, and the combined update applies to what the address holds now (R286). What another device's home combines is its
own: the value comes back, which the model leaves free (log 1). Another device's operation is answered (R350). -/
def quantOne (s : State) (q : QOp) : State :=
  let s0 := { s with mem := s.memEdge }
  let before := (physDword s0 q.a.pa).getD 0
  match q.peer with
  | some p =>
    let r := remoteAtomic s q.a.pa q.a.aop q.a.v q.a.cmp
    answerPeer r.1 p (r.2.map (fun _ => leBytes 8 before.toNat))
  | none =>
    let r := if paRegion q.a.pa == 8 then (s, physDword s q.a.pa)
      else let t := iatomDo s q.el { q.a with held := false }; (t.1, t.2.map (fun _ => before))
    let k := (elem s q.el).iq.findIdx (· == q.a)
    iatomBack (modElem r.1 q.el (fun x => { x with iq := dropAt x.iq k })) q.el k q.a r.2

/-- The quantum combinations of an edge (R286). -/
def edgeQuants (s : State) : State :=
  let t := s.quants.foldl quantOne { s with quants := [] }
  { t with memEdge := t.mem }

end Sys2Proof.Machine
end

