-- ==== Sys2Proof/Machine/Start.lean ====
section
/-! DEFINITION. How runs begin: which channels are runnable (R14), the selection of R331 and R332, the start of a run (R19), urgent
interruption (R18, R129). -/

namespace Sys2Proof.Machine

/-! ## Runnable channels (R14) -/

/-- The element is halted (R142, R372): after HALT, or after a STOP once no run is running. -/
def isHalted (x : Elem) : Bool := x.halted || (x.stopping && x.run.isNone)

/-- The oldest event of a channel that its trigger takes. -/
def headEv (x : Elem) (ch trig : Nat) : Option Ev :=
  x.inq.find? (fun v => v.chan == ch && (match trig with | 0 => v.kind == .msg | 1 => v.kind == .port | _ => v.kind == .start))

/-- Nothing holds an event back: DEFER, a port, serial admission. -/
def evReady (v : Ev) : Bool := !v.deferred && v.port.isNone && (!v.serial || v.admitted)

/-- A port word count as an event: the head word's timestamp, and the arrival number of the trigger's occurrence (R14, R19, R273). -/
def portEv (x : Elem) (ch : Nat) (c : ChEntry) (w : PortWord) : Ev :=
  { kind := .port, chan := ch, payload := [], sender := dw c.tport, ts := w.ts, lid := c.lid, xfer := 0, num := tget x.occ ch (x.seqNo + 1),
    trun := 0, serial := false, admitted := false, deferred := false, port := none }

/-- The event that would start a run of a channel, if the channel is runnable. -/
def runnable (x : Elem) (ch : Nat) : Option Ev :=
  let c := chEntry x ch
  if ch == 0 || c.mask || (busyChans x).contains ch then none
  else
    match headEv x ch c.trig with
    | some v => if evReady v && (c.trig != 1 || decide (c.tcnt ≤ (tget x.fifo c.tport []).length)) then some v else none
    | none =>
      if c.trig == 1 && decide (c.tcnt ≤ (tget x.fifo c.tport []).length) then
        (tget x.fifo c.tport []).head?.map (portEv x ch c)
      else none

/-- A launch starts no more runs (R373). -/
def startHeld (s : State) (lid : BitVec 32) : Bool := match launchOf s lid with | some l => l.held != 0 | none => false

/-- The launch identifier of the run that an event starts (R19). -/
def runLid (x : Elem) (v : Ev) : BitVec 32 := if v.kind == .msg then v.lid else (chEntry x v.chan).lid

/-- The channels an element may start a run of, with their events; only urgent ones, or all. -/
def candidates (s : State) (e : Nat) (urgent : Bool) : List (Nat × Ev) :=
  let x := elem s e
  (span 0 64).filterMap (fun ch =>
    match runnable x ch with
    | some v => if startHeld s (runLid x v) || (urgent && (chEntry x ch).prio != 7) then none else some (ch, v)
    | none => none)

/-- The channel of the highest priority, the first after LAST in rising order modulo 64 (R331). -/
def chooseChan (x : Elem) (l : List (Nat × Ev)) : Option (Nat × Ev) :=
  let p := l.foldl (fun m c => Nat.max m (chEntry x c.1).prio) 0
  let after := tget x.last p 63
  let rank (ch : Nat) : Nat := (ch + 63 - after) % 64
  (sortBy (fun a b => decide (rank a.1 < rank b.1)) (l.filter (fun c => (chEntry x c.1).prio == p))).head?

/-! ## The start of a run (R19) -/

/-- LAUNCHID from an identifier and its scope (R35). -/
def mkLaunchid (lid : BitVec 32) (scope : Nat) : BitVec 34 := BitVec.ofNat 34 (scope * 2 ^ 32 + lid.toNat)

/-- The class T and E registers at the start of a run (R19, R32, R34): E registers and IE as they were. -/
def startCsrs (s : State) (x : Elem) (c : ChEntry) (v : Ev) (lid : BitVec 32) : Csrs :=
  { x.csr with status := mkStatus 1 c.prio v.chan (stIe x.csr.status) false v.serial c.mode,
               wp := if wpOk x c.wpo then BitVec.ofNat 18 c.wpo else x.csr.wp,
               tsnow := v.ts, trun := v.trun, launchid := mkLaunchid lid (lidScope s lid), xferid := v.xfer,
               fpflags := 0, fprm := BitVec.ofNat 2 c.rm, vgrant := 0 }

/-- w1 to w4 at the start of a run (R19). A rerun after a port start counts the words in the FIFO anew, as R19 says of every start,
though R16 gives a rerun the same start values (DESIGN CHOICE, log 49). -/
def startValues (x : Elem) (c : ChEntry) (v : Ev) : List Dword :=
  [lsVa c.mbx,
   (match v.kind with | .msg => dw v.payload.length | .port => dw (tget x.fifo c.tport []).length | .start => 0),
   v.sender, v.ts]

/-- Write dwords to local store at a start, those that lie in its usable banks: of a mailbox or start values beyond them nothing is written
(R15, R19; DESIGN CHOICE, log 52: no rule checks MBX). -/
def startWrites (x : Elem) : Nat → List Dword → Elem
  | _, [] => x
  | off, d :: l => startWrites (if off + 8 ≤ lsSize x then lsWrite x off 8 d.toNat else x) (off + 8) l

/-- A task start withdraws a lane request that another event's run has set, unless it interrupts a run (R165). -/
def dropReq (s : State) (e : Nat) (v : Ev) (interrupts : Bool) : State :=
  match (elem s e).req with
  | some q => if interrupts || q.num == v.num then s else freeReserved (modElem s e (fun x => { x with req := none })) e
  | none => s

/-- Start a run of an event on an element (R19): the mailbox is written, then the start values, and the run begins. An interrupted
run waits under an urgent one. A workspace pointer outside its limits raises BOUNDS (R10). -/
def startRun (s : State) (e : Nat) (v : Ev) : State :=
  let x := elem s e
  let c := chEntry x v.chan
  let lid := runLid x v
  let csr := startCsrs s x c v lid
  let r : Run :=
    { ev := { v with lid := lid }, entry := c, urgent := c.prio == 7, serial := v.serial, wb := [], rs := [], ob := [], undo := [],
      pre := [], began := s.tick, taken := [], claims := [], vdone := 0, vgot := [], lids := [], jobs := [], mc := none, start := csr, off := stChoff csr.status }
  let under := match x.run with
    | some old => some { run := old, csr := x.csr, seq := x.seq, bf := x.bf, afterEret := x.afterEret, stall := x.stall }
    | none => x.under
  let y := startWrites (startWrites x c.mbx v.payload) (csr.wp.toNat + 8) (startValues x c v)
  let z := { y with csr := csr, seq := seqStart c.pc, afterEret := false, bf := [], run := some r, under := under, stall := .none,
                    inq := y.inq.filter (fun u => u.num != v.num),
                    seqNo := Nat.max x.seqNo v.num, occ := tdel y.occ v.chan,
                    last := tput y.last c.prio v.chan }
  let t := { unadmit (dropReq (setElem s e z) e v x.run.isSome) lid (evKey e v) with cur := e }
  if wpOk x c.wpo then t else takeTrap t cBOUNDS (lsVa c.wpo)

/-- HANDLER_SELECTION may start a run: none is running, and fewer than 4 have finished, or the channel is urgent (R331, R332); MCTL.RUN
is set (R383). -/
def selectable (s : State) (e : Nat) : Option (Nat × Ev) :=
  let x := elem s e
  if !s.regs.run || isHalted x || x.run.isSome || !elUsable s e then none
  else chooseChan x (candidates s e (decide (4 ≤ x.fin.length)))

/-- HANDLER_SELECTION (R331). -/
def execHandlerSelection (el : Nat) (s : State) : Host.Outcome State Fault Refusal :=
  match selectable s el with
  | some c => .next (startRun s el c.2)
  | none => .next s

/-- The element is inside a wait of R122 or R123. -/
def Stall.inWait : Stall → Bool
  | .none => false
  | .full => false
  | .value => true
  | .room => true
  | .fence _ => true

/-- The running run may be interrupted (R18, R129, R169, R332): IE is 1, it is not urgent, no trap handler runs, and it is neither in a
wait nor inside an LDM, STM or vector access. -/
def interruptible (x : Elem) : Bool :=
  match x.run with
  | some r => !r.urgent && x.under.isNone && stIe x.csr.status && !stTrap x.csr.status && !x.stall.inWait
      && r.vdone == 0 && !x.halted
  | none => false

/-- The urgent channel that would interrupt. -/
def urgentReady (s : State) (e : Nat) : Option (Nat × Ev) :=
  if interruptible (elem s e) then chooseChan (elem s e) (candidates s e true) else none

/-- URGENT_INTERRUPTION (R18, R129, R332). -/
def execUrgentInterruption (el : Nat) (s : State) : Host.Outcome State Fault Refusal :=
  match urgentReady s el with
  | some c => .next (startRun s el c.2)
  | none => .next s

end Sys2Proof.Machine
end

