-- ==== Sys2Proof/Machine/Image.lean ====
section
/-! DEFINITION. The context image (R376): events, sections and the late list (R378), as bytes and back. -/

namespace Sys2Proof.Machine

/-! ## Events (R376) -/

/-- The 288 bytes of an event: sender, timestamp, identifier with channel, length and kind, TRUN, and 32 payload dwords. -/
def eventBytes (v : Ev) : List Byte :=
  let n := Nat.max 1 v.payload.length
  let kind := bnat (v.kind == .start)
  leBytes 8 v.sender.toNat ++ leBytes 8 v.ts.toNat
    ++ leBytes 8 (v.lid.toNat + v.chan % 64 * 2 ^ 32 + (n - 1) % 64 * 2 ^ 38 + kind * 2 ^ 44) ++ leBytes 8 v.trun.toNat
    ++ dwordsBytes ((span 0 32).map (dwAt v.payload))

/-- An event from its bytes; its arrival number is given when it joins a queue. -/
def eventOf (l : List Byte) : Ev :=
  let d := bytesDwords l
  let start := fld (dwAt d 2) 45 44 == 1
  { msgEv (fld (dwAt d 2) 37 32) (if start then [] else (d.drop 4).take (fld (dwAt d 2) 43 38 + 1)) (dwAt d 0) (dwAt d 1)
      (BitVec.ofNat 32 (fld (dwAt d 2) 31 0)) 0 with
    kind := if start then .start else .msg, trun := BitVec.ofNat 32 (fld (dwAt d 3) 31 0) }

/-! ## Sections -/

/-- Zero bytes up to a multiple of 64. -/
def pad64 (l : List Byte) : List Byte := l ++ List.replicate (roundUp l.length 64 - l.length) (0 : Byte)

/-- A section: its header of 64 bytes, then its body. -/
def ctxSection (kind place count : Nat) (body : List Byte) : List Byte :=
  leBytes 8 kind ++ leBytes 8 place ++ leBytes 8 body.length ++ leBytes 8 count ++ List.replicate 32 (0 : Byte) ++ pad64 body

/-- The 24 bytes of a handler-table entry. -/
def entryBytes (c : ChEntry) : List Byte := dwordsBytes [c.d0, c.d1, c.d2]

/-- A port's words: a count, then 16 pairs of word and timestamp. -/
def portBytes (l : List PortWord) : List Byte :=
  leBytes 8 l.length ++ (span 0 16).flatMap (fun i =>
    match l[i]? with
    | some w => leBytes 8 w.word.toNat ++ leBytes 8 w.ts.toNat
    | none => List.replicate 16 (0 : Byte))

/-- The events of a context in an element's queue, messages and start events, in order. -/
def ctxEvents (lids : List (BitVec 32)) (x : Elem) : List Ev := x.inq.filter (fun v => lids.contains v.lid && v.kind != .port)

/-- The words of a context in a port's FIFO. -/
def ctxWords (lids : List (BitVec 32)) (x : Elem) (dir : Nat) : List PortWord :=
  (tget x.fifo dir []).filter (fun w => lids.contains w.lid)

/-- The section of an element. -/
def elemSection (s : State) (lids : List (BitVec 32)) (e : Nat) : List Byte :=
  let x := elem s e
  let evs := ctxEvents lids x
  ctxSection 1 (elAddr s e) evs.length
    ((span 0 64).flatMap (fun c => entryBytes (chEntry x c)) ++ (span 0 4).flatMap (fun d => portBytes (ctxWords lids x d))
      ++ evs.flatMap eventBytes ++ memRead x.ls 0 (lsSize x))

/-- The 48 bytes of a counter. -/
def counterBytes (n : Nat) (k : Counter) : List Byte :=
  let arm := k.arm
  let ex := k.expect
  let d1 := bnat k.byte + bnat arm.isSome * 2 + bnat ex.isSome * 4
    + (match ex with | some x => bnat x.fired * 8 + bnat x.ovr * 16 | none => 0) + n * 2 ^ 8
    + (match arm with | some a => a.chan % 64 * 2 ^ 16 + a.o.el % 8 * 2 ^ 22 | none => 0)
  dwordsBytes [k.value, dw d1, (match arm with | some a => a.value | none => 0), (match ex with | some x => x.value | none => 0),
    (match ex with | some x => x.chan | none => 0), 0]

/-- The counters of the blocks that launches own in a cluster. -/
def ctxCounters (s : State) (lids : List (BitVec 32)) (c : Nat) : List Nat :=
  let m := lids.foldl (fun b lid => match launchOf s lid with
    | some l => if (occupied s l.rcd).contains c then b ||| recCtrb l.rcd else b
    | none => b) 0
  (span 0 256).filter (fun n => m.testBit (n / 32))

/-- The section of a cluster's counters. -/
def counterSection (s : State) (lids : List (BitVec 32)) (c : Nat) : List (List Byte) :=
  let ns := ctxCounters s lids c
  if ns.isEmpty then []
  else [ctxSection 2 (elAddr s (8 * c)) ns.length (ns.flatMap (fun n => counterBytes n (counter s c n)))]

/-! ## The late list (R378) -/

/-- The context whose image holds a launch. -/
def ctxOf (s : State) (lid : BitVec 32) : Option Ctx := s.ctxs.find? (fun c => c.lids.contains lid)

/-- The launch is pre-empted and its image is written (R375, R378). -/
def imaged (s : State) (lid : BitVec 32) : Bool :=
  match launchOf s lid, ctxOf s lid with
  | some l, some c => l.held == 3 && c.written
  | _, _ => false

/-- Replace the context of the same launches. -/
def setCtx (s : State) (c : Ctx) : State := { s with ctxs := s.ctxs.map (fun d => if d.lids == c.lids then c else d) }

/-- NDROP and NLATE of a context's header, as the image holds them. -/
def putLateCounts (s : State) (c : Ctx) : State :=
  physPutDword s (c.img.toNat + 8 * 13) (dw (c.late.length + c.drops * 2 ^ 32))

/-- An event of a pre-empted context joins the late list, or is dropped where the capacity is reached; LATEDROP concerns no running task, and
carries launch identifier and timestamp 0, so that no context holds it (R368, R378). -/
def lateEvent (s : State) (e : Nat) (v : Ev) : State :=
  match ctxOf s v.lid with
  | none => s
  | some c =>
    if c.cap.toNat < c.size + 288 * (c.late.length + 1) then
      let d := { c with drops := c.drops + 1 }
      sendMsg (putLateCounts (setCtx s d) d) uHw (fld c.reply 26 0) 3
        [12, dw (chanAddr s e v.chan), v.lid.setWidth 64, 0] 0 0 0 0 none
    else
      let d := { c with late := c.late ++ [(e, v)] }
      let s1 := (physWrite (setCtx s d) (c.img.toNat + c.size + 288 * c.late.length) (eventBytes v) hwCodec).1
      putLateCounts s1 d

end Sys2Proof.Machine
end

