-- ==== Sys2Proof/Machine/Arrive.lean ====
section
/-! DEFINITION. What arrives at an element (R11, R14, R273, R320): messages and start events, port words, credits, and the control
messages of channel 0 (R372). The argument n is the place of the act among those in flight; acts between the same two units arrive
in order. -/

namespace Sys2Proof.Machine

/-- A push. -/
def isPush : Body → Bool
  | .push _ _ _ _ _ _ _ => true
  | _ => false

/-- An earlier act in flight must arrive before a later one: they travel between the same units, or push to the same queue (R283, R287). -/
def arrivesFirst (a b : Packet) : Bool := a.dst == b.dst && (a.src == b.src || (isPush a.body && isPush b.body))

/-- The n-th act in flight, when no earlier one must arrive before it; and the state without it. -/
def takePacket (s : State) (n : Nat) : Option (Packet × State) :=
  match s.net[n]? with
  | none => none
  | some p => if (s.net.take n).any (fun q => arrivesFirst q p) then none else some (p, { s with net := dropAt s.net n })

/-- Entries of the inbound queue that are taken: queued events, and those of runs that have not committed (log 24). -/
def inqUsed (x : Elem) : Nat := x.inq.length + (unfinished x).length + x.fin.length

/-- Entries of the inbound queue (R14). -/
def inqCap : Nat := 128

/-- An event joins the inbound queue under the next arrival number (R273). -/
def enqueueEv (s : State) (e : Nat) (v : Ev) : State :=
  modElem s e (fun x => { x with inq := x.inq ++ [{ v with num := x.seqNo + 1 }], seqNo := x.seqNo + 1 })

/-- A message of a group-scope domain for an element outside its cluster (R320). -/
def outsideGroup (s : State) (e : Nat) (v : Ev) : Bool :=
  match launchOf s v.lid with
  | some l => l.scope == 1 && clOf e != l.home
  | none => false

/-- A message that is dropped at its destination: its sender hears which channel it was for (R320). -/
def dropOutside (s : State) (e : Nat) (v : Ev) : State :=
  if v.sender == 0 then s
  else sendMsg s uHw (fld v.sender 26 0) 3 [1, dw (chanAddr s e v.chan), 0, 0] 0 v.ts v.lid 0 none

/-- A message or start event at its element: late events of a pre-empted context, messages outside their cluster, messages to a channel of
another trigger, and the queue (R14, R320, R378). -/
def arriveEv (s : State) (e : Nat) (v : Ev) : State :=
  if imaged s v.lid then lateEvent s e v
  else if v.kind == .msg && outsideGroup s e v then dropOutside s e v
  else if v.kind == .msg && (chEntry (elem s e) v.chan).trig != 0 then
    if isTrigMismatch v then s else trigMismatch s e v
  else enqueueEv s e v

/-! ## Control messages (R372) -/

/-- Dwords from the i-th on are 0. -/
def restZero (l : List Dword) (i : Nat) : Bool := (l.drop i).all (· == 0)

/-- The image address of a request: region 0x0, 4 KiB aligned. -/
def imgOk (a : Dword) : Bool := fld a 63 48 == 0 && fld a 11 0 == 0

/-- OP of a control message, where it is well formed (log 25). -/
def ctlOp (l : List Dword) : Option Nat :=
  let d0 := dwAt l 0
  match fld d0 7 0 with
  | 0 => if fld d0 63 8 == 0 && restZero l 1 then some 0 else none
  | 1 => if fld d0 63 8 == 0 && restZero l 1 then some 1 else none
  | 2 =>
    let n := fld d0 15 8
    if fld d0 63 16 == 0 && decide (1 ≤ n ∧ n ≤ 8) && imgOk (dwAt l 1) && fld (dwAt l 3) 63 33 == 0 && fld (dwAt l 4) 63 32 == 0
        && (span 5 n).all (fun i => fld (dwAt l i) 63 32 == 0) && restZero l (5 + n) then some 2 else none
  | 3 => if fld d0 63 8 == 0 && imgOk (dwAt l 1) && dwAt l 2 == 0 && fld (dwAt l 3) 63 33 == 0 && restZero l 4 then some 3 else none
  | 4 => if fld d0 63 8 == 0 && imgOk (dwAt l 1) && dwAt l 2 == 0 && fld (dwAt l 3) 63 33 == 0 && restZero l 4 then some 4 else none
  | _ => none

/-- OP of a control message that its element acts on: well formed, and not dropped as R320 states. -/
def controlOp (s : State) (e : Nat) (v : Ev) : Option Nat := if outsideGroup s e v then none else ctlOp v.payload

/-- The act in flight at n is a control message of an OP, for an element; gives the element, the message and the state without it. -/
def takeControl (s : State) (n op : Nat) : Option (Nat × Ev × State) :=
  match takePacket s n with
  | some (p, t) =>
    match p.body with
    | .ev e v => if v.chan == 0 && v.kind == .msg && controlOp s e v == some op then some (e, v, t) else none
    | _ => none
  | none => none

/-- A control act on an element. -/
def control (n op : Nat) (act : State → Nat → Ev → State) (s : State) : Host.Outcome State Fault Refusal :=
  match takeControl s n op with
  | some (e, v, t) => .next (act t e v)
  | none => .next s

/-- WAKE (R142, R372): the HALT state ends. -/
def execWake (n : Nat) (s : State) : Host.Outcome State Fault Refusal :=
  control n 0 (fun t e _ => modElem t e (fun x => if isHalted x then { x with halted := false, stopping := false } else x)) s

/-- STOP (R372): halted once the running run ends. -/
def execStop (n : Nat) (s : State) : Host.Outcome State Fault Refusal :=
  control n 1 (fun t e _ => modElem t e (fun x => { x with stopping := true })) s

/-- A request is forwarded to the pre-emption unit, with the task's timestamp and launch that its message carries. -/
def forwardPre (s : State) (e : Nat) (v : Ev) : State :=
  post s e uPre (.preempt v.payload { Origin.none with el := e, ts := v.ts, lid := v.lid })

/-- PREEMPT (R372). -/
def execPreempt (n : Nat) (s : State) : Host.Outcome State Fault Refusal := control n 2 (fun t e v => forwardPre t e v) s

/-- RESUME (R372). -/
def execResume (n : Nat) (s : State) : Host.Outcome State Fault Refusal := control n 3 (fun t e v => forwardPre t e v) s

/-- DISCARD (R372). -/
def execDiscard (n : Nat) (s : State) : Host.Outcome State Fault Refusal := control n 4 (fun t e v => forwardPre t e v) s

/-! ## Messages and port words -/

/-- A message or start event may be taken now: control messages always, others when the queue has room (R14, R144). -/
def roomFor (s : State) (e : Nat) (v : Ev) : Bool :=
  (v.chan == 0 && v.kind == .msg) || decide (inqUsed (elem s e) < inqCap) || imaged s v.lid

/-- MESSAGE_ARRIVAL (R14). A control message that is malformed is dropped, and so is one outside its launch's cluster, with its error event
(R320); any other is an event of its own. -/
def execMessageArrival (n : Nat) (s : State) : Host.Outcome State Fault Refusal :=
  match takePacket s n with
  | some (p, t) =>
    match p.body with
    | .ev e v =>
      if !roomFor s e v then .next s
      else if v.chan == 0 && v.kind == .msg then
        if (controlOp s e v).isSome then .next s else .next (if outsideGroup t e v then dropOutside t e v else t)
      else .next (arriveEv t e v)
    | _ => .next s
  | none => .next s

/-- Events that waited at a port for a word (true) or a credit (false) are re-armed (R11). -/
def rearm (x : Elem) (dir : Nat) (word : Bool) : Elem :=
  { x with inq := x.inq.map (fun v => if v.port == some (dir, word) then { v with port := none } else v) }

/-- PORT_WORD_ARRIVAL (R11, R14). -/
def execPortWordArrival (n : Nat) (s : State) : Host.Outcome State Fault Refusal :=
  match takePacket s n with
  | some (p, t) =>
    match p.body with
    | .word e dir w => .next (modElem t e (fun x => noteOcc (rearm { x with fifo := tput x.fifo dir (tget x.fifo dir [] ++ [w]) } dir true)))
    | _ => .next s
  | none => .next s

/-- CREDIT_RETURN (R11). -/
def execCreditReturn (n : Nat) (s : State) : Host.Outcome State Fault Refusal :=
  match takePacket s n with
  | some (p, t) =>
    match p.body with
    | .credit e dir => .next (modElem t e (fun x => rearm { x with credit := tput x.credit dir (tget x.credit dir 16 + 1) } dir false))
    | _ => .next s
  | none => .next s

/-! ## What reaches the confluence banks, the trees and the nodes -/

/-- A CF operation at its bank (R220), of a sub-function of CFLOW. -/
def cfHome (n sub : Nat) (s : State) : Host.Outcome State Fault Refusal :=
  match takePacket s n with
  | some (p, t) =>
    match p.body with
    | .cf op => if op.sub == sub then .next (cfApply t op) else .next s
    | _ => .next s
  | none => .next s

/-- CFOPEN_HOME (R225). -/
def execCfopenHome (n : Nat) (s : State) : Host.Outcome State Fault Refusal := cfHome n 0 s
/-- CFNEXT_HOME (R225). -/
def execCfnextHome (n : Nat) (s : State) : Host.Outcome State Fault Refusal := cfHome n 1 s
/-- CFEXPECT_HOME (R225). -/
def execCfexpectHome (n : Nat) (s : State) : Host.Outcome State Fault Refusal := cfHome n 2 s
/-- CFSEAL_HOME (R225). -/
def execCfsealHome (n : Nat) (s : State) : Host.Outcome State Fault Refusal := cfHome n 5 s
/-- EXITMARK_HOME (R225). -/
def execExitmarkHome (n : Nat) (s : State) : Host.Outcome State Fault Refusal := cfHome n 7 s
/-- CFPOST_HOME (R227). -/
def execCfpostHome (n : Nat) (s : State) : Host.Outcome State Fault Refusal := cfHome n 3 s
/-- CFREAD_HOME (R229). -/
def execCfreadHome (n : Nat) (s : State) : Host.Outcome State Fault Refusal := cfHome n 4 s

/-- The handle of an object by die and key. -/
def cfHandleOf (s : State) (d obj : Nat) : Dword := dw (s.regs.devnum.toNat * 2 ^ 48 + d * 2 ^ 46 + obj * 2 ^ 29)

/-- CFREAD_LATENESS (R229): the k-th pending read of an object completes once its lateness limit lets it. -/
def execCfreadLateness (die' obj k : Nat) (s : State) : Host.Outcome State Fault Refusal :=
  let h := cfHandleOf s die' obj
  match (cfObj s h).reads[k]? with
  | some p => if readTest s (cfObj s h) p then .next (readTake s h p 12) else .next s
  | none => .next s

/-- An arrival at a barrier tag from outside its members, or a second one of an episode (R155). -/
def barBad (b : BarTag) (o : Origin) : Bool := !b.mem.getLsbD o.el || b.arr.any (fun a => a.1.el == o.el)

/-- The combined value of an episode (R155): unsigned comparison, SUM modulo 2^32. -/
def barValue (op : Nat) (vs : List (BitVec 32)) : BitVec 32 :=
  match vs with
  | [] => 0
  | v :: l => l.foldl (fun a b =>
      match op with
      | 0 => a &&& b
      | 1 => a ||| b
      | 2 => if a.ult b then b else a
      | 3 => if b.ult a then b else a
      | _ => a + b) v

/-- The completion of an episode: every member hears the value; the last arrival's timestamp and launch travel with it. -/
def barComplete (s : State) (tag : Nat) (b : BarTag) (o : Origin) : State :=
  let v := barValue b.op (b.arr.map (·.2))
  let s1 := { s with bars := tput s.bars tag { b with arr := [], ep := b.ep + 1 } }
  ((span 0 elCount).filter (fun i => b.mem.getLsbD i)).foldl (fun t i =>
    sendMsg t uTree (elAddr t i) b.chan [v.setWidth 64, dw (tag + b.ep * 2 ^ 8)] 0 o.ts o.lid 0 none) s1

/-- BARV at the tree (R155). -/
def barArrive (s : State) (tag : Nat) (v : BitVec 32) (o : Origin) : State :=
  let b := tget s.bars tag BarTag.reset
  if barBad b o then errOf s o 2 (dw tag) (dw (elAddr s o.el)) 0
  else
    let c := { b with arr := b.arr ++ [(o, v)] }
    if c.arr.length == popCount b.mem.toNat 2048 then barComplete s tag c o
    else { s with bars := tput s.bars tag c }

/-- BARRIER_ARRIVAL (R155). -/
def execBarrierArrival (n : Nat) (s : State) : Host.Outcome State Fault Refusal :=
  match takePacket s n with
  | some (p, t) =>
    match p.body with
    | .barv tag v o => .next (barArrive t tag v o)
    | _ => .next s
  | none => .next s

/-- A tag as a block of BARCFG sets it: the episode in progress is gone, and its number stays (R154, R155). -/
def barFrom (old : BarTag) (l : List Dword) : BarTag :=
  { op := fld (dwAt l 0) 2 0, chan := fld (dwAt l 0) 13 8, mem := BitVec.ofNat 2048 (leNat (dwordsBytes ((l.drop 1).take 32))),
    ep := old.ep, arr := [] }

/-- BARCFG_APPLY (R154). -/
def execBarcfgApply (n : Nat) (s : State) : Host.Outcome State Fault Refusal :=
  match takePacket s n with
  | some (p, t) =>
    match p.body with
    | .barcfg tag l => .next { t with bars := tput t.bars tag (barFrom (tget t.bars tag BarTag.reset) l) }
    | _ => .next s
  | none => .next s

/-- GROUP_CONTRIBUTION (R255). -/
def execGroupContribution (n : Nat) (s : State) : Host.Outcome State Fault Refusal :=
  match takePacket s n with
  | some (p, t) =>
    match p.body with
    | .group g q c => .next (groupContribute t g q c)
    | _ => .next s
  | none => .next s

/-- GROUP_RESULT (R255). -/
def execGroupResult (n : Nat) (s : State) : Host.Outcome State Fault Refusal :=
  match takePacket s n with
  | some (p, t) =>
    match p.body with
    | .result g q code v arr count nan => .next (groupAnswer t g q code v arr count nan)
    | _ => .next s
  | none => .next s

/-- GROUP_TIMEOUT (R255). -/
def execGroupTimeout (g : BitVec 8) (q : BitVec 32) (s : State) : Host.Outcome State Fault Refusal :=
  .next (groupTimeoutOf s g.toNat q.toNat)

/-- GROUP_SLOT_FREE (R255). -/
def execGroupSlotFree (g : BitVec 8) (q : BitVec 32) (s : State) : Host.Outcome State Fault Refusal :=
  .next (groupFreeOf s g.toNat q.toNat)

end Sys2Proof.Machine
end

