-- ==== Sys2Proof/Machine/Copy.lean ====
section
/-! DEFINITION. The copy unit's commands (R209 to R218) and KVGATHER (R241 to R243). Each is one step of the job whose turn it is:
its issue, then a burst, a page or a position. -/

namespace Sys2Proof.Machine

/-! ## CPY (R212) -/

/-- Settle a count against an extent (R212): the extent and TRUNC where it is exceeded, OOB at an element under TRAP. -/
def settleCount (n e bmode at' : Nat) : EM (Nat × Bool) :=
  if n ≤ e then pure (n, false) else if bmode == 0 then jobFault 9 at' else pure (e, true)

/-- The count of CPY with ICNT = 1, from the extension block: the data the job keeps. -/
def cpyCount (src dst : Shp) (sva dva : Nat) (j : Job) : EM Job := do
  let b ← emBlock j sva 0 0xFFFFFFFF
  if shInner src != shInner dst then jobFault 3 dva
  else do
    let a ← settleCount (fld (dwAt b 1) 31 0) (shRows dst) (shBmode dst) (shRows dst * shInner dst)
    let c ← settleCount a.1 (shRows src) (shBmode src) (shRows src * shInner src)
    let rows := if shBmode src == 2 then a.1 else c.1
    pure { j with data := jData (a.2 || c.2) src dst (rows * shInner dst) (c.1 * shInner src) [] }

/-- The checks of CPY at issue. -/
def cpyCheck (icnt : Bool) (sva dva : Nat) (j : Job) : EM Job := do
  let src ← emShape j sva
  let dst ← emShape j dva
  if shSize src != shSize dst then jobFault 3 dva
  else if icnt then cpyCount src dst sva dva j
  else if shCount src != shCount dst then jobFault 3 dva
  else pure { j with data := jData false src dst (shCount dst) (shCount src) [] }

/-- Element k of CPY: from the source while it lasts, then zero bits. -/
def cpyPair (j : Job) (k : Nat) : SrcEl × Int :=
  (if k < jHave j then .at' (shOff (jSrc j) k) else .zero, shOff (jDst j) k)

/-- A burst of CPY. -/
def cpyWork (far : Bool) (j : Job) : EM Job := do
  let k ← emBurst j (jSrc j) (jDst j) (jTotal j) far (cpyPair j)
  copyDone (jTotal j) k

/-- CPY (R212). -/
def execCpy (h : CmdHdr) (icnt far : Bool) (src dst : Dword) (s : State) : Host.Outcome State Fault Refusal :=
  jobStep (.cpy h icnt far src dst) (issueThen (cpyCheck icnt src.toNat dst.toNat) (cpyWork far)) s

/-! ## CPYM (R213) -/

/-- The destination clusters: usable ones of the die at the marked rows and columns. -/
def cpymDests (s : State) (die rowm colm : Nat) : List Nat :=
  (span (64 * die) 64).filter (fun c => rowm.testBit (c % 64 / 8) && colm.testBit (c % 8) && clUsable s c)

/-- The first destination whose scratchpad is too small. -/
def cpymShort (s : State) (cs : List Nat) (need : Nat) : Bool := cs.any (fun c => decide ((clus s c).spb * 131072 < need))

/-- The checks of CPYM at issue, for every destination before any data moves. -/
def cpymCheck (die rowm colm : Nat) (slots : Bool) (slot sva off : Nat) (j : Job) : EM Job := do
  let r ← emShape j sva
  let s ← get
  let cs := cpymDests s die rowm colm
  let bytes := shCount r * shSize r
  let n := (bytes + slotBytes - 1) / slotBytes
  let missing := (span slot n).find? (fun i => cs.any (fun c => !slotOwned (clus s c) j.o.lid i))
  if !slots && cpymShort s cs (off + bytes) then jobFault 11 off
  else if slots && decide (256 < slot + n) then jobFault 11 slot
  else
    match missing with
    | some i => if slots then jobFault 10 i else pure { j with data := jData false r r (shCount r) (shCount r) [] }
    | none => pure { j with data := jData false r r (shCount r) (shCount r) [] }

/-- The source elements of a burst of CPYM: index and bytes of those that have some, and what was missed. -/
def cpymRead (j : Job) (far : Bool) : List Nat → EM (List (Nat × List Byte) × Bool × List Nat)
  | [] => pure ([], false, [])
  | i :: is => do
    let g ← emSource j (jSrc j) far i (shOff (jSrc j) i)
    let t ← cpymRead j far is
    let pages := g.pages ++ t.2.2.filter (fun a => !g.pages.contains a)
    pure ((match g.bytes with | some l => (i, l) :: t.1 | none => t.1), g.trunc || t.2.1, pages)

/-- Land elements in one cluster: element i at i·s_0 from the scratchpad offset, or of the slot run (R198, R213, R315). -/
def cpymLand (s : State) (o : Origin) (sz : Nat) (slots : Bool) (base : Nat) (es : List (Nat × List Byte)) (c : Nat) : State :=
  if slots then opmWriteFor s o c (es.map (fun e => (base * slotBytes + e.1 * sz, e.2)))
  else
    let t : Tbl (Byte × Nat) := es.foldl (fun w e =>
      ((span (spAddr c (base + e.1 * sz)) e.2.length).zip e.2).foldl (fun u p => tput u p.1 (p.2, hwCodec)) w) []
    applyWritesFor s o t

/-- Signal one destination cluster of DSIG: by the bytes of each burst in byte mode, by SIGINC at the end in count mode (R152). -/
def cpymSignal (j : Job) (bytes : Nat) (last : Bool) (s : State) (c : Nat) : State :=
  let n := cmdSigc j.cmd
  if (counter s c n).byte then counterAdd s c n (dw bytes)
  else if last then counterAdd s c n (dw (cmdSiginc j.cmd)) else s

/-- A burst of CPYM. -/
def cpymWork (die rowm colm : Nat) (slots dsig far : Bool) (slot off : Nat) (j : Job) : EM Job := do
  let s ← get
  let cs := cpymDests s die rowm colm
  let r := jSrc j
  let is := span j.prog (Nat.min (burstLen (shSize r)) (jTotal j - j.prog))
  let t ← cpymRead j far is
  let bytes := t.1.length * shSize r
  let last := decide (jTotal j ≤ j.prog + is.length)
  modify (fun u => cs.foldl (fun v c => cpymLand v j.o (shSize r) slots (if slots then slot else off) t.1 c) u)
  modify (fun u => if dsig then cs.foldl (cpymSignal j bytes last) u else u)
  stepEnd bytes
  copyDone (jTotal j) { jNote j t.2.1 t.2.2 with prog := j.prog + is.length, aux := cs.length }

/-- CPYM (R213). -/
def execCpym (h : CmdHdr) (rowm colm : BitVec 8) (die : BitVec 2) (dkind dsig far : Bool) (slot : BitVec 8) (src : Dword)
    (doff : BitVec 22) (s : State) : Host.Outcome State Fault Refusal :=
  jobStep (.cpym h rowm colm die dkind dsig far slot src doff) (issueThen (cpymCheck die.toNat rowm.toNat colm.toNat dkind slot.toNat src.toNat doff.toNat)
    (cpymWork die.toNat rowm.toNat colm.toNat dkind dsig far slot.toNat doff.toNat)) s

/-! ## CPYG and CPYS (R214) -/

/-- The index list of n entries of 4 or 8 bytes, sign-extended. -/
def idxList (j : Job) (wide : Bool) (va n : Nat) : EM (List Nat) := do
  let sz := if wide then 8 else 4
  let l ← emRead j va (n * sz)
  pure ((pieces sz l).map (fun p => if wide then leNat p else ((BitVec.ofNat 32 (leNat p)).signExtend 64).toNat))

/-- An index is within an extent. -/
def idxIn (i : Int) (e : Nat) : Bool := decide (0 ≤ i ∧ i < (e : Int))

/-- The checks of CPYG and CPYS at issue: the count is settled against the record whose rows are walked (R212); of a CPYS under ZERO the
destination rows of missing source rows are still to be written. -/
def idxCheck (scatter wide : Bool) (sva dva : Nat) (j : Job) : EM Job := do
  let src ← emShape j sva
  let dst ← emShape j dva
  let b ← emBlock j sva (BitVec.allOnes 64) 0xFFFFFFFF
  let sz := if wide then 8 else 4
  if (dwAt b 0).toNat % sz != 0 then jobFault 3 sva
  else if shInner src != shInner dst || shSize src != shSize dst then jobFault 3 dva
  else do
    let r := if scatter then src else dst
    let n := fld (dwAt b 1) 31 0
    let a ← settleCount n (shRows r) (shBmode r) (shRows r * shInner r)
    let rows := if scatter && shBmode src == 2 then n else a.1
    let l ← idxList j wide (dwAt b 0).toNat rows
    let lim := if scatter then shRows dst else shRows src
    let out := l.any (fun i => !idxIn (dw i).toInt lim)
    pure { j with data := jData (a.2 || out) src dst (rows * shInner dst) a.1 l }

/-- Element k of CPYG: of source row idx[i] to destination row i. -/
def cpygPair (j : Job) (k : Nat) : SrcEl × Int :=
  let n := Nat.max 1 (shInner (jDst j))
  let i := k / n
  let v := jIdx j i
  let src := jSrc j
  let e : SrcEl :=
    if idxIn v (shRows src) then .at' (shRowOff src v.toNat (k % n))
    else if shBmode src == 0 then .oob k else if shBmode src == 1 then .skip else .zero
  (e, shRowOff (jDst j) i (k % n))

/-- Element k of CPYS: of source row i, or zero bits where there is none, to destination row idx[i]. -/
def cpysPair (j : Job) (k : Nat) : SrcEl × Int :=
  let n := Nat.max 1 (shInner (jDst j))
  let i := k / n
  let v := jIdx j i
  let dst := jDst j
  if idxIn v (shRows dst) then (if i < jHave j then .at' (shRowOff (jSrc j) i (k % n)) else .zero, shRowOff dst v.toNat (k % n))
  else (if shBmode dst == 0 then .oob k else .skip, 0)

/-- Rows completed: those of the rows done so far that were moved or written with zero bits (R192). -/
def idxRows (scatter : Bool) (j : Job) : Nat :=
  let n := Nat.max 1 (shInner (jDst j))
  let lim := if scatter then shRows (jDst j) else shRows (jSrc j)
  countIf (fun i => idxIn (jIdx j i) lim || (!scatter && shBmode (jSrc j) == 2)) (span 0 (j.prog / n))

/-- A burst of CPYG or CPYS. -/
def idxWork (scatter far : Bool) (j : Job) : EM Job := do
  let k ← emBurst j (jSrc j) (jDst j) (jTotal j) far (if scatter then cpysPair j else cpygPair j)
  copyDone (jTotal j) { k with aux := idxRows scatter k }

/-- CPYG (R214). -/
def execCpyg (h : CmdHdr) (ifmt far : Bool) (src dst : Dword) (s : State) : Host.Outcome State Fault Refusal :=
  jobStep (.cpyg h ifmt far src dst) (issueThen (idxCheck false ifmt src.toNat dst.toNat) (idxWork false far)) s

/-- CPYS (R214). -/
def execCpys (h : CmdHdr) (ifmt far : Bool) (src dst : Dword) (s : State) : Host.Outcome State Fault Refusal :=
  jobStep (.cpys h ifmt far src dst) (issueThen (idxCheck true ifmt src.toNat dst.toNat) (idxWork true far)) s

/-! ## CPYPG (R215, R216) -/

/-- A page that holds an address is a user page. -/
def userPage (s : State) (asid va : Nat) : Bool :=
  match walk s asid va with
  | .ok l => pteBit l.pte 4
  | .error _ => false

/-- The rsv bits of a grant record are 0, and a range of pages lies in it (R215). -/
def grantOk (g : List Dword) (va npg : Nat) : Bool :=
  fld (dwAt g 2) 63 16 == 0 && fld (dwAt g 3) 63 36 == 0 && fld (dwAt g 4) 63 32 == 0 && fld (dwAt g 6) 63 36 == 0
    && fld (dwAt g 7) 63 32 == 0 && (g.drop 9).all (· == 0)
    && decide ((dwAt g 0).toNat ≤ va ∧ va + npg * 65536 ≤ (dwAt g 1).toNat)

/-- The checks of CPYPG at issue: the job keeps the grant record. -/
def cpypgCheck (npg va gva : Nat) (j : Job) : EM Job := do
  let l ← emReadAs j.o.asid 1 gva 128
  let g := bytesDwords l
  let s ← get
  if j.o.mode == 0 && (userPage s j.o.asid gva || userPage s j.o.asid (gva + 127)) then jobFault 6 gva
  else if !grantOk g va npg then jobFault 6 gva
  else pure { j with data := g.map (·.toNat) }

/-- A pool of the grant: first frame, frames, the bitmap's address. -/
def grantPool (j : Job) (tier : Nat) : Nat × Nat × Nat :=
  if tier == 0 then (j.data.getD 3 0, j.data.getD 4 0, j.data.getD 5 0) else (j.data.getD 6 0, j.data.getD 7 0, j.data.getD 8 0)

/-- The ASID of the grant. -/
def grantAsid (j : Job) : Nat := j.data.getD 2 0 % 65536

/-- The place and value of a bitmap dword, reached with supervisor rights under the grant's ASID. -/
def mapDword (j : Job) (map i : Nat) : EM (Nat × Dword) := do
  let va := map + 8 * (i / 64)
  let t ← emXlatAs (grantAsid j) 1 .rmw va
  match physDword (← get) t.pa with
  | some d => pure (t.pa, d)
  | none => emLost (some (grantAsid j)) t.pa va

/-- The lowest clear bit of a bitmap from bit i on, of n in all, set in one act (with fuel the bits that remain). -/
def takeFrame (j : Job) (map n va : Nat) : Nat → Nat → EM Nat
  | 0, _ => jobFaultIn (some (grantAsid j)) 14 va
  | f + 1, i =>
    if n ≤ i then jobFaultIn (some (grantAsid j)) 14 va
    else do
      let w ← mapDword j map i
      if dbit w.2 (i % 64) then takeFrame j map n va f (i + 1)
      else do
        modify (fun s => putDwordFor s j.o w.1 (w.2 ||| dw (2 ^ (i % 64))))
        pure i

/-- Clear bit i of a bitmap in one act. -/
def dropFrame (j : Job) (map i : Nat) : EM Unit := do
  let w ← mapDword j map i
  modify (fun s => putDwordFor s j.o w.1 (w.2 &&& ~~~(dw (2 ^ (i % 64)))))

/-- A leaf with a new frame and tier, every other bit kept. -/
def movedPte (e : Dword) (pa tier : Nat) : Dword :=
  (e &&& ~~~(dw ((2 ^ 36 - 1) * 65536 + 3 * 256))) ||| dw (pa % 2 ^ 52 / 65536 * 65536 + tier * 256)

/-- The leaf of a page that is to move, under the grant's ASID (R216). A large leaf faults PROT, and so does one whose tier is TIER already
(DESIGN CHOICE, log 54: R216 has it both skipped and faulted). -/
def pageLeaf (j : Job) (va : Nat) : EM Leaf := do
  let s ← get
  match walk s (grantAsid j) va with
  | .error e => do
    modify (fun t => { t with marks := xMarks t (queueIdie t.curQ) e ++ t.marks })
    jobFaultIn (some (grantAsid j)) (accessCode e) va
  | .ok l => if l.level < 2 then jobFaultIn (some (grantAsid j)) 6 va else pure l

/-- Another job moves the page that lies in a frame: moves of one page are serialised (R216). -/
def pageMoving (s : State) (me : QueueId) (j : Job) (old : Nat) : Bool :=
  s.queues.any (fun q => (qOfKey q.1).eng == 1 && q.2.jobs.any (fun k =>
    cmdOpc k.cmd == 0x24 && k.phase != 0 && k.buf.getD 3 0 == old && !(qOfKey q.1 == me && k.jid == j.jid)))

/-- 4 KiB of a page go to the new frame (R216, R336). -/
def pagePiece (j : Job) (va old new codec k : Nat) : EM Unit := do
  match physRead (← get) (old + 4096 * k) 4096 with
  | none => emLost (some (grantAsid j)) (old + 4096 * k) (va + 4096 * k)
  | some l => modify (fun t => let r := physWrite t (new + 4096 * k) l codec; reportErrs r.1 j.o r.2)

/-- A page begins to move: the lowest free frame of the target pool is taken. buf keeps the bitmap's address, the frame's number in it, the
new frame, the old one, and the page's tier. -/
def pageTake (j : Job) (tier va : Nat) (l : Leaf) : EM Job := do
  let p := grantPool j tier
  let i ← takeFrame j p.2.2 p.2.1 va p.2.1 0
  pure { j with buf := [p.2.2, i, (p.1 + i) * 65536, pteFrame l.pte, fld l.pte 9 8] }

/-- The last 4 KiB have gone: what was written to the page meanwhile is in the new frame too, the leaf names it, every TLB and walker cache has
dropped the page, and the old frame returns to its pool. -/
def pageEnd (j : Job) (tier va : Nat) : EM Unit := do
  let l ← pageLeaf j va
  let old := j.buf.getD 3 0
  let new := j.buf.getD 2 0
  match physRead (← get) old 65536 with
  | none => emLost (some (grantAsid j)) old va
  | some bytes => do
    modify (fun t => let r := physWrite t new bytes (fld l.pte 11 10); reportErrs r.1 j.o r.2)
    modify (fun t => tlbDropAll (putDwordFor t j.o l.addr (movedPte l.pte new tier)) 0 (grantAsid j) va)
    let q := grantPool j (j.buf.getD 4 0)
    if j.buf.getD 4 0 < 2 ∧ q.1 ≤ old / 65536 ∧ old / 65536 < q.1 + q.2.1 then dropFrame j q.2.2 (old / 65536 - q.1) else pure ()

/-- A page is done, moved or skipped. -/
def pageNext (npg : Nat) (moved : Bool) (j : Job) : Job :=
  doneIf { j with prog := j.prog + 1, phase := 0, buf := [], aux := j.aux + bnat moved } (decide (npg ≤ j.prog + 1)) 0

/-- A burst of CPYPG: 4 KiB of the page that moves; a page of the tier already is skipped, and one that another job moves is waited for. Reads
see the old frame until the last burst, and no access sees a page partly moved (R216). -/
def cpypgWork (npg tier va0 : Nat) (j : Job) : EM Job := do
  let va := va0 + 65536 * j.prog
  let l ← pageLeaf j va
  let s ← get
  if j.phase == 0 && fld l.pte 9 8 == tier then do
    stepEnd 0
    pure (pageNext npg false j)
  else if j.phase == 0 && pageMoving s s.curQ j (pteFrame l.pte) then pure j
  else do
    let k ← if j.phase == 0 then pageTake j tier va l else pure j
    pagePiece k va (k.buf.getD 3 0) (k.buf.getD 2 0) (fld l.pte 11 10) k.phase
    stepEnd 4096
    if k.phase < 15 then pure { k with phase := k.phase + 1 }
    else do
      pageEnd k tier va
      pure (pageNext npg true k)

/-- CPYPG (R215, R216). -/
def execCpypg (h : CmdHdr) (npg1 : BitVec 16) (tier : BitVec 2) (va grant : Dword) (s : State) : Host.Outcome State Fault Refusal :=
  jobStep (.cpypg h npg1 tier va grant) (issueThen (cpypgCheck (npg1.toNat + 1) va.toNat grant.toNat) (cpypgWork (npg1.toNat + 1) tier.toNat va.toNat)) s

/-! ## CPYFILL (R217) -/

/-- A byte of ternary cells holds the pair 0b10. -/
def badTern (b : Nat) : Bool := (span 0 4).any (fun i => b / 4 ^ i % 4 == 2)

/-- The checks of CPYFILL at issue. -/
def cpyfillCheck (dva val : Nat) (j : Job) : EM Job := do
  let dst ← emShape j dva
  if 2 ^ (8 * shSize dst) ≤ val || (shFmt dst == .tern2 && badTern val) then jobFault 3 dva
  else pure { j with data := jData false dst dst (shCount dst) 0 [] }

/-- A burst of CPYFILL. -/
def cpyfillWork (val : Nat) (j : Job) : EM Job := do
  let k ← emBurst j (jSrc j) (jDst j) (jTotal j) true (fun i => (.lit (leBytes (shSize (jDst j)) val), shOff (jDst j) i))
  copyDone (jTotal j) k

/-- CPYFILL (R217). -/
def execCpyfill (h : CmdHdr) (dst val : Dword) (s : State) : Host.Outcome State Fault Refusal :=
  jobStep (.cpyfill h dst val) (issueThen (cpyfillCheck dst.toNat val.toNat) (cpyfillWork val.toNat)) s

/-! ## CPYMSG (R218) -/

/-- The checks of R218 on a queue record, for rows of rb bytes. -/
def appendOk (q : List Dword) (rb : Nat) : Bool :=
  fld (dwAt q 3) 63 33 == 0 && (q.drop 4).all (· == 0) && decide (rb + 16 ≤ fld (dwAt q 1) 63 32) && (dwAt q 0).toNat % 64 == 0

/-- Advance TAIL by one at the record's home: the slot (R218). -/
def takeTail (j : Job) (qva : Nat) : EM Nat := do
  let t ← emXlat j .rmw (qva + 16)
  match physDword (← get) t.pa with
  | none => emLost none t.pa (qva + 16)
  | some d => do
    modify (fun s => putDwordFor s j.o t.pa (d + 1))
    pure d.toNat

/-- The checks of CPYMSG, and its slot: the job ends QFULL where there is none. The job keeps the queue record, the slot and the
tag as its index entries. -/
def cpymsgCheck (sva qva : Nat) (j : Job) : EM Job := do
  let r ← emShape j sva
  let tag ← emBlock j sva (BitVec.allOnes 64) (BitVec.allOnes 64)
  let q ← emDwords j qva 8
  if !appendOk q (shCount r * shSize r) then jobFault 3 qva
  else do
    let slot ← takeTail j qva
    if fld (dwAt q 1) 31 0 ≤ slot then pure { j with aux := fld (dwAt q 1) 31 0, fin := some 15 }
    else
      let row := ((dwAt q 0).toNat + slot * fld (dwAt q 1) 63 32) % 2 ^ 64
      pure { j with aux := slot, data := jData false r r (shCount r) (shCount r) ([row, (dwAt q 3).toNat, (dwAt tag 0).toNat, (dwAt tag 1).toNat]) }

/-- An index entry as it was kept. -/
def jKept (j : Job) (i : Nat) : Nat := j.data.getD (6 + i) 0

/-- After the row: the tag, and the message to NOTIFY (R218). -/
def cpymsgEnd (j : Job) : EM Unit := do
  let rb := jTotal j * shSize (jSrc j)
  emWrite j [((jKept j 0 + rb) % 2 ^ 64, leBytes 8 (jKept j 2) ++ leBytes 8 (jKept j 3))]
  let n := jKept j 1
  if n == 0 then pure ()
  else modify (fun s => sendChan s (uQueue s.curQ) (dw n) [dw j.aux, dw (jKept j 2), dw (jKept j 3)]
    (dw (chanAddr s j.o.el j.o.chan)) j.o.ts j.o.lid 0 (some j.o.el))

/-- A burst of CPYMSG: element i of the row to BASE + slot·PITCH + i·s_0. -/
def cpymsgWork (far : Bool) (j : Job) : EM Job := do
  let sz := shSize (jSrc j)
  let is := span j.prog (Nat.min (burstLen sz) (jTotal j - j.prog))
  let t ← cpymRead j far is
  emWrite j (t.1.map (fun e => ((jKept j 0 + e.1 * sz) % 2 ^ 64, e.2)))
  stepEnd (t.1.length * sz)
  let k := { jNote j t.2.1 t.2.2 with prog := j.prog + is.length }
  if jTotal k ≤ k.prog then cpymsgEnd k else pure ()
  copyDone (jTotal k) k

/-- CPYMSG (R218). -/
def execCpymsg (h : CmdHdr) (far : Bool) (src q : Dword) (s : State) : Host.Outcome State Fault Refusal :=
  jobStep (.cpymsg h far src q) (issueThen (cpymsgCheck src.toNat q.toNat) (cpymsgWork far)) s

/-! ## KVGATHER (R241, R242)

data holds the destination shape, the mask so far, 4 dwords of the gather record, 8 of the root, 1
when data were dropped, and then the missed pages. -/

/-- The destination shape. -/
def kgDst (j : Job) : Shp := BitVec.ofNat 512 (j.data.getD 0 0)
/-- The mask so far. -/
def kgMask (j : Job) : Nat := j.data.getD 1 0
/-- A dword of the gather record. -/
def kgRec (j : Job) (i : Nat) : Dword := dw (j.data.getD (2 + i) 0)
/-- The root record. -/
def kgRoot (j : Job) : List Dword := (span 0 8).map (fun i => dw (j.data.getD (6 + i) 0))
/-- NP. -/
def kgN (j : Job) : Nat := fld (kgRec j 2) 63 32
/-- The position of row i. -/
def kgPos (j : Job) (i : Nat) : Nat := fld (kgRec j 2) 31 0 + i
/-- The missed pages. -/
def kgPages (j : Job) : List Nat := j.data.drop 15

/-- The checks of R241 on a gather record, a root and a destination shape. -/
def kgOk (g r : List Dword) (dst : Shp) (part : BitVec 2) : Bool :=
  let np := fld (dwAt g 2) 63 32
  (g.drop 4).all (· == 0) && decide (1 ≤ np ∧ np ≤ 2 ^ 20) && (dwAt g 3).toNat % 8 == 0 && kvRootOk r
    && decide (fld (dwAt g 1) 15 0 < rootL r ∧ fld (dwAt g 1) 31 16 < rootG r) && fld (dwAt g 1) 63 32 == 0
    && shNdim dst == 2 && shExt dst 0 == rootD r && shFmt dst == rootF r && shExt dst 1 == (if part == 2 then 2 * np else np)

/-- The checks of KVGATHER at issue. The rules give an answer to a ROOT that is not a multiple of 64 for the KV instructions only (R234);
here it is BADSHAPE (DESIGN CHOICE, log 52). -/
def kgCheck (part : BitVec 2) (rec' dva : Nat) (j : Job) : EM Job := do
  let dst ← emShape j dva
  let g ← emDwords j rec' 8
  let r ← emDwords j (dwAt g 0).toNat 8
  if (dwAt g 0).toNat % 64 != 0 || !kgOk g r dst part then jobFault 3 dva
  else pure { j with data := [dst.toNat, 0] ++ (g.take 4).map (·.toNat) ++ r.map (·.toNat) ++ [0] }

/-- Run an act on the KV cache for a job. -/
def emKv {α : Type} (act : KvCtx → KM α) (j : Job) : EM α := do
  let s ← get
  let c : KvCtx := { x := xverOf s.curQ, asid := j.o.asid, mode := j.o.mode, o := j.o }
  match (act c).run { s := s, lines := [], eng := true } with
  | .ok v k => do set k.s; pure v
  | .error (.access e a) k => do
    modify (fun t => { t with marks := xMarks k.s (queueIdie t.curQ) e ++ k.s.marks })
    jobFault (accessCode e) a
  | .error _ k => do
    modify (fun t => { t with marks := k.s.marks })
    jobFault 25 0

/-- The entry of a position, if its block is present; a position beyond the root has none. -/
def kgEntry (j : Job) (p : Nat) : EM (Option Dword) :=
  let r := kgRoot j
  let l := fld (kgRec j 1) 15 0
  let g := fld (kgRec j 1) 31 16
  if kvInRange r l g p then emKv (fun c => kmPresent c r l g p) j else pure none

/-- The VALID and PEND bits of a position in a block. -/
def kgBits (j : Job) (b p : Nat) : EM (Bool × Bool) := do
  let d ← emKv (fun _ => kmDword b) j
  pure (dbit d (p % 16), dbit d (16 + p % 16))

/-- The key and value rows of a position in a block: those that PART copies. -/
def kgRows (part : BitVec 2) (j : Job) (b p : Nat) : EM (List Byte × List Byte) := do
  let r := kgRoot j
  let n := rootD r * rootS r
  let k ← if part == 1 then pure [] else emKv (fun _ => kmRead (b + 64 + 8 * rootD r + p % 16 * n) n) j
  let v ← if part == 0 then pure [] else emKv (fun _ => kmRead (b + 64 + 8 * rootD r + 16 * n + p % 16 * n) n) j
  pure (k, v)

/-- Where the elements of output row i go: those dropped are TRUNC (R190). -/
def kgPlace (r : Shp) (i : Nat) : List (List Byte) → Nat → EM (List (Nat × List Byte) × Bool)
  | [], _ => pure ([], false)
  | l :: ls, m => do
    let e := i * shExt r 0 + m
    let d ← emDest r e (shOff r e)
    let t ← kgPlace r i ls (m + 1)
    pure (match d with | some va => ((va, l) :: t.1, t.2) | none => (t.1, true))

/-- Write one row of position i, of its keys or of its values, which PART 2 puts after the NP key rows (R242). -/
def kgWrite (j : Job) (part : BitVec 2) (vals : Bool) (i : Nat) (l : List Byte) : EM Job := do
  let r := kgDst j
  let a ← kgPlace r (if vals && part == 2 then kgN j + i else i) (pieces (shSize r) l) 0
  emWrite j a.1
  stepEnd ((a.1.map (fun w => w.2.length)).sum)
  pure (if a.2 then { j with data := j.data.set 14 1 } else j)

/-- Position i is done: its mask bit, and its missed page. -/
def kgNext (j : Job) (bit : Bool) (page : Option Nat) : Job :=
  let d := if bit then j.data.set 1 (kgMask j + 2 ^ j.prog) else j.data
  let ps := match page with | some a => if (kgPages j).contains a then [] else [a] | none => []
  { j with data := d ++ ps, prog := j.prog + 1, phase := 0, buf := [], aux := j.aux + bnat bit }

/-- The rows of a position, both taken at once (R242), are written: the first now; under PART 2 the value row is the next burst. buf keeps the
position's mask bit and the bytes of that row. -/
def kgRow (part : BitVec 2) (bit : Bool) (k v : List Byte) (j : Job) : EM Job := do
  let w ← kgWrite j part (part == 1) j.prog (if part == 1 then v else k)
  if part == 2 then pure { w with phase := 1, buf := bnat bit :: v.map (·.toNat) } else pure (kgNext w bit none)

/-- A burst of the mask: up to 4 KiB of it (R242, R336). -/
def kgMaskBurst (j : Job) : EM Unit := do
  let n := (kgN j + 63) / 64 * 8
  let i := j.phase - 2
  let l := ((leBytes n (kgMask j)).drop (4096 * i)).take 4096
  emWrite j [((kgRec j 3).toNat + 4096 * i, l)]
  stepEnd l.length

/-- Every row and the whole mask are written: the end (R242). -/
def kgEnd (j : Job) : EM Job := do
  if (kgPages j).isEmpty then pure (doneIf j true (j.data.getD 14 0))
  else do
    tierEvent j (kgPages j) true
    pure (doneIf j true 13)

/-- One position of KVGATHER: a pending one under DEFER steps aside in STATE 3. -/
def kgStep (pol far : Bool) (part : BitVec 2) (j : Job) : EM Job := do
  let p := kgPos j j.prog
  let zero : List Byte := List.replicate (rootD (kgRoot j) * rootS (kgRoot j)) 0
  match ← kgEntry j p with
  | none => kgRow part false zero zero j
  | some e =>
    if entTier e == 1 && !far then do
      stepEnd 0
      pure (kgNext j false (some (entPa e / 65536 * 65536)))
    else do
      let b ← kgBits j (entPa e) p
      if b.1 then do
        let r ← kgRows part j (entPa e) p
        kgRow part true r.1 r.2 j
      else if b.2 && pol then do
        stepEnd 0
        pure { j with state := 3 }
      else kgRow part false zero zero j

/-- A burst of KVGATHER: a row; once every position is done, a part of the mask, and after the last the end. -/
def kgWork (pol far : Bool) (part : BitVec 2) (j : Job) : EM Job := do
  if j.phase == 1 then do
    let w ← kgWrite j part true j.prog ((j.buf.drop 1).map (BitVec.ofNat 8))
    pure (kgNext w (j.buf.headD 0 == 1) none)
  else if j.prog < kgN j then kgStep pol far part j
  else do
    let k := { j with phase := Nat.max 2 j.phase }
    kgMaskBurst k
    if 4096 * (k.phase - 1) < (kgN j + 63) / 64 * 8 then pure { k with phase := k.phase + 1 } else kgEnd k

/-- KVGATHER (R241, R242). -/
def execKvgather (h : CmdHdr) (pol far : Bool) (part : BitVec 2) (rec' dst : Dword) (s : State) : Host.Outcome State Fault Refusal :=
  jobStep (.kvgather h pol far part rec' dst) (issueThen (kgCheck part rec'.toNat dst.toNat) (kgWork pol far part)) s

end Sys2Proof.Machine
end

