-- ==== Sys2Proof/Machine/Backfill.lean ====
section
/-! DEFINITION. The backfill engine's commands (R238 to R240). -/

namespace Sys2Proof.Machine

/-! ## The job record (R238) -/

/-- DM. -/
def bfDm (j : Job) : Nat := fld (dwAt (bfRcd j) 4) 15 0
/-- CL, as a cluster of the package. -/
def bfClus (s : State) (j : Job) : Nat := bfHome s.curQ j
/-- SLOT0. -/
def bfSlot (j : Job) : Nat := fld (dwAt (bfRcd j) 4) 39 32
/-- ROW0. -/
def bfRow (j : Job) : Nat := fld (dwAt (bfRcd j) 4) 52 40
/-- Columns of a projection. -/
def bfCols (j : Job) : Nat := rootG (bfRoot j) * rootD (bfRoot j)
/-- NT: tiles of 64 columns. -/
def bfTiles (j : Job) : Nat := (bfCols j + 63) / 64

/-- The rsv bits and DM of a record (R239). -/
def bfRecOk (r : List Dword) : Bool :=
  let dm := fld (dwAt r 4) 15 0
  fld (dwAt r 1) 63 32 == 0 && fld (dwAt r 4) 63 53 == 0 && (r.drop 5).all (· == 0) && dm % 64 == 0 && decide (64 ≤ dm ∧ dm ≤ 16384)

/-- The rows of a BFILL belong to its launch. -/
def bfRowsOwned (x : Cluster) (j : Job) : Bool :=
  (rowBlocks (bfRow j) (2 * bfTiles j)).all (fun b => j.o.lid != 0 && blkOwner x b == j.o.lid)

/-- The checks of BFILL at issue (R239), on the record and root that its marks read (DESIGN CHOICE, log 52). -/
def bfCheck (last : Nat) (rec' : Nat) (j : Job) : EM Job := do
  let s ← get
  let c := bfClus s j
  let x := clus s c
  if j.data.isEmpty || !bfRecOk (bfRcd j) then jobFault 3 rec'
  else if 64 ≤ fld (dwAt (bfRcd j) 4) 31 16 || !clUsable s c then jobFault 11 (fld (dwAt (bfRcd j) 4) 31 16)
  else if 254 < bfSlot j then jobFault 11 (bfSlot j)
  else if !slotOwned x j.o.lid (bfSlot j) then jobFault 10 (bfSlot j)
  else if !slotOwned x j.o.lid (bfSlot j + 1) then jobFault 10 (bfSlot j + 1)
  else if !bfRowsOwned x j then jobFault 10 (bfRow j)
  else if x.rows < bfRow j + 2 * bfTiles j || rootL (bfRoot j) ≤ last || 16 * rootNB (bfRoot j) ≤ bfPos j then jobFault 11 (bfRow j)
  else pure j

/-! ## One layer (R239) -/

/-- FP32 values from bytes. -/
def fp32s (l : List Byte) : List Nat := (pieces 4 l).map leNat

/-- ss: the sum of squares, in index order, with its flags. -/
def sumSquares (xs : List Nat) : Nat × Nat :=
  xs.foldl (fun a x => let r := fpFma .fp32 0 x x a.1; (r.1, a.2 ||| r.2)) (0, 0)

/-- r: the reciprocal root of the mean square plus ε. -/
def normScale (xs : List Nat) (eps : Nat) : Nat × Nat :=
  let ss := sumSquares xs
  let m := fpDiv .fp32 0 ss.1 (valToFp .fp32 0 false (.fin false xs.length 0)).1
  let a := fpAdd .fp32 0 m.1 eps
  let r := fpRsqrt .fp32 0 a.1
  (r.1, ss.2 ||| m.2 ||| a.2 ||| r.2)

/-- y: the normalised state in BF16. -/
def normRow (xs gam : List Nat) (eps : Nat) : List Nat × Nat :=
  let r := normScale xs eps
  let l := List.zipWith (fun x g =>
    let a := fpMul .fp32 0 x r.1
    let b := fpScale .fp32 .bf16 0 false a.1 g
    (b.1, a.2 ||| b.2)) xs gam
  (l.map (·.1), l.foldl (fun f p => f ||| p.2) r.2)

/-! ## The matrix work of a layer (R337)

It stands in CL's matrix queue as an entry under the BFILL's command word and identifier. data holds the number of values of the state, that
of the columns of a projection, ROW0, SLOT0, the state y, and the two weight matrices row by row; aux holds the priority it entered with,
and prog counts its steps. A step latches one tile of 64 rows and 64 columns and streams the state against it. -/

/-- Values of the state. -/
def bwDm (j : Job) : Nat := j.data.getD 0 0
/-- Columns of a projection. -/
def bwCols (j : Job) : Nat := j.data.getD 1 0
/-- ROW0. -/
def bwRow (j : Job) : Nat := j.data.getD 2 0
/-- SLOT0. -/
def bwSlot (j : Job) : Nat := j.data.getD 3 0
/-- NT. -/
def bwTiles (j : Job) : Nat := (bwCols j + 63) / 64
/-- Tiles of 64 rows. -/
def bwDeep (j : Job) : Nat := bwDm j / 64
/-- Steps of the work: those of the keys, then those of the values. -/
def bwSteps (j : Job) : Nat := 2 * bwTiles j * bwDeep j
/-- The 64 values of the state that a step streams. -/
def bwState (j : Job) (i : Nat) : List Nat := (j.data.drop (4 + 64 * i)).take 64
/-- An entry of the weights of keys (false) or values (true): row i, column c. -/
def bwCell (j : Job) (vals : Bool) (i c : Nat) : Nat :=
  if bwCols j ≤ c then 0 else j.data.getD (4 + bwDm j + (if vals then bwDm j * bwCols j else 0) + i * bwCols j + c) 0

/-- The bytes of the tile of row tile i and column tile t. -/
def bwTile (j : Job) (vals : Bool) (i t : Nat) : List Byte :=
  (span 0 64).flatMap (fun k => (span 0 64).flatMap (fun c => leBytes 2 (bwCell j vals (64 * i + k) (64 * t + c))))

/-- The column tile of a step: those of the keys, then those of the values. -/
def bwNo (j : Job) : Nat := j.prog / Nat.max 1 (bwDeep j)
/-- Columns of that tile. -/
def bwWide (j : Job) : Nat := Nat.min 64 (bwCols j - 64 * (bwNo j % Nat.max 1 (bwTiles j)))

/-- One step of the work: column tile t of the keys accumulates in row ROW0 + t, one of the values in row ROW0 + NT + t. -/
def bwStep (j : Job) (x : Cluster) : Cluster × BitVec 8 :=
  let i := j.prog % Nat.max 1 (bwDeep j)
  let tile := mkTile (2 ^ 32 + j.jid.toNat) .bf16
    (memWrite [] 0 (bwTile j (decide (bwTiles j ≤ bwNo j)) i (bwNo j % Nat.max 1 (bwTiles j))))
  chainRow tile (i == 0) (bwRow j + bwNo j) (bwState j i) (bwWide j) 0 (latch x tile, j.flags)

/-- The slots a BFILL's matrix work used have been written, and hold nothing that the spec states (log 19). -/
def bfScratch (tick slot : Nat) (x : Cluster) : Cluster :=
  (opmPut x [(slot * slotBytes, (span (slot * slotBytes) (2 * slotBytes)).map (Config.slotByte tick))]).1

/-- The work is done: the BFILL, in its own queue, goes on with its flags, and the entry and its tile are gone. -/
def bwDone (j : Job) (s : State) : State :=
  let q : QueueId := { eng := 2, idx := s.curQ.idx / 64 }
  let s1 := modClus s s.curQ.idx (fun x => bfScratch s.tick (bwSlot j) (unlatch x (2 ^ 32 + j.jid.toNat)))
  match jobOf s1 q j.jid with
  | some k => setJob s1 q { k with phase := 2, flags := k.flags ||| j.flags }
  | none => s1

/-- The work meets a poisoned row that it accumulates in (R315): the BFILL, in its own queue, faults POISON, to begin the layer again when
it is resumed; its tile is gone, and its entry leaves the queue. -/
def bwLost (c : Nat) (j : Job) (row : Nat) (s : State) : State :=
  let q : QueueId := { eng := 2, idx := c / 64 }
  let s1 := modClus s c (fun x => bfScratch s.tick (bwSlot j) (unlatch x (2 ^ 32 + j.jid.toNat)))
  match jobOf s1 q j.jid with
  | some k => faultJob s1 q { k with phase := 0 } 25 row k.o.asid
  | none => s1

/-- A step of a BFILL's matrix work in the turn of its cluster's engine: its last one takes it out of the queue at the boundary. -/
def bwWork (j : Job) : EM Job := do
  let x ← emClus
  let r := bwStep j x
  match (if j.prog % Nat.max 1 (bwDeep j) == 0 then none else badRow x (bwRow j + bwNo j) 1 (bwWide j)) with
  | some row => do
    stepEnd 0
    modify (fun s => bwLost s.curQ.idx j row s)
    pure { j with fin := some 0 }
  | none => do
    emAcc j (bwRow j + bwNo j) 1 (bwWide j) (fun _ => r.1)
    stepEnd 0
    let k := { j with issued := true, prog := j.prog + 1, flags := r.2 }
    if bwSteps j ≤ k.prog then do
      modify (bwDone k)
      pure { k with fin := some 0 }
    else pure k

/-- A poisoned row among those that hold a projection (R315). -/
def bwBad (x : Cluster) (row n : Nat) : Option Nat :=
  (span 0 ((n + 63) / 64)).findSome? (fun t => badRow x (row + t) 1 (Nat.min 64 (n - 64 * t)))

/-- A projection as its accumulator rows hold it, from a row on. -/
def bwOut (x : Cluster) (row n : Nat) : List Nat := (span 0 n).map (fun c => (accWord x (row + c / 64) (c % 64)).toNat)

/-- The flags of results. -/
def flagsOf (l : List (Nat × Nat)) : Nat := l.foldl (fun f p => f ||| p.2) 0

/-- Convert a group's values to KFMT. -/
def groupRow (r : List Dword) (g : Nat) (l : List Nat) : List (Nat × Nat) :=
  ((l.drop (g * rootD r)).take (rootD r)).map (fpConvert .fp32 (rootF r) 0 false)

/-- Write and publish a group's rows, in the block its entry names (R235, R236); an absent block changes nothing. -/
def bfPublish (c : KvCtx) (r : List Dword) (l g p : Nat) (krow vrow : List Nat) : KM Unit := do
  match ← kmPresent c r l g p with
  | none => pure ()
  | some d => do
    kmRows c.o r (entPa d) p krow vrow
    kmHeader c.o (entPa d) (2 ^ (p % 16)) (2 ^ (p % 16)) 0

/-- Publish every group of a layer; gives the flags of the conversions. -/
def bfGroups (j : Job) (l : Nat) (ks vs : List Nat) : List Nat → EM Nat
  | [] => pure 0
  | g :: gs => do
    let r := bfRoot j
    let a := groupRow r g ks
    let b := groupRow r g vs
    emKv (fun c => bfPublish c r l g (bfPos j) (a.map (·.1)) (b.map (·.1))) j
    let t ← bfGroups j l ks vs gs
    pure (flagsOf a ||| flagsOf b ||| t)

/-- The layer that a BFILL is to compute. -/
def bfLayer (gexit : Nat) (j : Job) : Nat := gexit + 1 + j.prog

/-- Whether a BFILL's work stands in a cluster's matrix queue: at most one does (R337). -/
def bwStands (s : State) (c : Nat) : Bool := (queue s { eng := 0, idx := c }).jobs.any (fun j => cmdOpc j.cmd == 0x40)

/-- A layer begins: the engine reads the state and the weights, normalises, and puts the matrix work into CL's matrix queue, with the
BFILL's effective priority (R239, R337). It is issued there when its first step is taken, once it waits for no earlier MFILL of its slots
(R193); an MSAVE counts it as issued from its entry on (R206; DESIGN CHOICE, log 54). -/
def bfBegin (gexit : Nat) (j : Job) : EM Job := do
  let l := bfLayer gexit j
  let dm := bfDm j
  let n := bfCols j
  let xs := fp32s (← emRead j (dwAt (bfRcd j) 2).toNat (4 * dm))
  let e ← emDwords j ((dwAt (bfRcd j) 3).toNat + 64 * l) 4
  let gam := fp32s (← emRead j (dwAt e 0).toNat (4 * dm))
  let wk := (pieces 2 (← emRead j (dwAt e 1).toNat (2 * dm * n))).map leNat
  let wv := (pieces 2 (← emRead j (dwAt e 2).toNat (2 * dm * n))).map leNat
  let y := normRow xs gam (fld (dwAt e 3) 31 0)
  let w : Job := { newJob j.jid j.cmd j.now j.o with
    state := 4, aux := j.effp, data := [dm, n, bfRow j, bfSlot j] ++ y.1 ++ wk ++ wv }
  modify (fun s => modQueue s { eng := 0, idx := bfClus s j } (fun q => { q with jobs := q.jobs ++ [w] }))
  pure { j with phase := 1, flags := j.flags ||| jobFlags y.2 false }

/-- A layer ends once its matrix work is done: the rows are written and published from the accumulator rows; after the last layer the
references are dropped. -/
def bfEnd (gexit last : Nat) (perl : Bool) (j : Job) : EM Job := do
  let l := bfLayer gexit j
  let r := bfRoot j
  let s ← get
  let x := clus s (bfClus s j)
  match (bwBad x (bfRow j) (bfCols j)).orElse (fun _ => bwBad x (bfRow j + bfTiles j) (bfCols j)) with
  | some row => jobFault 25 row
  | none => pure ()
  let f ← bfGroups j l (bwOut x (bfRow j) (bfCols j)) (bwOut x (bfRow j + bfTiles j) (bfCols j)) (span 0 (rootG r))
  let k := { j with prog := j.prog + 1, aux := j.aux + 1, phase := 0, flags := j.flags ||| jobFlags f false }
  if perl then modify (fun t => jobSignal t t.curQ k) else pure ()
  if last ≤ l then modify (fun t => bfCleanup t k) else pure ()
  pure (doneIf k (decide (last ≤ l)) 0)

/-- A turn of a BFILL. One that JOBCANCEL has named ends with the layer in progress (R161, R240). -/
def bfWork (gexit last : Nat) (perl : Bool) (j : Job) : EM Job := do
  let s ← get
  if j.phase == 0 then (if bwStands s (bfClus s j) then pure j else bfBegin gexit j)
  else if j.phase == 1 then pure j
  else do
    let k ← bfEnd gexit last perl j
    if k.cancel && k.fin.isNone then modify (fun t => cancelJob t t.curQ k) else pure ()
    pure k

/-- A BFILL's turn: in its own queue its issue, then the beginning and the end of one layer after another; in a matrix queue a step of its
matrix work. -/
def bfTurn (gexit last : Nat) (perl : Bool) (rec' : Nat) (j : Job) : EM Job := do
  let s ← get
  if s.curQ.eng == 0 then bwWork j else issueThen (bfCheck last rec') (bfWork gexit last perl) j

/-- BFILL (R239, R337). -/
def execBfill (h : CmdHdr) (gexit last : BitVec 16) (perl : Bool) (rec' : Dword) (s : State) : Host.Outcome State Fault Refusal :=
  jobStep (.bfill h gexit last perl rec') (bfTurn gexit.toNat last.toNat perl rec'.toNat) s

/-! ## BFCANCEL (R240) -/

/-- The unfinished BFILL of a queue that an identifier names. -/
def bfTarget (s : State) (jid : Dword) : Option Job :=
  (queue s s.curQ).jobs.find? (fun k => k.jid.setWidth 64 == jid && cmdOpc k.cmd == 0x40 && k.fin.isNone)

/-- Cancel a BFILL of this engine, or end NOJOB. BFCANCEL is not served while its BFILL is inside a layer (R240). -/
def bfcancel (job : Dword) (j : Job) : EM Job := do
  let s ← get
  match bfTarget s job with
  | none => pure { j with issued := true, fin := some 18 }
  | some k => do
    set (cancelJob s s.curQ k)
    pure { j with issued := true, aux := bfLayers k.cmd - k.prog, fin := some 0 }

/-- BFCANCEL (R240). -/
def execBfcancel (h : CmdHdr) (job : Dword) (s : State) : Host.Outcome State Fault Refusal := jobStep (.bfcancel h job) (bfcancel job) s

end Sys2Proof.Machine
end

