-- ==== Sys2Proof/Machine/Branch.lean ====
section
/-! DEFINITION. Branches and jumps (R125, R126), sequenced by the delay-slot machine of R124. -/

namespace Sys2Proof.Machine

/-- Set the sequencing state. -/
def setSeq (f : Seq → Seq) : M Unit := modE (fun x => { x with seq := f x.seq, afterEret := false })

/-- A target relative to the instruction's own address, in words (R125, R126). -/
def relTarget (p : Addr) (disp : Addr) : Addr := p + disp * 4

/-- A branch: taken to its target when the condition holds; otherwise on, annulling both slots when n is 1 (R124, R125). -/
def branchOp (w : Dword) (a b : Reg) (n : Bool) (disp : BitVec 15) (c : Dword → Dword → Bool) : M Unit := do
  let x ← readReg w a
  let y ← readReg w b
  let e ← getE
  if c x y then setSeq (fun q => seqTaken q (relTarget e.seq.p (disp.signExtend 55)))
  else if n then setSeq seqAnnul
  else setSeq seqNext

/-- BEQ (R125): taken when w[a] == w[b]. -/
def execBeq (a b : Reg) (n : Bool) (disp : BitVec 15) (s : State) : Host.Outcome State Fault Refusal :=
  performAs (branchOp (instrWord (.beq a b n disp)) a b n disp (fun x y => x == y)) s

/-- BNE (R125): taken when w[a] != w[b]. -/
def execBne (a b : Reg) (n : Bool) (disp : BitVec 15) (s : State) : Host.Outcome State Fault Refusal :=
  performAs (branchOp (instrWord (.bne a b n disp)) a b n disp (fun x y => x != y)) s

/-- BLT (R125): taken when s(w[a]) < s(w[b]). -/
def execBlt (a b : Reg) (n : Bool) (disp : BitVec 15) (s : State) : Host.Outcome State Fault Refusal :=
  performAs (branchOp (instrWord (.blt a b n disp)) a b n disp (fun x y => x.slt y)) s

/-- BGE (R125): taken when s(w[a]) ≥ s(w[b]). -/
def execBge (a b : Reg) (n : Bool) (disp : BitVec 15) (s : State) : Host.Outcome State Fault Refusal :=
  performAs (branchOp (instrWord (.bge a b n disp)) a b n disp (fun x y => !x.slt y)) s

/-- BLTU (R125): taken when u(w[a]) < u(w[b]). -/
def execBltu (a b : Reg) (n : Bool) (disp : BitVec 15) (s : State) : Host.Outcome State Fault Refusal :=
  performAs (branchOp (instrWord (.bltu a b n disp)) a b n disp (fun x y => x.ult y)) s

/-- BGEU (R125): taken when u(w[a]) ≥ u(w[b]). -/
def execBgeu (a b : Reg) (n : Bool) (disp : BitVec 15) (s : State) : Host.Outcome State Fault Refusal :=
  performAs (branchOp (instrWord (.bgeu a b n disp)) a b n disp (fun x y => !x.ult y)) s

/-- The link of JAL and JALR: the instruction's own address + 12, past the two slots (R126). -/
def linkOf (p : Addr) : Dword := (p + 12).setWidth 64

/-- J (R126). -/
def execJ (disp : BitVec 25) (s : State) : Host.Outcome State Fault Refusal :=
  performAs (setSeq (fun q => seqTaken q (relTarget q.p (disp.signExtend 55)))) s

/-- JAL (R126): w27 := the link. -/
def execJal (disp : BitVec 25) (s : State) : Host.Outcome State Fault Refusal :=
  performAs (do
    let e ← getE
    writeReg (instrWord (.jal disp)) 27 (linkOf e.seq.p)
    setSeq (fun q => seqTaken q (relTarget e.seq.p (disp.signExtend 55)))) s

/-- The target of JR and JALR; one that is not a multiple of 4 traps (R126). -/
def regTarget (w : Dword) (a : Reg) (imm : BitVec 16) : M Dword := do
  let x ← readReg w a
  let t := x + simm imm
  if t.toNat % 4 != 0 then trap cALIGN t else pure t

/-- JR (R126). -/
def execJr (a : Reg) (imm : BitVec 16) (s : State) : Host.Outcome State Fault Refusal :=
  performAs (do
    let t ← regTarget (instrWord (.jr a imm)) a imm
    setSeq (fun q => seqTaken q (t.setWidth 55))) s

/-- JALR (R126): the target is computed before w[d] is written. -/
def execJalr (d a : Reg) (imm : BitVec 16) (s : State) : Host.Outcome State Fault Refusal :=
  performAs (do
    let w := instrWord (.jalr d a imm)
    let t ← regTarget w a imm
    let e ← getE
    writeReg w d (linkOf e.seq.p)
    setSeq (fun q => seqTaken q (t.setWidth 55))) s

end Sys2Proof.Machine
end

