-- ==== Sys2Proof/Machine/Cflow.lean ====
section
/-! DEFINITION. The CFLOW group on the element (R222 to R231). -/

namespace Sys2Proof.Machine

/-- Translate every page of n bytes at a virtual address for the running task (with fuel for the pages): physical address,
bytes, codec of each piece (R226, R228). -/
def capturePages (k : AccKind) (asid : Nat) : Nat → Nat → Nat → M (List (Nat × Nat × Nat))
  | 0, _, _ => pure []
  | f + 1, va, n =>
    if n == 0 then pure []
    else do
      let m := Nat.min n (65536 - va % 65536)
      match ← xlatAcc k asid va false with
      | .phys pa _ codec _ =>
        let r ← capturePages k asid f (va + m) (n - m)
        pure ((pa, m, codec) :: r)
      | .zero => pure []
      | .loc _ => pure []

/-- Capture the pages of a range under the task's launch's address space. -/
def captureRange (k : AccKind) (va n : Nat) : M (List (Nat × Nat × Nat)) := do
  let s ← get
  capturePages k (lidAsid s (curElem s).csr.lid) (n / 65536 + 2) va n

/-- Dwords of the block of each operation. -/
def cfBlockLen (sub : Nat) : Nat := match sub with | 2 => 3 | 3 => 4 | 4 => 6 | _ => 2

/-- The rsv bits of a management block are 0 (R224). -/
def cfRsvOk (sub : Nat) (l : List Dword) : Bool :=
  if sub == 0 || sub == 7 then fld (dwAt l 1) 63 32 == 0 else fld (dwAt l 1) 63 16 == 0

/-- The checks of R226 on a post's block, for a user task or not. -/
def postOk (user : Bool) (op : CfOp) : Bool :=
  let d1 := cfD1 op
  let src := (dwAt op.block 2).toNat
  let sz := if fld d1 27 24 == 1 then 4 else 2
  fld d1 63 62 == 0 && dwAt op.block 3 == 0 && !(user && decide (1 ≤ postChan op ∧ postChan op < 8))
    && (postNull op || ((fld d1 27 24 == 1 || fld d1 27 24 == 3) && src % sz == 0 && !(postCond op && inLs src)))

/-- The checks of R228 on a read's block. -/
def readOk (user : Bool) (op : CfOp) : Bool :=
  let d1 := cfD1 op
  let dst := (dwAt op.block 4).toNat
  fld d1 63 62 == 0 && dwAt op.block 5 == 0 && (fld d1 27 24 == 0 || fld d1 27 24 == 1 || fld d1 27 24 == 3)
    && !(user && decide (readChan op < 8)) && dst % fmtBytes (readFmt op) == 0 && !inLs dst

/-- The operation of a captured block. -/
def cfOpOf (s : State) (sub : Nat) (l : List Dword) : CfOp :=
  { sub := sub, o := originOf s s.cur, block := l, terms := none, pages := [] }

/-- A management operation (R223, R224). -/
def cfIssue (w : Dword) (sub : Nat) (d a : Reg) : M Unit := do
  let va ← readReg w a
  let l ← readBlock va (cfBlockLen sub)
  let s ← get
  if cfRsvOk sub l then do
    outbox (.cf (cfOpOf s sub l))
    writeReg w d 0
  else writeReg w d minus2

/-- CFOPEN (R223). -/
def execCfopen (d a : Reg) (s : State) : Host.Outcome State Fault Refusal := perform (cfIssue (instrWord (.cfopen d a)) 0 d a) s

/-- CFNEXT (R223). -/
def execCfnext (d a : Reg) (s : State) : Host.Outcome State Fault Refusal := perform (cfIssue (instrWord (.cfnext d a)) 1 d a) s

/-- CFEXPECT (R223). -/
def execCfexpect (d a : Reg) (s : State) : Host.Outcome State Fault Refusal :=
  perform (cfIssue (instrWord (.cfexpect d a)) 2 d a) s

/-- CFSEAL (R223). -/
def execCfseal (d a : Reg) (s : State) : Host.Outcome State Fault Refusal := perform (cfIssue (instrWord (.cfseal d a)) 5 d a) s

/-- EXITMARK (R223). -/
def execExitmark (d a : Reg) (s : State) : Host.Outcome State Fault Refusal :=
  perform (cfIssue (instrWord (.exitmark d a)) 7 d a) s

/-- The pages of a post's source; a source in local store is checked and has none. -/
def postPages (op : CfOp) : M (List (Nat × Nat × Nat)) := do
  let src := (dwAt op.block 2).toNat
  let n := postCnt op * fmtBytes (postFmt op)
  if postNull op then pure []
  else if inLs src then do
    let _ ← lsCheck src n
    pure []
  else captureRange .load src n

/-- CFPOST (R223, R226). -/
def execCfpost (d a : Reg) (s : State) : Host.Outcome State Fault Refusal :=
  perform (do
    let w := instrWord (.cfpost d a)
    let va ← readReg w a
    let l ← readBlock va 4
    let t ← get
    let op := cfOpOf t 3 l
    if postOk (modeOf (curElem t) == 0) op then do
      let pages ← postPages op
      outbox (.cf { op with pages := pages })
      writeReg w d 0
    else writeReg w d minus2) s

/-- CFREAD (R223, R228). -/
def execCfread (d a : Reg) (s : State) : Host.Outcome State Fault Refusal :=
  perform (do
    let w := instrWord (.cfread d a)
    let va ← readReg w a
    let l ← readBlock va 6
    let t ← get
    let op := cfOpOf t 4 l
    if readOk (modeOf (curElem t) == 0) op then do
      let pages ← captureRange .store (dwAt l 4).toNat (readCnt op * fmtBytes (readFmt op))
      outbox (.cf { op with pages := pages })
      writeReg w d 0
    else writeReg w d minus2) s

/-- Four counters packed, the first lowest. -/
def packCounts (o : CfObj) (i : Nat) : Dword :=
  dw ((span 0 4).foldl (fun v k => v + (tget o.counts (i + k) (0 : BitVec 16)).toNat * 2 ^ (16 * k)) 0)

/-- The word of an object that a selector of CFSTAT gives (R230). -/
def statWord (o : CfObj) (sel : Nat) : Dword :=
  match sel with
  | 0 => dw (o.gen.toNat + o.state * 2 ^ 16 + bnat o.eset * 2 ^ 18 + bnat o.wide * 2 ^ 19 + o.parked.length * 2 ^ 20
          + o.reads.length * 2 ^ 24 + (BitVec.ofInt 7 o.w).toNat * 2 ^ 28 + (o.nl - 1) * 2 ^ 35 + o.exitl.toNat * 2 ^ 43)
  | 1 => o.a
  | 2 => o.e
  | 3 => packCounts o 0
  | _ => packCounts o 4

/-- CFSTAT (R230): immediate; a handle of another device is answered by that device (log 1). One to which no route leads names no object
that can answer: the request is dropped and counted (R348), and the handle is a bad one, −2 (DEDUCED, log 49). -/
def execCfstat (d a : Reg) (sel : BitVec 5) (s : State) : Host.Outcome State Fault Refusal :=
  perform (do
    let w := instrWord (.cfstat d a sel)
    let h ← readReg w a
    let t ← get
    if cfNamed t h then writeReg w d (statWord (cfObj t h) sel.toNat)
    else if fld h 63 48 == t.regs.devnum.toNat || fld h 28 0 != 0 then writeReg w d minus2
    else if (routePort t (fld h 63 48)).isSome then writeReg w d (Config.remoteStat t.tick h sel.toNat)
    else do
      set (bumpTele t (4 + idieOf (dieOf t.cur)) 0x18)
      writeReg w d minus2) s

/-- CONFX (R231): the result, and the flags of its operations. -/
def confx (m1 m2 z delta eps : Nat) : Bool × Nat :=
  let gap := fpSub .fp32 0 m1 m2
  let mass := fpSub .fp32 0 z m1
  let ge := fpLe .fp32 delta gap.1
  let le := fpLe .fp32 mass.1 eps
  (ge.1 && le.1, gap.2 ||| mass.2 ||| ge.2 ||| le.2)

/-- CONFX (R231). -/
def execConfx (d a b : Reg) (s : State) : Host.Outcome State Fault Refusal :=
  perform (do
    let w := instrWord (.confx d a b)
    let x ← readReg w a
    let y ← readReg w b
    let e ← getE
    if e.csr.axmode.getLsbD 1 then writeReg w d 0
    else do
      let r := confx (fld x 31 0) (fld x 63 32) (fld y 31 0) e.csr.cxdelta.toNat e.csr.cxeps.toNat
      writeReg w d (boolW r.1)
      raise r.2) s

end Sys2Proof.Machine
end

