-- ==== Sys2Proof/Machine/Merge.lean ====
section
/-! DEFINITION. The COMMITs of a system domain at a system edge (R276, R280, R282, R285, R353): one key order over every member, which
each member derives from the reports of the same cut (DESIGN CHOICE, log 53: R353 names the timestamps of a report, and no packet that
tells the members the keys and lines that R276 and R280 need of one another). -/

namespace Sys2Proof.Machine

/-! ## What a member reports -/

/-- An entry of SLTAB: identifier, the number of members, the address of the list (R353). -/
def slEntry (s : State) (e : Nat) : Option (Nat × Nat × Nat) :=
  let d := tget s.regs.sltab (2 * e) 0
  if dbit d 63 then some (fld d 31 0, fld d 47 32, (tget s.regs.sltab (2 * e + 1) 0).toNat) else none

/-- The members of an entry; none when the list cannot be read. -/
def slMembers (s : State) (n pa : Nat) : Option (List Nat) := (physRead s pa (2 * n)).map (fun l => (pieces 2 l).map leNat)

/-- The regions a remote access may name (R297, R350). -/
def remoteOk (s : State) (pa : Nat) : Bool := (paRegion pa == 0 || paRegion pa == 1 || paRegion pa == 3) && populated s pa

/-- A line under one name for every member: the device whose memory it is in, and its number there (R298, R350). -/
def lineName (s : State) (l : Nat) : Nat × Nat :=
  if paRegion (64 * l) == 8 then (winDev s (64 * l), remotePa s (64 * l) / 64) else (s.regs.devnum.toNat, l)

/-- A byte that stands in the memory of another member. -/
def memberByte (s : State) (ms : List Nat) (pa : Nat) : Bool :=
  paRegion pa == 8 && winOpen s pa && winDev s pa != s.regs.devnum.toNat && ms.contains (winDev s pa)

/-- The order key of an event, by its element's address (R273). -/
def sysKey (s : State) (e : Nat) (v : Ev) : OKey := (v.ts.toNat, elAddr s e, v.num)

/-- A finished run as the report has it. -/
def sysRun (s : State) (ms : List Nat) (x : Nat × Run) : SysRun :=
  { ts := x.2.ev.ts.toNat, el := elAddr s x.1, num := x.2.ev.num, serial := x.2.serial,
    reads := x.2.rs.map (lineName s), lines := (linesOf x.2.wb).map (lineName s),
    writes := (x.2.wb.filter (fun w => memberByte s ms w.1)).map (fun w => (winDev s w.1, remotePa s w.1, w.2.1)),
    lo := obLeast x.2 }

/-- The events of a domain that await serial admission at the head of their channel (R282). -/
def serialHeads (s : State) (lid : BitVec 32) : List (Nat × Ev) :=
  s.elems.flatMap (fun x => (x.2.inq.filter (fun v => v.lid == lid && serialHead x.2 v.chan == some v)).map (fun v => (x.1, v)))

/-- The least of some keys. -/
def leastKey (l : List OKey) : Option OKey := (sortBy keyLt l).head?

/-- The lines of the serial runs that stall for this edge (R282). -/
def stalledLines (s : State) (lid : BitVec 32) : List Nat :=
  s.elems.flatMap (fun x =>
    (match x.2.run with | some r => if x.2.stall == .full && r.ev.lid == lid then linesOf r.wb else [] | none => [])
      ++ (match x.2.under with | some u => if u.stall == .full && u.run.ev.lid == lid then linesOf u.run.wb else [] | none => []))

/-- What this member holds of a system launch at a cut. -/
def sysPart (s : State) (lid : BitVec 32) (ms : List Nat) : SysPart :=
  let fs := domFinished s lid
  let heads := (serialHeads s lid).map (fun h => sysKey s h.1 h.2)
  let low := leastKey ((domUnfinished s lid).map (fun r => sysKey s r.1 r.2.ev) ++ heads)
  { lo := dw (leastOf topTs (fs.map (fun r => obLeast r.2))),
    ser := (domUnfinished s lid).any (fun r => r.2.serial) || admittedWaits s lid,
    low := low, wait := heads.any (fun h => low == some h),
    parts := (stalledLines s lid).map (lineName s), runs := fs.map (sysRun s ms) }

/-! ## What an edge admits -/

/-- The reports of a launch that system edge k uses (R353). -/
def cutReports (s : State) (slid : BitVec 32) (k : Nat) : List HReport := s.reports.filter (fun r => r.slid == slid && r.j + 2 == k)

/-- Every member has reported. -/
def cutWhole (ms : List Nat) (rs : List HReport) : Bool := ms.all (fun d => rs.any (fun r => r.dev == d))

/-- The edges since a cut's reports were made: their COMMITs are what the reports do not know. -/
def sysPasts (s : State) (slid : BitVec 32) (k : Nat) : List SysPast := s.sysHist.filter (fun p => p.slid == slid && decide (k ≤ p.k + 2))

/-- The finished runs of a cut that no edge since has committed, with their devices. -/
def sysCands (ps : List SysPast) (rs : List HReport) : List (Nat × SysRun) :=
  rs.flatMap (fun r => (r.part.runs.filter (fun x => !ps.any (fun p => p.gone.contains (x.el, x.num)))).map (fun x => (r.dev, x)))

/-- H_O of a reported run of a device (R353). -/
def sysBound (rs : List HReport) (d : Nat) (x : SysRun) : Nat :=
  leastOf topTs (rs.flatMap (fun r =>
    if r.dev == d then (r.part.runs.filter (fun y => !(y.el == x.el && y.num == x.num))).map (·.lo) else [r.part.lo.toNat]))

/-- A run has read one of some lines, and can be aborted for it (R280, R281). -/
def sysReads (x : SysRun) (w : List (Nat × Nat)) : Bool := !x.serial && x.reads.any (fun l => w.contains l)

/-- The runs that an edge commits, from runs in key order: w holds the lines written since the cut, and a run that has read one of them
holds back itself and every run after it (R276, R280). -/
def sysPlan (ok : Nat × SysRun → Bool) : List (Nat × Nat) → List (Nat × SysRun) → List (Nat × SysRun)
  | _, [] => []
  | w, x :: l => if sysReads x.2 w then [] else if ok x then x :: sysPlan ok (w ++ x.2.lines) l else sysPlan ok w l

/-- The key of a reported run. -/
def runKey (x : Nat × SysRun) : OKey := (x.2.ts, x.2.el, x.2.num)

/-- R276's test of a reported run, and R293's: a run that has read and written nothing has committed at its FINISH. -/
def sysOk (h : Nat) (rs : List HReport) (cands : List (Nat × SysRun)) (x : Nat × SysRun) : Bool :=
  !(x.2.reads.isEmpty && x.2.lines.isEmpty) && decide (x.2.ts < h ∧ x.2.ts ≤ sysBound rs x.1 x.2)
    && (x.2.serial || !(rs.any (fun r => r.part.ser) || cands.any (fun c => c.2.serial)))

/-- The serial event that an edge admits (R282): its key is the least of every member's, it is H, no serial run is unfinished and none
has been admitted since the cut, and nothing of a lower timestamp is still to commit. -/
def sysSerial (h : Nat) (ps : List SysPast) (rs : List HReport) (left : List (Nat × SysRun)) : Option OKey :=
  match leastKey (rs.filterMap (fun r => r.part.low)) with
  | none => none
  | some key =>
    if rs.any (fun r => r.part.wait && r.part.low == some key) && key.1 == h && !rs.any (fun r => r.part.ser) && !ps.any (fun p => p.ser)
        && left.all (fun x => decide (h ≤ x.2.ts))
    then some key else none

/-- The finished serial runs that commit before a serial event of the same timestamp is admitted (R284, R293; log 15). -/
def serialLeft (left : List (Nat × SysRun)) : List (Nat × SysRun) := left.filter (fun x => x.2.serial)

/-! ## What an edge does here -/

/-- The element of this device that an element address names. -/
def hereEl (s : State) (el : Nat) : Option Nat := if el / 2048 == s.regs.devnum.toNat then some (el % 2048) else none

/-- A finished run of this device commits; what it writes to another member's memory is written there at that member's edge. -/
def sysOwn (ms : List Nat) (s : State) (e num : Nat) : State :=
  match finAt s e num with
  | none => s
  | some k =>
    commitFin (modElem s e (fun x => { x with fin := x.fin.map (fun r =>
      if r.ev.num == num then { r with wb := r.wb.filter (fun w => !memberByte s ms w.1) } else r) })) e k

/-- One run of the plan: this device's own commits; another member's writes what it holds for this memory (R279, R350). -/
def sysApply (ms : List Nat) (s : State) (x : Nat × SysRun) : State :=
  match hereEl s x.2.el with
  | some e => sysOwn ms s e x.2.num
  | none =>
    (applyWrites s ((x.2.writes.filter (fun w => w.1 == s.regs.devnum.toNat && remoteOk s w.2.1)).map (fun w => (w.2.1, w.2.2, hwCodec)))).1

/-- The serial event of a key has its admission, where it waits on this device. -/
def sysAdmit (s : State) (key : OKey) : State :=
  match hereEl s key.2.1 with
  | some e => admitEv s e key.2.2
  | none => s

/-- The partial COMMITs, COMMITs and the serial admission of system edge k for a launch whose members have all reported. -/
def sysMerge (s : State) (lid : BitVec 32) (ms : List Nat) (k : Nat) (rs : List HReport) : State :=
  let h := leastOf topTs (rs.map (fun r => r.l.toNat))
  let ps := sysPasts s lid k
  let cands := sysCands ps rs
  let w0 := rs.flatMap (fun r => r.part.parts)
  let sorted := sortBy (fun a b => keyLt (runKey a) (runKey b)) cands
  let first := sysPlan (sysOk h rs cands) (w0 ++ ps.flatMap (fun p => p.lines)) sorted
  let left := sorted.filter (fun x => !first.contains x)
  let key := sysSerial h ps rs left
  let plan := first ++ (if key.isSome then serialLeft left else [])
  let lines := w0 ++ plan.flatMap (fun x => x.2.lines)
  let t := plan.foldl (sysApply ms) (stallCommits lid s)
  let u := abortReaders t lid (fun l => lines.contains (lineName t l))
  let past : SysPast := { slid := lid, k := k, gone := plan.map (fun x => (x.2.el, x.2.num)), lines := lines, ser := key.isSome }
  let v := { u with sysHist := u.sysHist ++ [past] }
  match key with
  | some q => sysAdmit v q
  | none => v

/-- System edge k of one launch: over all members where every one has reported, by its own H and H_O otherwise (R353). -/
def sysCommit (k : Nat) (es : List (Nat × Nat × Nat)) (s : State) (lid : BitVec 32) : State :=
  match (es.find? (fun e => e.1 == lid.toNat)).bind (fun e => slMembers s e.2.1 e.2.2) with
  | some ms =>
    let rs := cutReports s lid k
    if cutWhole ms rs then sysMerge s lid ms k rs else serialWhere (· == lid) (edgeCommit s lid)
  | none => serialWhere (· == lid) (edgeCommit s lid)

/-- System edge k of every launch of system scope, in ascending launch identifier (R285); and of those whose part here has ended, for what
the other members' COMMITs still write to this device's memory (R279, R325, R350). -/
def sysCommits (k : Nat) (es : List (Nat × Nat × Nat)) (s : State) : State :=
  let ended := (s.slDone.map (BitVec.ofNat 32)).filter (fun lid => !(launchOf s lid).isSome)
  let active := (activeLids s).filter (fun lid => lidScope s lid == 3)
  (sortBy (fun a b => decide (a.toNat < b.toNat)) (active ++ ended)).foldl (sysCommit k es) s

end Sys2Proof.Machine
end

