-- ==== Sys2Proof/Machine/Matrix.lean ====
section
/-! DEFINITION. The matrix engine's commands (R197 to R208). Each is one step of the job whose turn it is: its issue, with the
checks made there, and then a block of 64 rows, a burst of MFILL, or the whole of a command that is one step (R334). -/

namespace Sys2Proof.Machine

/-- The rows of the block that a job is to work on, of n in all. -/
def blockLen (j : Job) (n : Nat) : Nat := Nat.min 64 (n - j.prog)

/-- A block of rows is done: its boundary is due, AUX counts the rows, and the job is done after the last. -/
def blockDone (j : Job) (n m : Nat) : EM Job := do
  stepEnd 0
  let k := { j with prog := j.prog + m, aux := j.prog + m }
  pure (doneIf k (decide (n ≤ j.prog + m)) (bnat (jTrunc j)))

/-! ## What a command waits for (R193) -/

/-- The tile of a job's launch, which an MSTREAM takes as its own when it is issued. -/
def jobTile (x : Cluster) (j : Job) : Option Tile := tileOf x j.o.lid.toNat

/-- The tile that an issued MSTREAM keeps: it re-latches it after a stop (R334), whatever an MWLOAD of its launch has latched meanwhile
(log 38). -/
def streamTile (x : Cluster) (j : Job) : Option Tile := tileOf x (2 ^ 33 + j.jid.toNat)

/-- MFILL. -/
def isFill (j : Job) : Bool := cmdOpc j.cmd == 0x01

/-- MSAVE. -/
def isSave (j : Job) : Bool := cmdOpc j.cmd == 0x07

/-- A pre-emptive MSAVE. -/
def isPreSave (j : Job) : Bool := isSave j && j.cmd.toNat.testBit 80

/-- MSTREAM. -/
def isStream (j : Job) : Bool := cmdOpc j.cmd == 0x03

/-- A job's work is not done. -/
def unfinishedJob (j : Job) : Bool := j.fin.isNone

/-- The depth of the rows that a stream reads: that of the launch's tile, else the stream format's own, as an MWLOAD may still wait. -/
def streamDepth (x : Cluster) (j : Job) (f : Fmt) : Nat :=
  match if j.issued then streamTile x j else jobTile x j with
  | some t => tileDepth t.fmt
  | none => tileDepth f

/-- The launch that an MSAVE of the queue saves. -/
def saveLid (j : Job) : BitVec 32 :=
  let l := BitVec.ofNat 32 (nbits j.cmd.toNat 191 160)
  if isPreSave j && l != 0 then l else j.o.lid

/-- The slots that the image of an MRESTORE names, as its memory stands; none where that cannot be read, or is no image (R208). -/
def restoredSlots (s : State) (q : QueueId) (j : Job) : List Nat :=
  match (virtRead s (xverOf q) j.o.asid j.o.mode (cmdD j.cmd 3).toNat 256).2 with
  | .ok l => if imageOk (bytesDwords l) then imageSlots (bytesDwords l) else []
  | .error _ => []

/-- The operand slots that a matrix command reads or writes (R193): those of its launch for an MSAVE, but not a pre-emptive one, which takes
the commands of its launch that have not been issued out of the queue (R207); those that its image names for an MRESTORE; SLOT0 and the
next for the work of a BFILL (R239, R337). -/
def touchedSlots (s : State) (q : QueueId) (j : Job) : List Nat :=
  let x := clus s q.idx
  let n := j.cmd.toNat
  let opc := cmdOpc j.cmd
  if opc == 0x01 then span (nbits n 87 80) (nbits n 95 88 + 1)
  else if opc == 0x02 then
    match fmtOfCode (BitVec.ofNat 4 (nbits n 91 88)) with | some f => span (nbits n 87 80) (tileSlots f) | none => []
  else if opc == 0x03 && !n.testBit 80 then
    match fmtOfCode (BitVec.ofNat 4 (nbits n 91 88)) with
    | some f => span (nbits n 99 92) (((nbits n 153 141 + 1) * streamDepth x j f * fmtBytes f + slotBytes - 1) / slotBytes)
    | none => []
  else if opc == 0x07 && !isPreSave j then slotsOf x (saveLid j)
  else if opc == 0x08 then restoredSlots s q j
  else if opc == 0x40 then span (j.data.getD 3 0) 2
  else []

/-- An earlier unfinished MFILL of the queue holds a slot that the command touches. -/
def waitsFill (s : State) (q : QueueId) (j : Job) : Bool :=
  let mine := touchedSlots s q j
  ((queue s q).jobs.takeWhile (fun k => k.jid != j.jid)).any
    (fun k => isFill k && unfinishedJob k && (touchedSlots s q k).any (fun i => mine.contains i))

/-- A command of a matrix queue that has not been issued and has aged waits for a fill. -/
def fillWaits (s : State) (q : QueueId) (j : Job) : Bool := !j.issued && j.age != 0 && waitsFill s q j

/-- The queue or a tile has changed: a command that now waits for a fill is not eligible, and ages anew once it is again (R193, R333). -/
def lapseFills (s : State) (c : Nat) : State :=
  let q : QueueId := { eng := 0, idx := c }
  if (queue s q).jobs.any (fillWaits s q) then
    modQueue s q (fun x => { x with jobs := x.jobs.map (fun j => if fillWaits s q j then { j with age := 0 } else j) })
  else s

/-! ## MFILL (R198) -/

/-- The checks of MFILL at issue: NOTOWNED, then the shape, then RANGE. -/
def mfillCheck (slot n : Nat) (src : Nat) (j : Job) : EM Job := do
  needSlots j slot n
  let r ← emShape j src
  if n * slotBytes < shCount r * shSize r then jobFault 11 slot
  else pure { j with data := jData false r r (shCount r) (shCount r) [] }

/-- Read the elements of a burst of MFILL, each with its place: element i at i·s_0 of the run. -/
def mfillRead (j : Job) (r : Shp) (base : Nat) : List Nat → EM (List (Nat × List Byte) × Bool)
  | [] => pure ([], false)
  | i :: is => do
    let g ← emSource j r true i (shOff r i)
    let t ← mfillRead j r base is
    match g.bytes with
    | none => pure (t.1, t.2 || g.trunc)
    | some l => pure ((base + i * shSize r, l) :: t.1, t.2 || g.trunc)

/-- A burst of MFILL. -/
def mfillWork (slot : Nat) (j : Job) : EM Job := do
  let r := jSrc j
  let is := span j.prog (Nat.min (burstLen (shSize r)) (jTotal j - j.prog))
  let t ← mfillRead j r (slot * slotBytes) is
  modify (fun s => opmWriteFor s j.o s.curQ.idx t.1)
  let k := { jNote j t.2 [] with prog := j.prog + is.length, aux := j.aux + t.1.length * shSize r }
  pure (doneIf k (decide (jTotal j ≤ k.prog)) (bnat (jTrunc k)))

/-- MFILL (R198). -/
def execMfill (h : CmdHdr) (slot nslot1 : BitVec 8) (src : Dword) (s : State) : Host.Outcome State Fault Refusal :=
  jobStep (.mfill h slot nslot1 src) (issueThen (mfillCheck slot.toNat (nslot1.toNat + 1) src.toNat) (mfillWork slot.toNat)) s

/-! ## MWLOAD (R199) -/

/-- Latch the tile of a format from its slots. -/
def mwload (slot : Nat) (f : Fmt) (j : Job) : EM Job := do
  needSlots j slot (tileSlots f)
  let l ← emOpm (slot * slotBytes) (tileSize f)
  let t := tileFrom j.o.lid.toNat f l
  emModClus (fun y => latch y t.1)
  modify (fun s => lapseFills s s.curQ.idx)
  stepEnd 0
  pure { j with issued := true, flags := j.flags ||| jobFlags t.2 false, fin := some 0 }

/-- MWLOAD (R199). -/
def execMwload (h : CmdHdr) (slot : BitVec 8) (wfmt : Fmt) (s : State) : Host.Outcome State Fault Refusal :=
  jobStep (.mwload h slot wfmt) (mwload slot.toNat wfmt) s

/-! ## MSTREAM (R200, R201) -/

/-- The checks of MSTREAM at issue, in the order of R200. -/
def mstreamCheck (shape? : Bool) (sfmt : Fmt) (slot row0 nrow shape : Nat) (j : Job) : EM Job := do
  let x ← emClus
  match jobTile x j with
  | none => jobFault 2 0
  | some t =>
    if streamOf t.fmt != sfmt then jobFault 2 0
    else do
      let rowbytes := tileDepth t.fmt * fmtBytes sfmt
      let r ← if shape? then do
          let r ← emShape j shape
          if shNdim r != 2 || shExt r 0 != tileDepth t.fmt || shExt r 1 != nrow || shFmt r != sfmt then jobFault 3 shape else pure r
        else do
          let n := (nrow * rowbytes + slotBytes - 1) / slotBytes
          if 256 < slot + n then jobFault 11 slot
          else do
            needSlots j slot n
            pure (0 : Shp)
      let w := rowWidth (accOf t.fmt)
      needRowsOf j.o.lid (row0 * w) (nrow * w)
      takeRows j.o.lid (row0 * w) (nrow * w)
      emModClus (fun y => latch y { t with owner := 2 ^ 33 + j.jid.toNat })
      pure { j with data := jData false r r nrow nrow [] }

/-- The activation values of rows i on, n of them, from slots (R194). -/
def rowsFromSlots (t : Tile) (sfmt : Fmt) (slot i n : Nat) : EM (List (List Nat)) := do
  let rowbytes := tileDepth t.fmt * fmtBytes sfmt
  let l ← emOpm (slot * slotBytes + i * rowbytes) (n * rowbytes)
  pure ((pieces rowbytes l).map (fun r => (pieces (fmtBytes sfmt) r).map leNat))

/-- The activation values of row i from a shape, from cell k on, n of them: one that is out of bounds is +0 (R200). -/
def rowFromShape (j : Job) (r : Shp) (i : Nat) : Nat → Nat → EM (List Nat × Bool)
  | 0, _ => pure ([], false)
  | n + 1, k => do
    let e := i * shExt r 0 + k
    let g ← emSource j r true e (shOff r e)
    let t ← rowFromShape j r i n (k + 1)
    pure ((match g.bytes with | some l => leNat l | none => 0) :: t.1, g.trunc || t.2)

/-- The activation rows i on, n of them, from a shape. -/
def rowsFromShape (j : Job) (r : Shp) (depth : Nat) : Nat → Nat → EM (List (List Nat) × Bool)
  | 0, _ => pure ([], false)
  | n + 1, i => do
    let a ← rowFromShape j r i depth 0
    let t ← rowsFromShape j r depth n (i + 1)
    pure (a.1 :: t.1, a.2 || t.2)

/-- The activation rows of a block. -/
def blockRows (shape? : Bool) (t : Tile) (sfmt : Fmt) (slot : Nat) (j : Job) (m : Nat) : EM (List (List Nat) × Bool) := do
  if shape? then rowsFromShape j (jSrc j) (tileDepth t.fmt) m j.prog
  else pure (← rowsFromSlots t sfmt slot j.prog m, false)

/-- What the array leaves of a block: the chains, or, where an error of the array is to come at this computation too, words that the spec
does not state (log 38). -/
def blockOut (tick : Nat) (bad : Bool) (row m cn : Nat) (x y : Cluster) : Cluster :=
  if bad then fillRows row m cn (fun i c => Config.softWord tick (accKey i c)) x else y

/-- The computations of a block fail both times: its checksum does not hold of the chains, or the array errs twice (R200, R201). -/
def blockFails (t : Tile) (ovw : Bool) (x : Cluster) (row : Nat) (l : List (List Nat)) : Bool :=
  decide (2 ≤ x.softErr) || !blockPasses t ovw x row l

/-- A block of MSTREAM. A block whose checksum fails once is computed again from the copy; one that fails twice ends the job
CHECKFAIL with what the second computation left, and raises the machine check (R200, R201, R371). -/
def mstreamWork (shape? ovw : Bool) (cn : Nat) (sfmt : Fmt) (slot row0 nrow : Nat) (j : Job) : EM Job := do
  let x ← emClus
  match streamTile x j with
  | none => jobFault 2 0
  | some t =>
    let m := blockLen j nrow
    let w := rowWidth (accOf t.fmt)
    let rs ← blockRows shape? t sfmt slot j m
    if ovw then pure () else needClean ((row0 + j.prog) * w) (m * w) 64
    let y ← emClus
    let k := jNote j rs.2 []
    let r := chainRows t ovw cn (row0 + j.prog) rs.1 (y, k.flags)
    let s ← get
    emAcc j ((row0 + j.prog) * w) (m * w) cn (fun _ =>
      { blockOut s.tick (decide (2 ≤ y.softErr)) ((row0 + j.prog) * w) (m * w) cn y r.1 with softErr := y.softErr - 2 })
    if blockFails t ovw y (row0 + j.prog) rs.1 then do
      modify (fun u => mcheck u (u.curQ.idx / 64) 7 (dw (row0 + j.prog)) j.o.el j.o.ts j.o.lid)
      stepEnd 0
      pure { k with flags := r.2, fin := some 16 }
    else blockDone { k with flags := r.2 } nrow m

/-- MSTREAM (R200). -/
def execMstream (h : CmdHdr) (srcShape ovw : Bool) (cn1 : BitVec 6) (sfmt : Fmt) (slot : BitVec 8) (row0 nrow1 : BitVec 13)
    (shape : Dword) (s : State) : Host.Outcome State Fault Refusal :=
  jobStep (.mstream h srcShape ovw cn1 sfmt slot row0 nrow1 shape) (issueThen (mstreamCheck srcShape sfmt slot.toNat row0.toNat (nrow1.toNat + 1) shape.toNat)
    (mstreamWork srcShape ovw (cn1.toNat + 1) sfmt slot.toNat row0.toNat (nrow1.toNat + 1))) s

/-! ## MZERO (R202) -/

/-- The checks of MZERO at issue. -/
def mzeroCheck (row0 nrow : Nat) (j : Job) : EM Job := do
  needRowsOf j.o.lid row0 nrow
  takeRows j.o.lid row0 nrow
  pure j

/-- A block of MZERO. -/
def mzeroWork (cn row0 nrow : Nat) (j : Job) : EM Job := do
  let m := blockLen j nrow
  emAcc j (row0 + j.prog) m cn (fillRows (row0 + j.prog) m cn (fun _ _ => 0))
  blockDone j nrow m

/-- MZERO (R202). -/
def execMzero (h : CmdHdr) (cn1 : BitVec 6) (row0 nrow1 : BitVec 13) (s : State) : Host.Outcome State Fault Refusal :=
  jobStep (.mzero h cn1 row0 nrow1) (issueThen (mzeroCheck row0.toNat (nrow1.toNat + 1)) (mzeroWork (cn1.toNat + 1) row0.toNat (nrow1.toNat + 1))) s

/-! ## MSTORE (R203) -/

/-- The checks of MSTORE at issue: the destination shape, the extension block, the rows, of which it takes none. -/
def mstoreCheck (scm : BitVec 2) (cn : Nat) (afmt : Fmt) (sat : Bool) (row0 nrow dst : Nat) (j : Job) : EM Job := do
  let r ← emShape j dst
  if shNdim r != 2 || shExt r 0 != cn || shExt r 1 != nrow || decide (12 < shCode r) || (sat && noSat (shFmt r)) then jobFault 3 dst
  else do
    let vec ← if scm == 2 then do
        let b ← emBlock j dst (BitVec.allOnes 64) 0
        if (dwAt b 0).toNat % 4 != 0 then jobFault 3 dst else pure (dwAt b 0).toNat
      else pure 0
    let w := rowWidth afmt
    needRowsOf j.o.lid (row0 * w) (nrow * w)
    pure { j with data := jData false r r nrow vec [] }

/-- The scale of row i. -/
def mstoreScale (scm : BitVec 2) (scale : BitVec 32) (j : Job) (i : Nat) : EM Nat := do
  if scm == 2 then pure (leNat (← emRead j ((jHave j + 4 * i) % 2 ^ 64) 4)) else pure scale.toNat

/-- One stored value, with its flags (R203): without a scale an FP32 value goes to FP32 as it is, and so does an INT32 value to INT32; every
other value is converted, an FP64 value to FP64 among them. -/
def mstoreVal (scm : BitVec 2) (afmt f : Fmt) (rm : Nat) (sat : Bool) (a sc : Nat) : Nat × Nat :=
  if scm == 0 then (if afmt == f && afmt != .fp64 then (a, 0) else fpConvert afmt f rm sat a) else fpScale afmt f rm sat a sc

/-- What rows of MSTORE give: what is written where, the flags, whether an element was dropped, and the first element out of bounds
under TRAP, before which the rows stop. -/
structure StoreRows where
  ws    : List (Nat × List Byte)
  flags : Nat
  drop  : Bool
  oob   : Option Nat
  deriving DecidableEq, Repr

/-- No rows. -/
def noStore : StoreRows := { ws := [], flags := 0, drop := false, oob := none }

/-- Rows and then further rows. -/
def StoreRows.then' (a b : StoreRows) : StoreRows :=
  { ws := a.ws ++ b.ws, flags := a.flags ||| b.flags, drop := a.drop || b.drop, oob := b.oob }

/-- The elements of row i from column c on, n of them: they stop before one out of bounds under TRAP (R190). -/
def mstoreRow (scm : BitVec 2) (afmt : Fmt) (rm : Nat) (sat : Bool) (x : Cluster) (r : Shp) (row i sc : Nat) :
    Nat → Nat → StoreRows
  | 0, _ => noStore
  | n + 1, c =>
    let e := i * shExt r 0 + c
    let y := mstoreVal scm afmt (shFmt r) rm sat (accGet x afmt row c) sc
    let off := shOff r e
    if !shIn r off && shBmode r == 0 then { noStore with oob := some e }
    else
      StoreRows.then' { ws := if shIn r off then [(shAddr r off, leBytes (shSize r) y.1)] else [], flags := y.2, drop := !shIn r off,
                        oob := none } (mstoreRow scm afmt rm sat x r row i sc n (c + 1))

/-- The rows of a block of MSTORE. -/
def mstoreRows (scm : BitVec 2) (cn : Nat) (afmt : Fmt) (rm : Nat) (sat : Bool) (scale : BitVec 32) (x : Cluster) (j : Job)
    (row0 : Nat) : List Nat → EM StoreRows
  | [] => pure noStore
  | i :: is => do
    let sc ← mstoreScale scm scale j i
    let a := mstoreRow scm afmt rm sat x (jDst j) (row0 + i) i sc cn 0
    if a.oob.isSome then pure a
    else do
      let t ← mstoreRows scm cn afmt rm sat scale x j row0 is
      pure (a.then' t)

/-- A block of MSTORE: the elements before one out of bounds under TRAP are written, and then the job faults (R190). -/
def mstoreWork (scm : BitVec 2) (cn : Nat) (afmt : Fmt) (rm : Nat) (sat : Bool) (scale : BitVec 32) (row0 nrow : Nat) (j : Job) :
    EM Job := do
  let x ← emClus
  let m := blockLen j nrow
  needClean ((row0 + j.prog) * rowWidth afmt) (m * rowWidth afmt) cn
  let r ← mstoreRows scm cn afmt rm sat scale x j row0 (span j.prog m)
  emWrite j r.ws
  match r.oob with
  | some e => jobFaultKept 9 e
  | none => pure ()
  blockDone { jNote j r.drop [] with flags := j.flags ||| jobFlags r.flags false } nrow m

/-- MSTORE (R203). -/
def execMstore (h : CmdHdr) (scm : BitVec 2) (cn1 : BitVec 6) (afmt : Fmt) (rm : BitVec 2) (sat : Bool) (scale : BitVec 32)
    (row0 nrow1 : BitVec 13) (dst : Dword) (s : State) : Host.Outcome State Fault Refusal :=
  jobStep (.mstore h scm cn1 afmt rm sat scale row0 nrow1 dst) (issueThen (mstoreCheck scm (cn1.toNat + 1) afmt sat row0.toNat (nrow1.toNat + 1) dst.toNat)
    (mstoreWork scm (cn1.toNat + 1) afmt rm.toNat sat scale row0.toNat (nrow1.toNat + 1))) s

/-! ## MLOADACC (R204) -/

/-- The checks of MLOADACC at issue. -/
def mloadCheck (cn : Nat) (afmt : Fmt) (row0 nrow src : Nat) (j : Job) : EM Job := do
  let r ← emShape j src
  if shNdim r != 2 || shExt r 0 != cn || shExt r 1 != nrow || shFmt r != afmt then jobFault 3 src
  else do
    let w := rowWidth afmt
    needRowsOf j.o.lid (row0 * w) (nrow * w)
    takeRows j.o.lid (row0 * w) (nrow * w)
    pure { j with data := jData false r r nrow nrow [] }

/-- Read the elements of the walk for the accumulator: element e is (ROW0 + e div CN, e mod CN), here as row, column and value. -/
def mloadRead (j : Job) (cn : Nat) (row0 : Nat) : List Nat → EM (List (Nat × Nat × Nat) × Bool)
  | [] => pure ([], false)
  | e :: es => do
    let g ← emSource j (jSrc j) true e (shOff (jSrc j) e)
    let t ← mloadRead j cn row0 es
    match g.bytes with
    | none => pure (t.1, g.trunc || t.2)
    | some l => pure ((row0 + e / cn, e % cn, leNat l) :: t.1, g.trunc || t.2)

/-- A block of MLOADACC. -/
def mloadWork (cn : Nat) (afmt : Fmt) (row0 nrow : Nat) (j : Job) : EM Job := do
  let m := blockLen j nrow
  let t ← mloadRead j cn row0 (span (j.prog * cn) (m * cn))
  emAccAt j (fun r c => t.1.any (fun p => p.1 == r / rowWidth afmt && p.2.1 == c))
    (fun x => t.1.foldl (fun y p => accPut y afmt p.1 p.2.1 p.2.2) x)
  blockDone (jNote j t.2 []) nrow m

/-- MLOADACC (R204). -/
def execMloadacc (h : CmdHdr) (cn1 : BitVec 6) (afmt : Fmt) (row0 nrow1 : BitVec 13) (src : Dword) (s : State) :
    Host.Outcome State Fault Refusal :=
  jobStep (.mloadacc h cn1 afmt row0 nrow1 src) (issueThen (mloadCheck (cn1.toNat + 1) afmt row0.toNat (nrow1.toNat + 1) src.toNat)
    (mloadWork (cn1.toNat + 1) afmt row0.toNat (nrow1.toNat + 1))) s

/-! ## MSAVE (R206, R207) -/

/-- The launch that an MSAVE saves. -/
def savedLid (pre : Bool) (lid : BitVec 32) (j : Job) : BitVec 32 := if pre && lid != 0 then lid else j.o.lid

/-- A stream that was stopped part way. -/
def partStream (j : Job) : Bool := cmdOpc j.cmd == 3 && decide (0 < j.prog) && j.fin.isNone

/-- The commands that a pre-emptive MSAVE takes out of its queue: a stream stopped part way first, the others in order. -/
def savedJobs (s : State) (lid : BitVec 32) (j : Job) : List Job :=
  let l := (queue s s.curQ).jobs.filter (fun k => k.o.lid == lid && k.jid != j.jid && k.fin.isNone && !isBfWork s.curQ k)
  l.filter partStream ++ l.filter (fun k => !partStream k)

/-- What a pre-emptive MSAVE frees after writing the image: the commands it took, and the launch's slots, rows, tiles and tile context
(R207, R335). -/
def freeSaved (s : State) (lid : BitVec 32) (js : List Job) : State :=
  let s1 := settleSlots (modQueue s s.curQ (fun q => { q with jobs := q.jobs.filter (fun k => !js.any (fun i => i.jid == k.jid)) }))
    s.curQ.idx
  takeContextsBut (fun j => j.jid == s.curJ) (modClus s1 s1.curQ.idx (fun x =>
    { js.foldl (fun y k => unlatch y (2 ^ 33 + k.jid.toNat)) (unlatch x lid.toNat) with
      slotFree := x.slotFree.filter (fun p => tfind x.slotOwn p.1 != some lid),
      slotOwn := x.slotOwn.filter (fun p => p.2 != lid), blkOwn := x.blkOwn.filter (fun p => p.2 != lid),
      ctxs := x.ctxs.filter (· != lid) })) s1.curQ.idx

/-- An engine that reads slots faults POISON on a poisoned word of them. -/
def needCleanSlots (slots : List Nat) : EM Unit := do
  let x ← emClus
  match x.opmBad.find? (fun w => slots.contains (w / 1024)) with
  | some w => jobFault 25 (8 * w)
  | none => pure ()

/-- MSAVE, in one step. -/
def msave (pre : Bool) (cap hw : Nat) (lid0 : BitVec 32) (img : Nat) (j : Job) : EM Job := do
  let s ← get
  let x ← emClus
  let lid := savedLid pre lid0 j
  match (rowBlocks 0 hw).find? (fun b => decide (0 < hw) && blkOwner x b != 0 && blkOwner x b != lid) with
  | some b => jobFault 10 (512 * b)
  | none =>
    if x.rows < hw then jobFault 11 x.rows
    else
      let js := if pre then savedJobs s lid j else []
      let slots := slotsOf x lid
      let size := imageSize hw slots.length js.length
      if cap < size then jobFault 4 img
      else do
        needClean 0 hw 64
        needCleanSlots slots
        let tile := tileOf x lid.toNat
        let prog := match js with | k :: _ => if partStream k then some k.prog else none | [] => none
        emWrite j [(img, imageHeader tile hw slots js.length lid prog ++ rowsBytes x hw ++ tileBytes tile ++ slotsBytes x slots
          ++ js.flatMap (recordBytes s))]
        if pre then modify (fun t => freeSaved t lid js) else pure ()
        stepEnd 0
        pure { j with issued := true, aux := size, fin := some 0 }

/-- MSAVE (R206, R207). -/
def execMsave (h : CmdHdr) (pre : Bool) (cap : BitVec 32) (hw : BitVec 14) (lid : BitVec 32) (img : Dword) (s : State) :
    Host.Outcome State Fault Refusal :=
  jobStep (.msave h pre cap hw lid img) (msave pre cap.toNat hw.toNat lid img.toNat) s

/-! ## MRESTORE (R208) -/

/-- The launch that takes what an image holds. -/
def restoreLid (h : List Dword) (j : Job) : BitVec 32 := if j.o.mode != 0 then BitVec.ofNat 32 (fld (dwAt h 3) 31 0) else j.o.lid

/-- A block or slot stands in the way of a restoring launch. -/
def restoreBlocked (x : Cluster) (lid : BitVec 32) (hw : Nat) (slots : List Nat) : Bool :=
  decide (x.rows < hw)
    || (decide (0 < hw) && (rowBlocks 0 hw).any (fun b => blkOwner x b != 0 && blkOwner x b != lid))
    || slots.any (fun i => match tfind x.slotOwn i with | some o => o != lid | none => false)

/-- The cluster with an image's rows, slots and tile, the column sums computed anew. The launch takes a tile context where one is free;
where 16 are held, its commands wait for one, and its tile is kept for them until then (R335; DESIGN CHOICE, log 54). -/
def restoreClus (lid : BitVec 32) (h : List Dword) (hw : Nat) (slots : List Nat) (rows tile sl : List Byte) (x : Cluster) : Cluster :=
  let y := putSlots (putRows x hw rows) slots sl
  let z := { y with opmBad := y.opmBad.filter (fun w => !slots.contains (w / 1024)),
                    opmTodo := y.opmTodo.filter (fun w => !slots.contains (w / 1024)),
                    accBad := y.accBad.filter (fun w => decide (hw ≤ w / 32)), accTodo := y.accTodo.filter (fun w => decide (hw ≤ w / 32)),
                    ctxs := if lid == 0 || y.ctxs.contains lid || decide (16 ≤ y.ctxs.length) then y.ctxs else y.ctxs ++ [lid],
                    slotOwn := slots.foldl (fun t i => tput t i lid) y.slotOwn,
                    blkOwn := if hw == 0 then y.blkOwn else (rowBlocks 0 hw).foldl (fun t b => tput t b lid) y.blkOwn }
  if dbit (dwAt h 1) 14 then
    match fmtOfCode (BitVec.ofNat 4 (fld (dwAt h 1) 19 16)) with
    | some f => latch z (tileFrom lid.toNat f (tile.take (tileSize f))).1
    | none => z
  else unlatch z lid.toNat

/-- The jobs of the records of an image: the first carries PROG where PROGV is set. -/
def recordJobs (s : State) (h : List Dword) (l : List Byte) : List Job :=
  let prog := if dbit (dwAt h 9) 13 then fld (dwAt h 9) 12 0 else 0
  match pieces 64 l with
  | [] => []
  | r :: rs => jobOfRecord s r prog :: rs.map (fun q => jobOfRecord s q 0)

/-- MRESTORE, in one step. -/
def mrestore (img : Nat) (j : Job) : EM Job := do
  let h ← emDwords j img 32
  let np := imageNp h
  let hw := fld (dwAt h 1) 13 0
  let slots := imageSlots h
  if !imageOk h || (decide (0 < np) && j.o.mode == 0) then jobFault 12 img
  else do
    let rs ← emRead j (img + recordsAt h) (64 * np)
    if !recordsOk rs then jobFault 12 img else pure ()
    let x ← emClus
    let lid := restoreLid h j
    if restoreBlocked x lid hw slots then jobFault 4 img
    else do
      let rows ← emRead j (img + 256) (256 * hw)
      let tile ← emRead j (img + 256 + 256 * hw) 32768
      let sl ← emRead j (img + 256 + 256 * hw + 32768) (slotBytes * slots.length)
      emModClus (restoreClus lid h hw slots rows tile sl)
      modify (fun s => lapseFills (modQueue s s.curQ (fun q => { q with jobs := recordJobs s h rs ++ q.jobs })) s.curQ.idx)
      stepEnd 0
      pure { j with issued := true, aux := 256 * hw + slotBytes * slots.length, fin := some 0 }

/-- MRESTORE (R208). -/
def execMrestore (h : CmdHdr) (img : Dword) (s : State) : Host.Outcome State Fault Refusal :=
  jobStep (.mrestore h img) (mrestore img.toNat) s

end Sys2Proof.Machine
end

