-- ==== Sys2Proof/Machine/Sketch.lean ====
section
/-! DEFINITION. Riffle's sketches and item tables as data (R263, R264, R269). -/

namespace Sys2Proof.Machine

/-- The multiplier M (R263). -/
def hashM : Nat := 0x9E3779B97F4A7C15

/-- Bits 63 to 64 - n of v·M mod 2^64. -/
def hashTop (v : Dword) (n : Nat) : Nat := v.toNat * hashM % 2 ^ 64 / 2 ^ (64 - n)

/-- h_j of an item under a seed, for 2^b cells (R264). -/
def rcHash (seed key dig : Dword) (b : Nat) : Nat := hashTop (key ^^^ (dig * 0x100000000 + dig) ^^^ seed) b

/-- The checksum of an item under S3 (R264). -/
def rcCheck (s3 key dig : Dword) : Nat := hashTop (key ^^^ dig ^^^ s3) 16

/-- The index of an item's cell in sub-table j (R264). -/
def rcCell (seeds : List Dword) (key dig : Dword) (b j : Nat) : Nat := j * 2 ^ b + rcHash (dwAt seeds j) key dig b

/-- A cell (R264). -/
structure Cell where
  keyx  : Dword
  digx  : BitVec 32
  chkx  : BitVec 16
  count : BitVec 16
  deriving DecidableEq, Repr

/-- The empty cell. -/
def Cell.zero : Cell := { keyx := 0, digx := 0, chkx := 0, count := 0 }

/-- A cell from its two dwords in memory. -/
def cellOf (lo hi : Dword) : Cell :=
  { keyx := hi, digx := BitVec.ofNat 32 (fld lo 63 32), chkx := BitVec.ofNat 16 (fld lo 31 16), count := BitVec.ofNat 16 (fld lo 15 0) }

/-- The low dword of a cell. -/
def cellLo (c : Cell) : Dword := dw (c.count.toNat + c.chkx.toNat * 2 ^ 16 + c.digx.toNat * 2 ^ 32)

/-- The bytes of a cell. -/
def cellBytes (c : Cell) : List Byte := leBytes 8 (cellLo c).toNat ++ leBytes 8 c.keyx.toNat

/-- The cells that bytes hold. -/
def cellsOf (l : List Byte) : List Cell :=
  (pieces 16 l).map (fun p => cellOf (dw (leNat (p.take 8))) (dw (leNat (p.drop 8))))

/-- Combine two cells: COUNTs added, the rest XORed. -/
def cellJoin (a b : Cell) : Cell :=
  { keyx := a.keyx ^^^ b.keyx, digx := a.digx ^^^ b.digx, chkx := a.chkx ^^^ b.chkx, count := a.count + b.count }

/-- a less b, cellwise (R268). -/
def cellDiff (a b : Cell) : Cell := { cellJoin a b with count := a.count - b.count }

/-- The cell of one item with a count (R264). -/
def cellItem (key dig chk : Dword) (n : BitVec 16) : Cell :=
  { keyx := key, digx := dig.setWidth 32, chkx := chk.setWidth 16, count := n }

/-- The fold of a sketch at bmax to b (R264). -/
def foldCells (bmax b : Nat) (cs : List Cell) : List Cell :=
  (pieces (2 ^ (bmax - b)) cs).map (fun p => p.foldl cellJoin Cell.zero)

/-- Cell i of a sketch at b is pure (R269). -/
def cellPure (seeds : List Dword) (b i : Nat) (c : Cell) : Bool :=
  let k := c.keyx
  let d : Dword := c.digx.setWidth 64
  (c.count == 1 || c.count == 0xFFFF) && c.chkx.toNat == rcCheck (dwAt seeds 3) k d && rcHash (dwAt seeds (i / 2 ^ b)) k d b == i % 2 ^ b

/-- An item of a list: key and digest. -/
abbrev Item := Dword × Dword

/-- The state of a peel: the cells, ALIST and BLIST, and whether a list would pass LCAP. -/
structure Peel where
  cells : List Cell
  as'   : List Item
  bs    : List Item
  past  : Bool
  deriving DecidableEq, Repr

/-- Remove an item from its three cells. -/
def peelItem (seeds : List Dword) (b : Nat) (cells : List Cell) (k d : Dword) (n : BitVec 16) : List Cell :=
  let it := cellItem k d (dw (rcCheck (dwAt seeds 3) k d)) n
  (span 0 3).foldl (fun cs j =>
    let i := rcCell seeds k d b j
    cs.set i (cellDiff (cs.getD i Cell.zero) it)) cells

/-- One pass over the cells from i on. -/
def peelPass (seeds : List Dword) (b lcap : Nat) : Nat → Nat → Peel → Nat → Peel × Nat
  | 0, _, p, n => (p, n)
  | f + 1, i, p, n =>
    let c := p.cells.getD i Cell.zero
    if p.past then (p, n)
    else if cellPure seeds b i c then
      let k := c.keyx
      let d : Dword := c.digx.setWidth 64
      let cells := peelItem seeds b p.cells k d c.count
      if c.count == 1 then
        if lcap ≤ p.as'.length then peelPass seeds b lcap f (i + 1) { p with cells := cells, past := true } n
        else peelPass seeds b lcap f (i + 1) { p with cells := cells, as' := p.as' ++ [(k, d)] } (n + 1)
      else if lcap ≤ p.bs.length then peelPass seeds b lcap f (i + 1) { p with cells := cells, past := true } n
      else peelPass seeds b lcap f (i + 1) { p with cells := cells, bs := p.bs ++ [(k, d)] } (n + 1)
    else peelPass seeds b lcap f (i + 1) p n

/-- Passes until one peels nothing (with fuel: every item that a pass peels is listed, so 2·LCAP + 2 passes are enough). -/
def peelAll (seeds : List Dword) (b lcap : Nat) : Nat → Peel → Peel
  | 0, p => p
  | f + 1, p =>
    let r := peelPass seeds b lcap p.cells.length 0 p 0
    if r.2 == 0 || r.1.past then r.1 else peelAll seeds b lcap f r.1

/-- Cells that are not all zero. -/
def residual (cells : List Cell) : Nat := countIf (· != Cell.zero) cells

end Sys2Proof.Machine
end

