-- ==== Sys2Proof/Machine/Route.lean ====
section
/-! DEFINITION. The ROUTE group: HSIFT and HTOPK (R246 to R248), RCUPD (R266). -/

namespace Sys2Proof.Machine

/-! ## Heaps (R246) -/

/-- An entry is worse than another (R246). -/
def worse (x y : Dword) : Bool :=
  (fpLt .fp32 (fld x 31 0) (fld y 31 0)).1 || ((fpEq .fp32 (fld x 31 0) (fld y 31 0)).1 && decide (fld y 63 32 < fld x 63 32))

/-- The header of a heap is valid. -/
def heapOk (h : Dword) : Bool :=
  fld h 63 14 == 0 && fld h 7 6 == 0 && decide (1 ≤ fld h 13 8 ∧ fld h 13 8 ≤ 32 ∧ fld h 5 0 ≤ fld h 13 8)

/-- Sift the entry at j up while it is worse than its parent (with fuel j). -/
def siftUp : Nat → Nat → List Dword → List Dword
  | 0, _, l => l
  | f + 1, j, l =>
    if j == 0 then l
    else
      let p := (j - 1) / 2
      if worse (dwAt l j) (dwAt l p) then siftUp f p ((l.set j (dwAt l p)).set p (dwAt l j)) else l

/-- The worse child of an entry. -/
def worseChild (l : List Dword) (j : Nat) : Option Nat :=
  if l.length ≤ 2 * j + 1 then none
  else if l.length ≤ 2 * j + 2 then some (2 * j + 1)
  else if worse (dwAt l (2 * j + 2)) (dwAt l (2 * j + 1)) then some (2 * j + 2) else some (2 * j + 1)

/-- Sift the entry at j down, swapping with the worse child (with fuel the length). -/
def siftDown : Nat → Nat → List Dword → List Dword
  | 0, _, l => l
  | f + 1, j, l =>
    match worseChild l j with
    | none => l
    | some c => if worse (dwAt l c) (dwAt l j) then siftDown f c ((l.set j (dwAt l c)).set c (dwAt l j)) else l

/-- The flags of testing whether an entry is worse than another: NV where a score is a NaN, which only a heap that software has written can
hold (R95). -/
def worseFlags (x y : Dword) : Nat := (fpLt .fp32 (fld x 31 0) (fld y 31 0)).2

/-- The flags of the tests that siftUp makes. -/
def siftUpFlags : Nat → Nat → List Dword → Nat
  | 0, _, _ => 0
  | f + 1, j, l =>
    if j == 0 then 0
    else
      let p := (j - 1) / 2
      worseFlags (dwAt l j) (dwAt l p)
        ||| (if worse (dwAt l j) (dwAt l p) then siftUpFlags f p ((l.set j (dwAt l p)).set p (dwAt l j)) else 0)

/-- The flags of the tests that siftDown makes. -/
def siftDownFlags : Nat → Nat → List Dword → Nat
  | 0, _, _ => 0
  | f + 1, j, l =>
    match worseChild l j with
    | none => 0
    | some c =>
      (if 2 * j + 2 < l.length then worseFlags (dwAt l (2 * j + 2)) (dwAt l (2 * j + 1)) else 0) ||| worseFlags (dwAt l c) (dwAt l j)
        ||| (if worse (dwAt l c) (dwAt l j) then siftDownFlags f c ((l.set j (dwAt l c)).set c (dwAt l j)) else 0)

/-- Write the dwords of new that differ from old, which may be shorter. -/
def writeDiff (off : Nat) : List Dword → List Dword → M Unit
  | _, [] => pure ()
  | [], n :: new => do
    lsStore off 8 n.toNat
    writeDiff (off + 8) [] new
  | o :: old, n :: new => do
    if o == n then pure () else lsStore off 8 n.toNat
    writeDiff (off + 8) old new

/-- Read a heap: its offset, header and entries; none for an invalid header. -/
def readHeap (va : Dword) : M (Option (Nat × Dword × List Dword)) := do
  let h := dwAt (← readBlock va 1) 0
  if !heapOk h then pure none
  else do
    let n := fld h 5 0
    let l ← if n == 0 then pure [] else readBlock (va + 8) n
    pure (some (va.toNat - lsBase, h, l))

/-- HSIFT (R247). -/
def execHsift (d a b : Reg) (s : State) : Host.Outcome State Fault Refusal :=
  perform (do
    let w := instrWord (.hsift d a b)
    let va ← readReg w a
    let e ← readReg w b
    match ← readHeap va with
    | none => writeReg w d minus2
    | some (off, h, l) =>
      if (fpDecode .fp32 (fld e 31 0)).isNan then do
        raise flNV
        writeReg w d minus2
      else if l.length < fld h 13 8 then do
        let _ ← lsRange (va.toNat + 8 + 8 * l.length) 8 8
        raise (siftUpFlags l.length l.length (l ++ [e]))
        writeDiff (off + 8) l (siftUp l.length l.length (l ++ [e]))
        lsStore off 8 (h + 1).toNat
        writeReg w d 1
      else if worse (dwAt l 0) e then do
        raise (siftDownFlags l.length 0 (l.set 0 e))
        writeDiff (off + 8) l (siftDown l.length 0 (l.set 0 e))
        writeReg w d 1
      else do
        raise (worseFlags (dwAt l 0) e)
        writeReg w d 0) s

/-- round(exp(round(s − c))) with its flags. -/
def expDiff (rm : Nat) (s c : Nat) : Nat × Nat :=
  let x := fpSub .fp32 rm s c
  let y := fpExp .fp32 rm x.1
  (y.1, x.2 ||| y.2)

/-- Values with their flags gathered. -/
def gatherFlags (l : List (Nat × Nat)) : List Nat × Nat := (l.map (·.1), l.foldl (fun f x => f ||| x.2) 0)

/-- The weights of HTOPK for scores in output order: λ, or renormalised (R248). -/
def topkWeights (rm : Nat) (renorm : Bool) (lam : Nat) (scores : List Nat) : List Nat × Nat :=
  if renorm then
    let t := gatherFlags (scores.map (fun s => expDiff rm s (scores.headD 0)))
    let sum := t.1.tail.foldl (fun (a : Nat × Nat) x => let r := fpAdd .fp32 rm a.1 x; (r.1, a.2 ||| r.2)) (t.1.headD 0, 0)
    let q := gatherFlags (t.1.map (fun x => fpDiv .fp32 rm x sum.1))
    (q.1, t.2 ||| sum.2 ||| q.2)
  else gatherFlags (scores.map (fun s => expDiff rm s lam))

/-- HTOPK (R248). The entries are ordered by worse, as the heap is, and their order raises no flag; where software has written a NaN as a
score, the order among the entries is this sort's (DESIGN CHOICE, log 54: R248 names the weights' flags only, and no order for a NaN). -/
def execHtopk (d a b : Reg) (renorm : Bool) (s : State) : Host.Outcome State Fault Refusal :=
  perform (do
    let w := instrWord (.htopk d a b renorm)
    let va ← readReg w a
    let dst ← readReg w b
    let lam ← readReg w d
    match ← readHeap va with
    | none => writeReg w d minus2
    | some (_, _, l) =>
      if l.isEmpty then writeReg w d 0
      else do
        let off ← lsRange dst.toNat (8 * l.length) 8
        let best := sortBy (fun x y => worse y x) l
        let rm ← roundMode
        let r := topkWeights rm renorm (fld lam 31 0) (best.map (fun e => fld e 31 0))
        lsStoreDwords off (List.zipWith (fun e x => dw (x + fld e 63 32 * 2 ^ 32)) best r.1)
        raise r.2
        writeReg w d (dw l.length)) s

/-! ## RCUPD (R266) -/

/-- The checks of R266 on a block. -/
def rcupdOk (l : List Dword) : Bool :=
  fld (dwAt l 2) 63 37 == 0 && dwAt l 3 == 0 && decide (6 ≤ fld (dwAt l 2) 36 32 ∧ fld (dwAt l 2) 36 32 ≤ 16) && dwAt l 1 != 0
    && (dwAt l 0).toNat % 64 == 0

/-- The seeds of the reconcile engine that serves an element (R265). -/
def seedsOf (s : State) (i : Nat) : List Dword := (span 0 4).map (fun j => tget (die s (4 + i)).seeds j 0)

/-- Translate the three cells of an item, for the running task. -/
def cellPages (l : List Dword) (seeds : List Dword) (i : Nat) : List Nat → M (List (Nat × Nat × Nat))
  | [] => pure []
  | j :: js => do
    let s ← get
    let idx := rcCell seeds (dwAt l 1) (dw (fld (dwAt l 2) 31 0)) (fld (dwAt l 2) 36 32) j
    match ← xlatAcc .rmw (lidAsid s (curElem s).csr.lid) (((dwAt l 0).toNat + 16 * idx) % 2 ^ 64) false with
    | .phys pa _ codec _ =>
      let r ← cellPages l seeds i js
      pure ((pa, i, codec) :: r)
    | .zero => pure []
    | .loc _ => pure []

/-- RCUPD (R266): the cells are found at execution, and updated at their homes after the commit. -/
def execRcupd (d a : Reg) (del : Bool) (s : State) : Host.Outcome State Fault Refusal :=
  perform (do
    let w := instrWord (.rcupd d a del)
    let va ← readReg w a
    let l ← readBlock va 4
    if !rcupdOk l then writeReg w d minus2
    else do
      let t ← get
      let i := idieOf (dieOf t.cur)
      let seeds := seedsOf t i
      let dig := dw (fld (dwAt l 2) 31 0)
      let pages ← cellPages l seeds i [0, 1, 2]
      outbox (.rcupd [dwAt l 0, dwAt l 1, dig, dw (rcCheck (dwAt seeds 3) (dwAt l 1) dig)] del (originOf t t.cur) pages)
      writeReg w d 0) s

end Sys2Proof.Machine
end

