-- ==== Sys2Proof/Machine/Riffle.lean ====
section
/-! DEFINITION. The reconcile engine's commands (R263 to R271, R355). A job keeps the 16 dwords of its RC record, then the round in
which its exchange began, the round after the one it last asked in, its phase (0 exchange, 1 peel, 2 full transfer), and the
phantoms counted. -/

namespace Sys2Proof.Machine

/-! ## RC records (R267) -/

/-- A dword of the record. -/
def rcD (j : Job) (i : Nat) : Dword := dw (j.data.getD i 0)
/-- BMAX. -/
def rcBmax (j : Job) : Nat := fld (rcD j 3) 4 0
/-- BCUR. -/
def rcBcur (j : Job) : Nat := fld (rcD j 3) 12 8
/-- NRND. -/
def rcNrnd (j : Job) : Nat := fld (rcD j 3) 19 16
/-- LCAP. -/
def rcLcap (j : Job) : Nat := fld (rcD j 12) 31 0
/-- TLOG of a record's dword 8. -/
def tlogOf (d8 : Dword) : Nat := fld d8 5 0
/-- Row bytes of a record's dword 8. -/
def rowBytesOf (d8 : Dword) : Nat := 64 * (fld d8 41 32 + 1)

/-- The rsv bits and limits of a record (R267, R268). -/
def rcOk (r : List Dword) : Bool :=
  let d (i : Nat) : Dword := dwAt r i
  fld (d 3) 63 21 == 0 && fld (d 3) 15 13 == 0 && fld (d 3) 7 5 == 0 && fld (d 4) 63 16 == 0 && fld (d 6) 63 32 == 0
    && fld (d 8) 63 42 == 0 && fld (d 8) 31 6 == 0 && fld (d 12) 63 32 == 0 && d 14 == 0 && d 15 == 0
    && decide (6 ≤ tlogOf (d 8) ∧ tlogOf (d 8) ≤ 32) && decide (6 ≤ fld (d 3) 4 0 ∧ fld (d 3) 4 0 ≤ 16)

/-- Read and check the record at issue. -/
def rcIssue (rec' : Nat) (j : Job) : EM Job := do
  let r ← emDwords j rec' 16
  let s ← get
  if rcOk r then pure { j with data := r.map (·.toNat) ++ [s.roundNo, 0, 0, 0] } else jobFault 3 rec'

/-- Change a dword of the record, here and in memory. -/
def rcPut (rec' i : Nat) (v : Dword) (j : Job) : EM Job := do
  emWrite j [(rec' + 8 * i, leBytes 8 v.toNat)]
  pure { j with data := j.data.set i v.toNat }

/-- Dword 3 with SNAPV, NRND and BCUR. -/
def rcD3 (d : Dword) (snapv : Bool) (nrnd bcur : Nat) : Dword :=
  dw (fld d 4 0 + bcur % 32 * 2 ^ 8 + nrnd % 16 * 2 ^ 16 + bnat snapv * 2 ^ 20)

/-- The reconcile engine's die. -/
def rcDie (s : State) : Die := die s (4 + s.curQ.idx)

/-- Set RCB.B. -/
def rcSetB (b : Nat) : EM Unit := modify (fun s => modDie s (4 + s.curQ.idx) (fun x => { x with rcb := b }))

/-- The key under which a die notes how the last peel of a record ended. -/
def rcKey (j : Job) (rec' : Nat) : Nat := rec' * 65536 + j.o.asid % 65536

/-- Cells in memory. -/
def emCells (j : Job) (va n : Nat) : EM (List Cell) := do pure (cellsOf (← emRead j va (16 * n)))

/-- Write cells. -/
def emPutCells (j : Job) (va : Nat) (cs : List Cell) : EM Unit := emWrite j [(va, cs.flatMap cellBytes)]

/-! ## RCSNAP (R268) -/

/-- SNAP := LIVE, EPOCH, SNAPV, NRND and BCUR, for a job whose edge has come. -/
def rcSnapEdge (rec' : Nat) (epoch : BitVec 32) (j : Job) : EM Job := do
  let n := 3 * 2 ^ rcBmax j
  let l ← emRead j (rcD j 0).toNat (16 * n)
  emWrite j [((rcD j 1).toNat, l)]
  let s ← get
  let k ← rcPut rec' 3 (rcD3 (rcD j 3) true 0 (rcDie s).rcb) j
  let k2 ← rcPut rec' 6 (epoch.setWidth 64) k
  pure (doneIf k2 true 0)

/-- RCSNAP (R268): its issue; the snapshot falls at the next round edge. -/
def execRcsnap (h : CmdHdr) (rec' : Dword) (epoch : BitVec 32) (s : State) : Host.Outcome State Fault Refusal :=
  jobStep (.rcsnap h rec' epoch) (issueThen (rcIssue rec'.toNat) (fun j => pure j)) s

/-! ## The peer (R355) -/

/-- PEERDEV. -/
def rcPeer (j : Job) : BitVec 16 := BitVec.ofNat 16 (fld (rcD j 4) 15 0)

/-- The peer can be reached. -/
def peerUp (s : State) (dev : BitVec 16) : Bool := dev == s.regs.devnum || (routePort s dev.toNat).isSome

/-- n bytes at a physical address of the peer: this device's own memory, or what another device answers while a route leads there (log 1). -/
def peerRead (s : State) (dev : BitVec 16) (pa n : Nat) : Option (List Byte) :=
  if dev == s.regs.devnum then physRead s pa n
  else if peerUp s dev then some ((span pa n).map (Config.peerByte s.tick dev)) else none

/-- A request to the peer that no route takes is dropped and counted on the engine's I-die (R348, R390). -/
def notePeer (j : Job) : EM Unit :=
  modify (fun s => if peerUp s (rcPeer j) then s else { countDrop s s.curQ.idx with marks := .drop s.curQ.idx :: s.marks })

/-- Read the peer's memory for a job: poison or unreachable memory faults. SNAP, TABLE and ROWBASE of the peer's record are physical addresses
there (DESIGN CHOICE, log 54: R355 says so of PEERREC alone). -/
def emPeer (j : Job) (pa n : Nat) : EM (List Byte) := do
  match peerRead (← get) (rcPeer j) pa n with
  | some l => pure l
  | none => do
    notePeer j
    jobFault 25 pa

/-- The peer's record; none while the peer cannot be reached, or its record lies outside near memory. One of this device that is poisoned or
cannot be reached faults the job (R315, R371). -/
def peerRec (j : Job) : EM (Option (List Dword)) := do
  notePeer j
  let s ← get
  let pa := (rcD j 5).toNat
  if !peerUp s (rcPeer j) || decide (2 ^ 48 ≤ pa) then pure none
  else
    match peerRead s (rcPeer j) pa 128 with
    | some l => pure (some (bytesDwords l))
    | none => jobFault 25 pa

/-- The seeds of the peer's engine: of the I-die whose link holds the record (log 21). -/
def peerSeeds (s : State) (j : Job) : List Dword :=
  if rcPeer j == s.regs.devnum then seedsOf s (nearLink (rcD j 5).toNat / 24)
  else (span 0 4).map (Config.peerSeed s.tick (rcPeer j))

/-! ## RCXCHG (R268) -/

/-- The start of an exchange, round of the last question, phase, phantoms. -/
def rcStart (j : Job) : Nat := j.data.getD 16 0
/-- The round after the one the job last asked in; 0 before it asks. -/
def rcAsked (j : Job) : Nat := j.data.getD 17 0
/-- The phase of RCROUND. -/
def rcPhase (j : Job) : Nat := j.data.getD 18 0
/-- Phantoms. -/
def rcPhantoms (j : Job) : Nat := j.data.getD 19 0
/-- Set one of them. -/
def rcSet (i v : Nat) (j : Job) : Job := { j with data := j.data.set i v }

/-- The difference is formed: DIFF, BCUR, NRND; gives the nonzero cells. A peer record whose BMAX is below b, or above 16, is BADSHAPE
here, where the serving side would answer NOTREADY (DESIGN CHOICE, log 52). -/
def rcDiff (rec' b : Nat) (pr : List Dword) (j : Job) : EM (Job × Nat) := do
  let pb := fld (dwAt pr 3) 4 0
  if pb < b || decide (16 < pb) then jobFault 3 rec'
  else do
    let mine ← emCells j (rcD j 1).toNat (3 * 2 ^ rcBmax j)
    let theirs := cellsOf (← emPeer j (dwAt pr 1).toNat (16 * (3 * 2 ^ pb)))
    let d := List.zipWith cellDiff (foldCells (rcBmax j) b mine) (foldCells pb b theirs)
    emPutCells j (rcD j 2).toNat d
    let k ← rcPut rec' 3 (rcD3 (rcD j 3) (dbit (rcD j 3) 20) (rcNrnd j + 1) b) j
    pure (k, residual d)

/-- How an attempt at an exchange ends: not asked or not answered yet, unequal seeds, or the difference. -/
inductive Xchg where
  | wait (j : Job)
  | seeds
  | ok (j : Job) (n : Nat)
  deriving DecidableEq, Repr

/-- The fold request leaves for another device on VN0 (R355). -/
def rcAsk (b : Nat) (j : Job) : EM Unit :=
  modify (fun s =>
    if rcPeer j == s.regs.devnum || !peerUp s (rcPeer j) then s
    else (sendFab s s.curQ.idx (rcPeer j).toNat (.fold (nearLink (rcD j 5).toNat / 24) (rcD j 5) (BitVec.ofNat 32 (fld (rcD j 6) 31 0))
      (BitVec.ofNat 5 b) (seedsOf s s.curQ.idx))).1)

/-- Ask the peer, once a round: unequal seeds, then a record without the snapshot of this epoch, then the fold (R355). -/
def rcExchange (rec' b : Nat) (j : Job) : EM Xchg := do
  let s ← get
  if rcAsked j == s.roundNo + 1 then pure (.wait j)
  else
    let k := rcSet 17 (s.roundNo + 1) j
    rcAsk b j
    match ← peerRec j with
    | none => pure (.wait k)
    | some pr =>
      if peerSeeds s j != seedsOf s s.curQ.idx then pure .seeds
      else if !dbit (dwAt pr 3) 20 || fld (dwAt pr 6) 31 0 != fld (rcD j 6) 31 0 then pure (.wait k)
      else do
        let r ← rcDiff rec' b pr k
        pure (.ok r.1 r.2)

/-- b of RCXCHG: 0 means RCB.B, clipped to the record's BMAX (R268; the clip is a DESIGN CHOICE, log 52). -/
def xchgB (s : State) (b : BitVec 5) (j : Job) : Nat := if b == 0 then Nat.min (rcDie s).rcb (rcBmax j) else b.toNat

/-- The issue of RCXCHG: the record, and b within BMAX. -/
def rcxchgIssue (rec' : Nat) (b : BitVec 5) (j : Job) : EM Job := do
  let k ← rcIssue rec' j
  if rcBmax k < b.toNat then jobFault 3 rec' else pure k

/-- RCXCHG once it is issued. -/
def rcxchgWork (rec' : Nat) (b : BitVec 5) (j : Job) : EM Job := do
  let s ← get
  match ← rcExchange rec' (xchgB s b j) j with
  | .wait k => pure k
  | .seeds => pure (doneIf j true 21)
  | .ok k n => pure (doneIf { k with aux := n } true 0)

/-- RCXCHG (R268, R355). -/
def execRcxchg (h : CmdHdr) (rec' : Dword) (b : BitVec 5) (wait : BitVec 8) (s : State) : Host.Outcome State Fault Refusal :=
  jobStep (.rcxchg h rec' b wait) (issueThen (rcxchgIssue rec'.toNat b) (rcxchgWork rec'.toNat b)) s

/-! ## RCPEEL (R269) -/

/-- The bytes of a list of items. -/
def itemBytes (l : List Item) : List Byte := l.flatMap (fun i => leBytes 8 i.1.toNat ++ leBytes 8 (fld i.2 31 0))

/-- Write ALIST, BLIST and their counts. -/
def rcLists (rec' : Nat) (a b : List Item) (j : Job) : EM Job := do
  emWrite j [((rcD j 10).toNat, itemBytes a), ((rcD j 11).toNat, itemBytes b)]
  rcPut rec' 13 (dw (a.length % 2 ^ 32 + b.length * 2 ^ 32)) j

/-- RCB.B after a peel of n items that succeeded. -/
def rcbAfter (n : Nat) : Nat := ((span 6 11).find? (fun b => decide (2 * n ≤ 3 * 2 ^ b))).getD 16

/-- Peel DIFF at BCUR: the job, whether it succeeded, and AUX. -/
def rcPeelAct (rec' : Nat) (j : Job) : EM (Job × Bool × Nat) := do
  let s ← get
  let b := rcBcur j
  let cs ← emCells j (rcD j 2).toNat (3 * 2 ^ b)
  let p := peelAll (seedsOf s s.curQ.idx) b (rcLcap j) (2 * rcLcap j + 2) { cells := cs, as' := [], bs := [], past := false }
  emPutCells j (rcD j 2).toNat p.cells
  let k ← rcLists rec' p.as' p.bs j
  let n := p.as'.length + p.bs.length
  let ok := !p.past && residual p.cells == 0
  rcSetB (if ok then rcbAfter n else Nat.min 16 (b + 1))
  modify (fun t => modDie t (4 + t.curQ.idx) (fun x => { x with peels := tput x.peels (rcKey j rec') ok }))
  pure (k, ok, if ok then n else residual p.cells)

/-- RCPEEL (R269): COMPLETE, or PEELFAIL with the residual. -/
def execRcpeel (h : CmdHdr) (rec' : Dword) (s : State) : Host.Outcome State Fault Refusal :=
  jobStep (.rcpeel h rec') (issueThen (rcIssue rec'.toNat) (fun j => do
    let r ← rcPeelAct rec'.toNat j
    pure (doneIf { r.1 with aux := r.2.2 } true (if r.2.1 then 0 else 8)))) s

/-! ## The full transfer and RCROUND (R268, R270) -/

/-- An entry of an item table: key, digest, version. -/
structure TabEnt where
  key : Dword
  dig : Dword
  ver : Nat
  deriving DecidableEq, Repr

/-- An entry from its 16 bytes. -/
def tabEnt (l : List Byte) : TabEnt :=
  let d := bytesDwords l
  { key := dwAt d 0, dig := dw (fld (dwAt d 1) 31 0), ver := fld (dwAt d 1) 63 32 }

/-- The items that a table's bytes hold, in ascending slot. -/
def tabItems (l : List Byte) : List Item := ((pieces 16 l).map tabEnt).filterMap (fun e => if e.key == 0 then none else some (e.key, e.dig))

/-- The full transfer: both lists anew, FULLXFER; NOPEER where the peer cannot be reached. A list longer than LCAP, and AUX with it, is cut to
LCAP entries (DESIGN CHOICE, log 54: R270 does not say). -/
def rcFull (rec' : Nat) (j : Job) : EM Job := do
  match ← peerRec j with
  | none => pure (doneIf j true 20)
  | some pr => do
    let mine := tabItems (← emRead j (rcD j 7).toNat (16 * 2 ^ tlogOf (rcD j 8)))
    let theirs := tabItems (← emPeer j (dwAt pr 7).toNat (16 * 2 ^ tlogOf (dwAt pr 8)))
    let a := (mine.filter (fun x => !theirs.contains x)).take (rcLcap j)
    let b := (theirs.filter (fun x => !mine.contains x)).take (rcLcap j)
    let k ← rcLists rec' a b j
    rcSetB (Nat.min 16 (rcBcur j + 1))
    pure (doneIf { k with aux := a.length + b.length } true 23)

/-- The last peel of the record succeeded. -/
def rcPeeled (s : State) (j : Job) (rec' : Nat) : Bool := tget (rcDie s).peels (rcKey j rec') false

/-- One step of RCROUND: an exchange at MIN(BCUR + 1, BMAX), then a peel, while the rounds last and the peel fails; then the
full transfer. -/
def rcRoundWork (rec' : Nat) (j : Job) : EM Job := do
  let s ← get
  if rcPhase j == 0 then
    if rcPeeled s j rec' then pure (doneIf { j with aux := fld (rcD j 13) 31 0 + fld (rcD j 13) 63 32 } true 0)
    else if (rcDie s).rcmaxr ≤ rcNrnd j then pure (rcSet 18 2 j)
    else
      match ← rcExchange rec' (Nat.max 6 (Nat.min (rcBcur j + 1) (rcBmax j))) j with
      | .wait k => pure k
      | .seeds => pure (doneIf j true 21)
      | .ok k _ => pure (rcSet 18 1 k)
  else if rcPhase j == 1 then do
    let r ← rcPeelAct rec' j
    if r.2.1 then pure (doneIf { r.1 with aux := r.2.2 } true 0)
    else pure (rcSet 16 s.roundNo (rcSet 17 0 (rcSet 18 0 r.1)))
  else rcFull rec' j

/-- RCROUND (R268, R270). -/
def execRcround (h : CmdHdr) (rec' : Dword) (wait : BitVec 8) (s : State) : Host.Outcome State Fault Refusal :=
  jobStep (.rcround h rec' wait) (issueThen (rcIssue rec'.toNat) (rcRoundWork rec'.toNat)) s

/-! ## RCFETCH (R263, R271) -/

/-- The first entry of a probe. -/
def probeStart (tlog : Nat) (key : Dword) : Nat := hashTop key tlog

/-- Probe a table for a key: the place of the key or of an empty entry, and the entry there; none in a full table without it (with
fuel the entries). -/
def probeFrom (rd : Nat → EM (List Byte)) (tlog : Nat) (key : Dword) : Nat → Nat → EM (Option (Nat × TabEnt))
  | 0, _ => pure none
  | f + 1, i => do
    let e := tabEnt (← rd i)
    if e.key == key || e.key == 0 then pure (some (i, e)) else probeFrom rd tlog key f ((i + 1) % 2 ^ tlog)

/-- Probe the local table. -/
def probeLocal (j : Job) (key : Dword) : EM (Option (Nat × TabEnt)) :=
  let t := tlogOf (rcD j 8)
  probeFrom (fun i => emRead j ((rcD j 7).toNat + 16 * i) 16) t key (2 ^ t) (probeStart t key)

/-- Probe the peer's table. -/
def probePeer (j : Job) (pr : List Dword) (key : Dword) : EM (Option (Nat × TabEnt)) :=
  let t := tlogOf (dwAt pr 8)
  probeFrom (fun i => emPeer j ((dwAt pr 7).toNat + 16 * i) 16) t key (2 ^ t) (probeStart t key)

/-- A probe found an item; an empty entry, KEY 0, holds none (R263). -/
def foundItem (p : Option (Nat × TabEnt)) (k d : Dword) : Bool :=
  match p with | some e => e.2.key != 0 && e.2.key == k && e.2.dig == d | none => false

/-- Items of a list in memory. -/
def emItems (j : Job) (va n : Nat) : EM (List Item) := do
  let l ← emRead j va (16 * n)
  pure ((pieces 16 l).map (fun b => let e := tabEnt b; (e.key, e.dig)))

/-- The items of ALIST that the local table lacks. -/
def countPhantoms (j : Job) : List Item → EM Nat
  | [] => pure 0
  | i :: l => do
    let p ← probeLocal j i.1
    let n ← countPhantoms j l
    pure (bnat (!foundItem p i.1 i.2) + n)

/-- Apply one item to LIVE with a count (R264, R266). -/
def liveUpdate (j : Job) (key dig : Dword) (n : BitVec 16) : List Nat → EM Unit
  | [] => pure ()
  | t :: ts => do
    let s ← get
    let seeds := seedsOf s s.curQ.idx
    let va := (rcD j 0).toNat + 16 * rcCell seeds key dig (rcBmax j) t
    let c ← emCells j va 1
    emPutCells j va [cellJoin (c.headD Cell.zero) (cellItem key dig (dw (rcCheck (dwAt seeds 3) key dig)) n)]
    liveUpdate j key dig n ts

/-- The local item wins over the peer's (R271). -/
def localWins (a : List Item) (q : Option (Nat × TabEnt)) (k d : Dword) (ver : Nat) : Bool :=
  match a.find? (fun i => i.1 == k), q with
  | some i, some e => e.2.key == k && (decide (ver < e.2.ver) || (e.2.ver == ver && decide (d.toNat < i.2.toNat)))
  | _, _ => false

/-- Install the peer's item k, whose peer entry is at place p. LIVE loses the digest that the local table holds now, which need not be that of
the ALIST entry, and of rows of unlike sizes the lesser number of bytes is copied (DESIGN CHOICE, log 54: R271 says neither). -/
def installItem (j : Job) (pr : List Dword) (k d : Dword) (p : Nat × TabEnt) (q : Nat × TabEnt) : EM Unit := do
  let rowb := rowBytesOf (rcD j 8)
  let prow := rowBytesOf (dwAt pr 8)
  let row ← emPeer j ((dwAt pr 9).toNat + p.1 * prow) (Nat.min rowb prow)
  emWrite j [((rcD j 9).toNat + q.1 * rowb, row),
             ((rcD j 7).toNat + 16 * q.1, leBytes 8 k.toNat ++ leBytes 4 d.toNat ++ leBytes 4 p.2.ver)]
  if q.2.key == k then liveUpdate j k q.2.dig 0xFFFF [0, 1, 2] else pure ()
  liveUpdate j k d 1 [0, 1, 2]

/-- The end of RCFETCH after item i of nb: PHANTOM where some were counted. -/
def fetchEnd (nb : Nat) (j : Job) : Job := doneIf j (decide (nb ≤ j.prog)) (if rcPhantoms j == 0 then 0 else 22)

/-- One item of BLIST. -/
def fetchItem (pr : List Dword) (a : List Item) (k d : Dword) (j : Job) : EM Job := do
  let next := { j with prog := j.prog + 1 }
  let p ← probePeer j pr k
  match p with
  | none => pure (rcSet 19 (rcPhantoms j + 1) next)
  | some pe =>
    if !foundItem p k d then pure (rcSet 19 (rcPhantoms j + 1) next)
    else do
      let q ← probeLocal j k
      if localWins a q k d pe.2.ver then pure next
      else
        match q with
        | none => pure (doneIf j true 24)
        | some qe => do
          installItem j pr k d pe qe
          pure { next with aux := j.aux + 1 }

/-- A step of RCFETCH: the phantoms of ALIST first, then one item of BLIST. -/
def rcFetchWork (j : Job) : EM Job := do
  match ← peerRec j with
  | none => pure (doneIf j true 20)
  | some pr => do
    let nb := fld (rcD j 13) 63 32
    let a ← emItems j (rcD j 10).toNat (fld (rcD j 13) 31 0)
    if rcPhase j == 0 then do
      let n ← countPhantoms j a
      pure (fetchEnd nb (rcSet 19 n (rcSet 18 1 j)))
    else do
      let b ← emItems j ((rcD j 11).toNat + 16 * j.prog) 1
      match b with
      | [] => pure (fetchEnd nb j)
      | i :: _ => do
        let k ← fetchItem pr a i.1 i.2 j
        pure (if k.fin.isSome then k else fetchEnd nb k)

/-- RCFETCH (R271). -/
def execRcfetch (h : CmdHdr) (rec' : Dword) (s : State) : Host.Outcome State Fault Refusal :=
  jobStep (.rcfetch h rec') (issueThen (rcIssue rec'.toNat) rcFetchWork) s

/-! ## Serving a peer's fold request (R355) -/

/-- The 128 bits of a cell. -/
def cellBits (c : Cell) : BitVec 128 := BitVec.ofNat 128 ((cellLo c).toNat + c.keyx.toNat * 2 ^ 64)

/-- How the engine of an I-die answers a fold request as its serve begins: 2 for unequal seeds, 1 NOTREADY, or 0 with the cells of the fold of
SNAP. A record or a snapshot that cannot be read is a machine check, whose event no element has pushed for, and NOTREADY (R315, R370; logs 21
and 28). -/
def foldAnswer (s : State) (idie : Nat) (r : FoldReq) : State × Nat × List (BitVec 128) :=
  let lost (pa : Nat) : State × Nat × List (BitVec 128) := 
    (mcheck s (4 + idie) 8 (dw pa) (Config.scrubElement s.tick).toNat 0 0, 1, [])
  if r.seeds != seedsOf s idie then (s, 2, [])
  else if 2 ^ 48 ≤ r.addr then (s, 1, [])
  else
    match physRead s r.addr 128 with
    | none => lost r.addr
    | some l =>
      let d := bytesDwords l
      let bmax := fld (dwAt d 3) 4 0
      if !dbit (dwAt d 3) 20 || fld (dwAt d 6) 31 0 != r.epoch || decide (bmax < r.b ∨ 16 < bmax) then (s, 1, [])
      else
        match physRead s (dwAt d 1).toNat (16 * (3 * 2 ^ bmax)) with
        | none => lost (dwAt d 1).toNat
        | some c => (s, 0, (foldCells bmax r.b (cellsOf c)).map cellBits)

/-- 4 KiB bursts of an answer. -/
def foldBursts (cells : List (BitVec 128)) : Nat := (16 * cells.length + 4095) / 4096

/-- The entry of the oldest fold request frees, for the request that has waited longest at a port (R355). -/
def foldFree (d : Die) : Die := { d with folds := d.folds.drop 1 ++ d.portFolds.take 1, portFolds := d.portFolds.drop 1 }

/-- The answer to the oldest fold request leaves on VN1, by the route table, and its entry frees. -/
def foldReply (s : State) (idie : Nat) (r : FoldReq) (code : Nat) (cells : List (BitVec 128)) : State :=
  (sendFab (modDie s (4 + idie) foldFree) idie r.dev.toNat (.folded code cells)).1

/-- The reconcile and collective engines of an I-die have power: those of I-die 1 none while island 14 is off (R388, R389). -/
def idiePowered (s : State) (idie : Nat) : Bool := !(idie == 1 && dbit (tget s.regs.islctl 14 0) 8)

/-- The reconcile engine of an I-die serves its oldest fold request (R355): the serve begins and fixes the answer, then moves a 4 KiB burst a
turn, and the answer leaves with the last one. An engine without power serves none (R389; log 28). -/
def foldTurn (s : State) (idie : Nat) : State :=
  match (if idiePowered s idie then (die s (4 + idie)).folds else []) with
  | [] => s
  | r :: l =>
    match r.serve with
    | none =>
      let a := foldAnswer s idie r
      if a.2.2.isEmpty then foldReply a.1 idie r a.2.1 []
      else modDie a.1 (4 + idie) (fun d => { d with folds := { r with serve := some (a.2.1, a.2.2, foldBursts a.2.2) } :: l })
    | some (code, cells, n) =>
      if n ≤ 1 then foldReply s idie r code cells
      else modDie s (4 + idie) (fun d => { d with folds := { r with serve := some (code, cells, n - 1) } :: l })

/-- A fold request enters the engine's store of 4; a fifth waits at its port (R355). -/
def foldTake (s : State) (idie : Nat) (r : FoldReq) : State :=
  modDie s (4 + idie) (fun d =>
    if d.folds.length < 4 then { d with folds := d.folds ++ [r] } else { d with portFolds := d.portFolds ++ [r] })

/-- A fold of the record at a physical address is being served (R355). -/
def foldServing (s : State) (pa : Nat) : Bool :=
  (span 0 2).any (fun i => (die s (4 + i)).folds.any (fun r => r.serve.isSome && r.addr == pa))

end Sys2Proof.Machine
end

