-- ==== Sys2Proof/Machine/Router.lean ====
section
/-! DEFINITION. The router's bulk commands (R261, R262, R354). A job keeps the union of the leaves missing from its chunks, and then
one number a chunk: 0 before its request, 1 once it is delivered, and 2 plus the round of its request between. Nodes ask each other for
chunks: for one leaf's (kind 0), for what a subtree or the whole group combines (kind 1), or for every leaf's (kind 2); a node answers with
chunks and then says which leaves are missing (log 22). -/

namespace Sys2Proof.Machine

/-! ## The command's fields (R261) -/

/-- GROUP. -/
def blkG (j : Job) : Nat := fld (cmdD j.cmd 1) 23 16
/-- SEQ. -/
def blkQ (j : Job) : Nat := fld (cmdD j.cmd 2) 31 0
/-- CCTR. -/
def blkCctr (j : Job) : Nat := fld (cmdD j.cmd 1) 31 24
/-- NCH. -/
def blkNch (j : Job) : Nat := fld (cmdD j.cmd 1) 47 32
/-- ROOT. -/
def blkRoot (j : Job) : Nat := fld (cmdD j.cmd 1) 53 48
/-- CHB. -/
def blkChb (j : Job) : Nat := 64 * (fld (cmdD j.cmd 2) 41 32 + 1)
/-- DST. -/
def blkDst (j : Job) : Nat := (cmdD j.cmd 3).toNat
/-- GALLRED. -/
def blkRed (j : Job) : Bool := cmdOpc j.cmd == 0x70
/-- GBCAST. -/
def blkBcast (j : Job) : Bool := cmdOpc j.cmd == 0x72

/-- The kind of request of a command, and the leaf it names. -/
def blkKind (j : Job) : Nat := if blkRed j then 1 else if blkBcast j then 0 else 2
/-- The leaf. -/
def blkLeaf (j : Job) : Nat := if blkBcast j then blkRoot j else 0

/-! ## What is at hand for a chunk -/

/-- This node's own input is announced, or there is none to wait for. -/
def ownSettled (s : State) (g q c : Nat) : Bool := !gLocal (grp s g) || ownHere s g q c

/-- Combine byte strings element by element, with the flags of the sums (R95, R255, R262). Strings of different sizes give an empty one: one
of them differs from CHB, and the job of whoever takes it faults BADSHAPE. -/
def combineBytes (op : Nat) (f : Fmt) (ls : List (List Byte)) : List Byte × Nat :=
  let n := fmtBytes f
  let k := (ls.headD []).length
  if ls.any (fun l => l.length != k) then ([], 0)
  else
    let cols := ls.map (fun l => (pieces n l).map leNat)
    let r := (span 0 (k / n)).map (fun i => combineAll op f (cols.map (fun l => l.getD i 0)))
    (r.flatMap (fun v => leBytes n v.1), r.foldl (fun a v => a ||| v.2) 0)

/-- The combined chunk that a port has delivered. -/
def combAt (s : State) (g q c p : Nat) : Option (List Byte) :=
  (s.chunks.find? (fun k => k.port == p && k.g == g && k.q == q && k.comb && k.c == c)).map (·.data)

/-- The leaves' own chunks that a port has delivered, with their leaves. -/
def leavesAt (s : State) (g q c p : Nat) : List (Nat × List Byte) :=
  (s.chunks.filter (fun k => k.port == p && k.g == g && k.q == q && !k.comb && k.c == c)).map (fun k => (k.leaf, k.data))

/-- Own and children's inputs have settled. -/
def upSettled (s : State) (g q c : Nat) : Bool := ownSettled s g q c && (gChildren (grp s g)).all (portOver s g q 1 0 c)

/-- The parent's combined chunk stands for the whole group: it has said what there is. -/
def rootSaid (s : State) (g q c : Nat) : Bool := decide (gParent (grp s g) < 16) && (endOf s g q 1 0 c (gParent (grp s g))).isSome

/-- Leaves missing at this node: its own, where it takes part and has nothing. -/
def ownMiss (s : State) (g : Nat) (l : Option (List Byte)) : Dword :=
  if gLocal (grp s g) && l.isNone then dw (2 ^ gLeaf (grp s g)) else 0

/-- The leaves whose chunk is at hand here. -/
def leavesHere (s : State) (g q c : Nat) : Dword :=
  (s.chunks.filter (fun k => k.g == g && k.q == q && !k.comb && k.c == c)).foldl (fun m k => m ||| dw (2 ^ k.leaf))
    (if gLocal (grp s g) && ownHere s g q c then dw (2 ^ gLeaf (grp s g)) else 0)

/-- The leaves of a group that lie behind a port: each lies behind one port at most, and this node's own behind none (log 22). -/
def leavesBehind (s : State) (g p : Nat) : Dword :=
  let e := tget s.groups g (0, 0)
  ((span 0 64).filter (fun l => l != gLeaf e.1 && Config.leafPort e.1 e.2 l == p)).foldl (fun m l => m ||| dw (2 ^ l)) 0

/-- Leaves missing behind a port: those it named, or, where it has named none, the leaves behind it whose chunk has not come, of which a
combined chunk that has come may hold any (log 22). -/
def portMiss (s : State) (g q kind leaf c p : Nat) : Dword :=
  match endOf s g q kind leaf c p with
  | some e => e.miss
  | none =>
    if kind == 0 then dw (2 ^ leaf)
    else
      let far := leavesBehind s g p &&& ~~~leavesHere s g q c
      if kind == 1 && (combAt s g q c p).isSome then far &&& Config.lostLeaves s.tick g p else far

/-- Leaves missing behind some ports. -/
def portsMiss (s : State) (g q kind leaf c : Nat) (ports : List Nat) : Dword :=
  ports.foldl (fun m p => m ||| portMiss s g q kind leaf c p) 0

/-- Byte strings combined, with the flags; none where there are none. -/
def combined (e : Dword) (ls : List (List Byte)) : Option (List Byte) × Nat :=
  if ls.isEmpty then (none, 0) else let r := combineBytes (gOp e) (gFormat e) ls; (some r.1, r.2)

/-- This leaf's own bytes, and the children's, in node order. -/
def upInputs (s : State) (g q c : Nat) (own : Option (List Byte)) : List (List Byte) :=
  own.toList ++ (gChildren (grp s g)).flatMap (fun p => (combAt s g q c p).toList)

/-- Everything a chunk of a command waits for has come. -/
def chunkReady (s : State) (j : Job) (c : Nat) : Bool :=
  let g := blkG j
  let q := blkQ j
  let e := grp s g
  if blkBcast j then
    if blkRoot j == gLeaf e then ownHere s g q c
    else (chunkAt s g q (blkRoot j) c).isSome || (treePorts e).all (portOver s g q 0 (blkRoot j) c)
  else if blkRed j then rootSaid s g q c || ((gParent e == 31 || parentLost s e) && upSettled s g q c)
  else ownSettled s g q c && (treePorts e).all (portOver s g q 2 0 c)

/-- What a member writes for a chunk: offsets in chunks and bytes; the leaves it lacks; whether some input never said so (R262, R354); and
the flags of what it combines (R95). -/
def chunkGot (s : State) (j : Job) (c : Nat) (own : Option (List Byte)) : List (Nat × List Byte) × Dword × Bool × Nat :=
  let g := blkG j
  let q := blkQ j
  let e := grp s g
  let silent (kind leaf : Nat) (ports : List Nat) : Bool := ports.any (fun p => (endOf s g q kind leaf c p).isNone)
  if blkBcast j then
    match (if blkRoot j == gLeaf e then own else chunkAt s g q (blkRoot j) c) with
    | some l => ([(c, l)], 0, false, 0)
    | none => ([], dw (2 ^ blkRoot j), true, 0)
  else if blkRed j then
    if rootSaid s g q c then
      ((combAt s g q c (gParent e)).toList.map (fun l => (c, l)), portMiss s g q 1 0 c (gParent e), false, 0)
    else
      let r := combined e (upInputs s g q c own)
      (r.1.toList.map (fun l => (c, l)), ownMiss s g own ||| portsMiss s g q 1 0 c (treePorts e), silent 1 0 (treePorts e), r.2)
  else
    (own.toList.map (fun l => (gLeaf e * blkNch j + c, l))
        ++ (treePorts e).flatMap (fun p => (leavesAt s g q c p).map (fun k => (k.1 * blkNch j + c, k.2))),
      ownMiss s g own ||| portsMiss s g q 2 0 c (treePorts e), silent 2 0 (treePorts e), 0)

/-! ## Requests -/

/-- Chunks requested and not delivered. -/
def chunksFlying (j : Job) : Nat := countIf (fun v => decide (2 ≤ v)) (j.data.drop 1)

/-- Chunks of one group in flight, over the commands of both routers' queues. -/
def groupFlying (s : State) (g : Nat) : Nat :=
  (((queue s { eng := 4, idx := 0 }).jobs ++ (queue s { eng := 4, idx := 1 }).jobs).filter (fun k => k.issued && blkG k == g)).foldl
    (fun n k => n + chunksFlying k) 0

/-- Requests of other nodes for a group that have gone on along the tree. -/
def asksFlying (s : State) (g : Nat) : Nat := countIf (fun a => a.g == g && a.sent) s.asks

/-- One more chunk of a group may be asked for: at most 16 are in flight (R262), and each of them holds a chunk buffer (log 22). -/
def mayAsk (s : State) (g : Nat) : Bool := decide (groupFlying s g + asksFlying s g < 16)

/-- The next chunk to request, when one may be (R262). -/
def nextRequest (s : State) (j : Job) : Option Nat :=
  if !mayAsk s (blkG j) then none else (span 0 (blkNch j)).find? (fun c => chunkState j c == 0)

/-- This leaf's announcement counts for the command: GBCAST ignores those of other leaves than ROOT. -/
def ownCounts (s : State) (j : Job) : Bool := !blkBcast j || blkRoot j == gLeaf (grp s (blkG j))

/-- An announced size other than CHB faults BADSHAPE, at the chunk (R262). -/
def checkSize (j : Job) (c : Nat) : EM Unit := do
  let s ← get
  match annOf s (blkG j) (blkQ j) c with
  | none => pure ()
  | some a => if ownCounts s j && a.size != blkChb j then jobFault 3 c else pure ()

/-- This leaf's own bytes of a chunk, where they count and are announced, or were read before their announcement ended; what cannot be read
faults the job (R192, R315). -/
def emOwn (j : Job) (c : Nat) : EM (Option (List Byte)) := do
  let s ← get
  match annOf s (blkG j) (blkQ j) c with
  | none =>
    match keptAt s (blkG j) (blkQ j) c with
    | some l => if !ownCounts s j then pure none else if l.isEmpty then jobFault 25 c else pure (some l)
    | none => pure none
  | some a =>
    if !ownCounts s j then pure none
    else
      let r := virtRead s (.walker 4) a.o.asid a.o.mode a.addr.toNat a.size
      set r.1
      match r.2 with
      | .error e => do
        modify (fun t => { t with marks := xMarks t (queueIdie t.curQ) e ++ t.marks })
        jobFaultIn (some a.o.asid) (accessCode e) a.addr.toNat
      | .ok l => pure (some l)

/-- Ask for chunk c at every port of the group that is up (R354); leaf ROOT's node asks nobody for its own. -/
def requestChunk (c : Nat) (j : Job) : EM Job := do
  checkSize j c
  let s ← get
  let e := grp s (blkG j)
  if !(blkBcast j && blkRoot j == gLeaf e) then set (askPorts s (treePorts e) (blkG j) (blkQ j) (blkKind j) (blkLeaf j) c)
  pure { j with data := j.data.set (c + 1) (2 + s.roundNo) }

/-- The issue of a bulk command: BADGROUP for a second command of the pair, a disabled group, or a SEQ at or below HSEQ; one of no chunks
is done at once (R262). A pair that has had a command takes no other, whatever GCFG or the round of SEQ does meanwhile (DESIGN CHOICE,
log 52). -/
def bulkIssue (j : Job) : EM Job := do
  let s ← get
  let g := blkG j
  let q := blkQ j
  if (bulkJob s g q).isSome || (bulkEnded s g q).isSome || !gEn (grp s g) || seqLe q (gHseq s g) then pure (doneIf j true 26)
  else
    let k := doneIf { j with data := 0 :: List.replicate (blkNch j) 0 } (blkNch j == 0) 0
    if k.fin.isSome then modify (fun t => bulkNote t k)
    pure k

/-- A step of a bulk command: one more request. -/
def bulkWork (j : Job) : EM Job := do
  match nextRequest (← get) j with
  | none => pure j
  | some c => requestChunk c j

/-- GALLRED (R261, R262). -/
def execGallred (h : CmdHdr) (group cctr : BitVec 8) (nch : BitVec 16) (seq : BitVec 32) (nb1 : BitVec 10) (dst : Dword)
    (s : State) : Host.Outcome State Fault Refusal :=
  jobStep (.gallred h group cctr nch seq nb1 dst) (issueThen bulkIssue bulkWork) s

/-- GALLGATH (R261, R262). -/
def execGallgath (h : CmdHdr) (group cctr : BitVec 8) (nch : BitVec 16) (seq : BitVec 32) (nb1 : BitVec 10) (dst : Dword)
    (s : State) : Host.Outcome State Fault Refusal :=
  jobStep (.gallgath h group cctr nch seq nb1 dst) (issueThen bulkIssue bulkWork) s

/-- GBCAST (R261, R262). -/
def execGbcast (h : CmdHdr) (group cctr : BitVec 8) (nch : BitVec 16) (root : BitVec 6) (seq : BitVec 32) (nb1 : BitVec 10)
    (dst : Dword) (s : State) : Host.Outcome State Fault Refusal :=
  jobStep (.gbcast h group cctr nch root seq nb1 dst) (issueThen bulkIssue bulkWork) s

/-! ## Delivery (R262) -/

/-- The leading delivered chunks, from chunk c on (with fuel). -/
def leadFrom (j : Job) : Nat → Nat → Nat
  | 0, c => c
  | f + 1, c => if chunkState j c == 1 then leadFrom j f (c + 1) else c

/-- Deliver chunk c as it stands: its writes, then the counter for every chunk that the delivered prefix gains; the end once every
chunk is delivered. A chunk of another leaf whose size is not CHB faults BADSHAPE. -/
def deliverChunk (c : Nat) (timed : Bool) (j : Job) : EM Job := do
  checkSize j c
  let own ← emOwn j c
  let r := chunkGot (← get) j c own
  if r.1.any (fun w => w.2.length != blkChb j) then jobFault 3 c
  let part := timed || r.2.2.1 || r.2.1 != 0
  emWrite j (r.1.map (fun w => (blkDst j + w.1 * blkChb j, w.2)))
  let k := { j with data := (j.data.set (c + 1) 1).set 0 ((j.data.headD 0) ||| r.2.1.toNat), aux := j.aux + bnat part,
                    flags := j.flags ||| jobFlags r.2.2.2 false }
  let n := leadFrom k (blkNch k) k.prog
  modify (fun t => (span k.prog (n - k.prog)).foldl (fun u _ => counterAdd u (clOf k.o.el) (blkCctr k) 1) t)
  let m := doneIf { k with prog := n } (decide (blkNch k ≤ n)) (if k.aux == 0 then 0 else 19)
  if m.fin.isSome then modify (fun t => bulkNote t m)
  pure m

/-- The first chunk in flight that satisfies a test. -/
def flyingChunk (j : Job) (p : Nat → Bool) : Option Nat := (span 0 (blkNch j)).find? (fun c => decide (2 ≤ chunkState j c) && p c)

/-- A chunk's timeout has passed (R262); TMO 0 sets none. -/
def chunkLate (s : State) (j : Job) (c : Nat) : Bool :=
  let t := gTmo (grp s (blkG j))
  t != 0 && decide (chunkState j c - 2 + t ≤ s.roundNo)

/-- Take a job's turn: it must be one of its queue. -/
def atJob (s : State) (q : QueueId) (jid : BitVec 32) : State := { s with curQ := q, curJ := jid }

/-- The job is one of the router's that has been issued. -/
def isBulk (s : State) (q : QueueId) (jid : BitVec 32) : Bool :=
  match jobOf s q jid with
  | some j => q.eng == 4 && j.issued
  | none => false

/-- CHUNK_DELIVERY (R262): the first chunk in flight that is at hand is written. -/
def execChunkDelivery (q : QueueId) (jid : BitVec 32) (s : State) : Host.Outcome State Fault Refusal :=
  if isBulk s q jid then
    jobGo (fun j => match flyingChunk j (chunkReady s j) with | some c => deliverChunk c false j | none => pure j) (atJob s q jid)
  else .next s

/-- CHUNK_TIMEOUT (R262): the first chunk in flight whose timeout has passed ends PARTIAL with what has come. -/
def execChunkTimeout (q : QueueId) (jid : BitVec 32) (s : State) : Host.Outcome State Fault Refusal :=
  if isBulk s q jid then
    jobGo (fun j => match flyingChunk j (chunkLate s j) with | some c => deliverChunk c true j | none => pure j) (atJob s q jid)
  else .next s

/-! ## Answering other nodes (R259, R262, R354; log 22) -/

/-- What a node answers: chunks, each combined or a leaf's own, and the leaves that are missing. -/
structure Answer where
  got  : List (Bool × Nat × List Byte)
  miss : Dword
  deriving DecidableEq, Repr

/-- Read this node's own announced chunk for a request of another node; one that was asked for before its announcement ended has been read. -/
def ownTake (s : State) (g q c : Nat) : State × Option (List Byte) :=
  match annOf s g q c with
  | some a => annTake s a
  | none => (s, (keptAt s g q c).bind (fun l => if l.isEmpty then none else some l))

/-- Is this job the issued GALLRED of a sequence? -/
def isReduction (g q : Nat) (j : Job) : Bool :=
  j.issued && j.fin != some 26 && blkRed j && blkG j == g && blkQ j == q

/-- A job of the sequence takes floating-point flags. -/
def flagReduction (g q fl : Nat) (j : Job) : Job :=
  if isReduction g q j then { j with flags := j.flags ||| jobFlags fl false } else j

/-- The flags of what a node combines for a sequence go into its own GALLRED of it, where it has one (R95). -/
def bulkFlags (s : State) (g q fl : Nat) : State :=
  if fl == 0 then s
  else ([0, 1] : List Nat).foldl (fun t i => modQueue t { eng := 4, idx := i }
    (fun x => { x with jobs := x.jobs.map (flagReduction g q fl) })) s

/-- What this node and its children combine. -/
def answerUp (s : State) (g q c : Nat) : State × Answer :=
  let r := ownTake s g q c
  let v := combined (grp s g) (upInputs s g q c r.2)
  (bulkFlags r.1 g q v.2,
    { got := v.1.toList.map (fun l => (true, 0, l))
      miss := ownMiss s g r.2 ||| portsMiss s g q 1 0 c (gChildren (grp s g)) })

/-- The answer to a request for one leaf's chunk; timed when its timeout has passed, which the leaf's own node tests (R259). -/
def answerLeaf (s : State) (a : Ask) (timed : Bool) : Option (State × Answer) :=
  let e := grp s a.g
  let none' : Answer := { got := [], miss := dw (2 ^ a.leaf) }
  let some' (l : List Byte) : Answer := { got := [(false, a.leaf, l)], miss := 0 }
  if a.leaf == gLeaf e then
    match annOf s a.g a.q a.c with
    | some n => let r := annTake s n; some (r.1, match r.2 with | some l => some' l | none => none')
    | none => if timed then some (s, none') else none
  else
    match chunkAt s a.g a.q a.leaf a.c with
    | some l => some (s, some' l)
    | none => if a.sent && ((treePorts e).filter (· != a.port)).all (portOver s a.g a.q 0 a.leaf a.c) then some (s, none') else none

/-- The answer to a request for the combined chunk: to the parent this subtree's, to a child the whole group's. -/
def answerComb (s : State) (a : Ask) (timed : Bool) : Option (State × Answer) :=
  let e := grp s a.g
  if a.port == gParent e || gParent e == 31 || parentLost s e then
    if timed || upSettled s a.g a.q a.c then some (answerUp s a.g a.q a.c) else none
  else if rootSaid s a.g a.q a.c then
    some (s, { got := (combAt s a.g a.q a.c (gParent e)).toList.map (fun l => (true, 0, l)),
               miss := portMiss s a.g a.q 1 0 a.c (gParent e) })
  else if timed then
    let r := answerUp s a.g a.q a.c
    some (r.1, { r.2 with miss := r.2.miss ||| portMiss s a.g a.q 1 0 a.c (gParent e) })
  else none

/-- The answer to a request for every leaf's chunk: this node's own, and those that its other ports have brought. -/
def answerAll (s : State) (a : Ask) (timed : Bool) : Option (State × Answer) :=
  let e := grp s a.g
  let ports := (treePorts e).filter (· != a.port)
  if timed || (ownSettled s a.g a.q a.c && ports.all (portOver s a.g a.q 2 0 a.c)) then
    let r := ownTake s a.g a.q a.c
    some (r.1, { got := r.2.toList.map (fun l => (false, gLeaf e, l))
                          ++ ports.flatMap (fun p => (leavesAt s a.g a.q a.c p).map (fun k => (false, k.1, k.2))),
                 miss := ownMiss s a.g r.2 ||| portsMiss s a.g a.q 2 0 a.c ports })
  else none

/-- A request's timeout has passed at this node. -/
def askLate (s : State) (a : Ask) : Bool := gTmo (grp s a.g) != 0 && decide (a.start + gTmo (grp s a.g) ≤ s.roundNo)

/-- The answer to a request, when there is one. -/
def askAnswer (s : State) (a : Ask) : Option (State × Answer) :=
  match a.kind with
  | 0 => answerLeaf s a (askLate s a)
  | 1 => answerComb s a (askLate s a)
  | _ => answerAll s a (askLate s a)

/-- Send an answer on the port that asked. -/
def sendAnswer (s : State) (a : Ask) (r : Answer) : State :=
  sendEnd (r.got.foldl (fun t x => portSend t a.port
    (.chunk (BitVec.ofNat 8 a.g) (BitVec.ofNat 32 a.q) x.1 (BitVec.ofNat 6 x.2.1) (BitVec.ofNat 16 a.c) x.2.2)) s) a r.miss

/-- The ports on which a request goes on along the tree. -/
def askOnward (s : State) (a : Ask) : List Nat :=
  let e := grp s a.g
  match a.kind with
  | 0 => if a.leaf == gLeaf e || (chunkAt s a.g a.q a.leaf a.c).isSome then [] else (treePorts e).filter (· != a.port)
  | 1 => if a.port == gParent e then gChildren e else treePorts e
  | _ => (treePorts e).filter (· != a.port)

/-- A request goes on along the tree as soon as a chunk of its group may be asked for, in ascending c (R262). -/
def sendOn (s : State) (a : Ask) : State :=
  let older := s.asks.any (fun b => b.g == a.g && b.q == a.q && !b.sent && decide (b.c < a.c))
  if a.sent || older || !(mayAsk s a.g || (askOnward s a).isEmpty) then s
  else
    let t : State := { s with asks := s.asks.map (fun b => if b == a then { a with sent := true } else b) }
    askPorts t (askOnward s a) a.g a.q a.kind a.leaf a.c

/-- Send on every request that may go on, in ascending c, and answer every one that can be answered. -/
def serveAsks (s : State) : State :=
  let s1 := (sortBy (fun a b => decide (a.c < b.c)) s.asks).foldl sendOn s
  s1.asks.foldl (fun t a =>
    match askAnswer t a with
    | some r => sendAnswer { r.1 with asks := r.1.asks.filter (· != a) } a r.2
    | none => t) s1

/-- What a port brings for a sequence counts while announcements of it last (R258), and while a pull, a bulk job or a request waits for it
(R259, R262). -/
def seqLives (s : State) (g q : Nat) : Bool :=
  gEn (grp s g) && (!(seqLe q (gHseq s g) && q != gHseq s g) || seqWanted s g q)

/-- A request for a chunk reaches this node: it goes on along the tree for what lies elsewhere, and waits until it can be answered. A node
of a disabled group has nothing. -/
def takeAsk (s : State) (port g q kind leaf c : Nat) : State :=
  let a : Ask := { port := port, g := g, q := q, kind := kind, leaf := leaf, c := c, start := s.roundNo, sent := false }
  if !gEn (grp s g) then sendEnd s a (askNone (grp s g) a)
  else
    let same (b : Ask) : Bool := b == { a with start := b.start, sent := b.sent }
    serveAsks (if s.asks.any same then s else { s with asks := s.asks ++ [a] })

/-- What has come serves pulls and requests. -/
def serveNode (s : State) : State := serveAsks (servePulls s)

/-- A chunk reaches this node by a port; it takes the place of an earlier copy. -/
def takeChunk (s : State) (k : Chunk) : State :=
  if seqLives s k.g k.q then
    serveNode { s with chunks := s.chunks.filter (fun x => !(x == { k with data := x.data })) ++ [k] }
  else s

/-- A port says that nothing more comes for a request. -/
def takeEnd (s : State) (k : ChunkEnd) : State :=
  if seqLives s k.g k.q then serveNode { s with ends := s.ends.filter (fun x => !(x == { k with miss := x.miss })) ++ [k] } else s

end Sys2Proof.Machine
end

