-- ==== Sys2Proof/Machine/Serve.lean ====
section
/-! DEFINITION. How engines choose and leave commands (R193, R206, R333 to R337, R373), their step boundaries (R209, R334), ageing
(R333), the end of a job (R288), deferred gathers (R242) and exchanges that give up (R268). -/

namespace Sys2Proof.Machine

/-! ## What holds a command back -/

/-- A matrix command of a launch that holds no tile context waits for one (R335); launch 0 and the work of a BFILL need none (R337). -/
def waitsTile (s : State) (q : QueueId) (j : Job) : Bool :=
  j.o.lid != 0 && !isBfWork q j && !(clus s q.idx).ctxs.contains j.o.lid

/-- An MSAVE waits for the commands issued before it (R206, R207): a pre-emptive one not for stopped streams, of which the saved launch
can have one. The work of a BFILL counts as issued from its entry, as no record stands for it (R337; DESIGN CHOICE, log 54). -/
def waitsSave (s : State) (q : QueueId) (j : Job) : Bool :=
  let others := (queue s q).jobs.filter (fun k => k.jid != j.jid && (k.issued || isBfWork q k) && unfinishedJob k)
  if !isSave j then false
  else if isPreSave j then
    others.any (fun k => !isStream k) || decide (1 < countIf (fun k => partStream k && k.o.lid == saveLid j) others)
  else !others.isEmpty

/-- A suspended job of the queue. -/
def anySuspended (s : State) (q : QueueId) : Bool := (queue s q).jobs.any (fun k => k.state == 5)

/-- The matrix queue lets an eligible command go on: with a suspended job only a fill that runs already (R193), and an MSAVE once it waits for
nothing (R206). -/
def matrixFree (s : State) (q : QueueId) (j : Job) : Bool := (!anySuspended s q || (isFill j && j.issued)) && !waitsSave s q j

/-- Another part-run stream of the job's launch stands before it in the queue. -/
def laterStream (s : State) (q : QueueId) (j : Job) : Bool :=
  ((queue s q).jobs.takeWhile (fun k => k.jid != j.jid)).any (fun k => partStream k && k.o.lid == j.o.lid)

/-- A matrix command that goes on although its launch has been stopped: one that has been issued and is no stream, and a stream after
another part-run one, of which an image can name only one (R205, R206; log 27). -/
def drains (s : State) (q : QueueId) (j : Job) : Bool := q.eng == 0 && j.issued && (!isStream j || laterStream s q j)

/-- A pre-emption has stopped the job's launch (R373): of matrix commands those that drain still run to their end, other streams stop where
they are, and a BFILL completes its layer. -/
def heldBack (s : State) (q : QueueId) (j : Job) : Bool :=
  match launchOf s j.o.lid with
  | some l => (l.held == 2 || l.held == 3) && decide (q.eng ≤ 2) && !drains s q j && !(q.eng == 2 && j.phase != 0) && !isBfWork q j
  | none => false

/-- A CPYPG is to begin a page that another job moves (R216). -/
def waitsPage (s : State) (q : QueueId) (j : Job) : Bool :=
  cmdOpc j.cmd == 0x24 && j.phase == 0 &&
    (match walk s (grantAsid j) ((cmdD j.cmd 2).toNat + 65536 * j.prog) with
     | .ok l => pageMoving s q j (pteFrame l.pte)
     | .error _ => false)

/-- The work of a BFILL that stands in a matrix queue is done and only waits for its boundary. -/
def bwOver (q : QueueId) (j : Job) : Bool := isBfWork q j && j.fin.isSome

/-- A job has something to do now: a page may be moved; a BFILL has a layer to begin or to end, and a BFCANCEL a BFILL that is not inside a
layer (R240, R337); a snapshot waits for its edge, an exchange asks once a round, a bulk command waits for chunks. -/
def hasWork (s : State) (q : QueueId) (j : Job) : Bool :=
  if q.eng == 2 && cmdOpc j.cmd == 0x41 then
    match bfTarget { s with curQ := q } (cmdD j.cmd 2) with
    | some k => k.phase == 0 || k.state == 5
    | none => true
  else if !j.issued then true
  else if q.eng == 1 then !waitsPage s q j
  else if q.eng == 2 then j.phase == 2 || (j.phase == 0 && !bwStands s (bfHome q j))
  else if q.eng == 3 then
    let opc := cmdOpc j.cmd
    if opc == 0x60 then false
    else if opc == 0x61 then rcAsked j != s.roundNo + 1
    else if opc == 0x64 then rcPhase j != 0 || rcAsked j != s.roundNo + 1
    else true
  else if q.eng == 4 then (nextRequest s j).isSome
  else true

/-- The command is eligible (R333): it is in the queue, its WAITEN condition holds, it is neither suspended nor waiting in STATE 3, and in a
matrix queue it waits for no MFILL and no tile context (R193, R335). -/
def eligible (s : State) (q : QueueId) (j : Job) : Bool :=
  unfinishedJob j && (j.state == 2 || j.state == 4) && (j.issued || isBfWork q j || jobWaitOk s j)
    && (q.eng != 0 || j.issued || (!waitsFill s q j && !waitsTile s q j))

/-- The pre-emptive MSAVE that overtakes in a matrix queue (R207): an eligible one. -/
def dueSave (s : State) (q : QueueId) : Option Job :=
  if q.eng == 0 then (queue s q).jobs.find? (fun j => isPreSave j && eligible s q j && !heldBack s q j) else none

/-- A pre-emptive MSAVE that waits for commands issued before it holds every other command back: streams stop where they are, and none
starts that it is to take out of the queue (R206, R207). -/
def saveHolds (s : State) (q : QueueId) (j : Job) : Bool :=
  match dueSave s q with
  | some p => p.jid != j.jid && waitsSave s q p && !((j.issued || isBfWork q j) && (!isStream j || (laterStream s q j && j.o.lid == saveLid p)))
  | none => false

/-- The engine may work on the command now: it is eligible, no pre-emption holds it, the engine is free for it, and there is work to do. -/
def startable (s : State) (q : QueueId) (j : Job) : Bool :=
  eligible s q j && !heldBack s q j && !saveHolds s q j && (q.eng != 0 || matrixFree s q j) && hasWork s q j

/-- The priority that ageing starts from: 1 for a BFILL, what it had reached for its matrix work, 7 for a pre-emptive MSAVE (R207, R337). -/
def basePrio (q : QueueId) (j : Job) : Nat :=
  if isBfWork q j then j.aux else if q.eng == 2 then 1 else if isPreSave j then 7 else cmdPrio j.cmd

/-- The effective priority of a command that is not running (R333). -/
def effPrio (q : QueueId) (j : Job) : Nat := Nat.min 7 (basePrio q j + j.age)

/-! ## Choosing (R334, R336, R337) -/

/-- The best of a list: a pre-emptive MSAVE, which overtakes (R207), else the highest effective priority, ties to the earliest. -/
def bestJob (q : QueueId) (l : List Job) : Option Job :=
  match l.find? isPreSave with
  | some j => some j
  | none => (sortBy (fun a b => decide (effPrio q b < effPrio q a)) l).head?

/-- The command that holds the engine, when it can go on. -/
def activeJob (s : State) (q : QueueId) : Option Job :=
  match (queue s q).active with
  | none => none
  | some jid => (jobOf s q jid).bind (fun j => if j.state == 4 && unfinishedJob j then some j else none)

/-- The commands of a queue that may be worked on, those of the fill port or the others. -/
def startables (s : State) (q : QueueId) (fill : Bool) : List Job :=
  (queue s q).jobs.filter (fun j => startable s q j && (q.eng != 0 || isFill j == fill))

/-- The running command where it can go on, else the best. A BFILL keeps its engine, between two layers too, unless a pre-emption holds it
there: one BFILL runs at a time (R337). -/
def nextJob (s : State) (q : QueueId) (l : List Job) : Option Job :=
  match activeJob s q with
  | some j => if startable s q j then some j else if q.eng == 2 && (j.phase != 0 || !heldBack s q j) then none else bestJob q l
  | none => bestJob q l

/-- The engine is powered: a matrix engine whose island is off runs nothing (R389). -/
def enginePowered (s : State) (q : QueueId) : Bool :=
  if q.eng == 0 then (clus s q.idx).meOk
  else decide (q.eng < 3) || idiePowered s q.idx

/-- The command the engine works on next: the running one, else the best; BFCANCEL before every BFILL; on I-dies the first in queue
order (log 20). DESIGN CHOICE (log 49): the fill port serves the first eligible MFILL in queue order, where R193 lets fills of disjoint
slots end in any order. -/
def chooseJob (s : State) (q : QueueId) (fill : Bool) : Option Job :=
  let l := startables s q fill
  if !enginePowered s q then none
  else if fill || decide (3 ≤ q.eng) then l.head?
  else
    match l.find? (fun j => q.eng == 2 && cmdOpc j.cmd == 0x41) with
    | some j => some j
    | none => nextJob s q l

/-- The engine takes a command: it holds the engine at the effective priority of its start (R333). -/
def takeJob (s : State) (q : QueueId) (fill : Bool) (j : Job) : State :=
  let s0 := { s with curQ := q, curJ := j.jid }
  if fill || decide (3 ≤ q.eng) || cmdOpc j.cmd == 0x41 || (queue s q).active == some j.jid then s0
  else setJob (modQueue s0 q (fun x => { x with active := some j.jid })) q { j with effp := effPrio q j }

/-! ## Step boundaries (R209, R334, R336) -/

/-- Streams stopped part way. -/
def stoppedJobs (s : State) (q : QueueId) : Nat :=
  countIf (fun j => j.state == 4 && partStream j && some j.jid != (queue s q).active) (queue s q).jobs

/-- At a boundary the running command ends where JOBCANCEL has named it (R161), and stops for another that may start and has a strictly higher
effective priority, or is a pre-emptive MSAVE (R207, R334); stops nest 8 deep in a matrix engine. -/
def boundary (s0 : State) (q : QueueId) : State :=
  let s := match (queue s0 q).active.bind (jobOf s0 q) with | some j => if j.cancel then cancelJob s0 q j else s0 | none => s0
  match activeJob s q with
  | none => modQueue s q (fun x => { x with active := none })
  | some j =>
    let higher := (startables s q false).any (fun k => k.jid != j.jid && (decide (j.effp < effPrio q k) || isPreSave k))
    if heldBack s q j || ((higher || saveHolds s q j) && (q.eng != 0 || !isStream j || decide (stoppedJobs s q < 8))) then modQueue s q (fun x => { x with active := none })
    else s

/-- The bytes of a burst that has landed advance a byte-mode counter of the pushing cluster (R152, R288). -/
def burstSignal (s : State) (q : QueueId) (n : Nat) : State :=
  match (queue s q).active.bind (jobOf s q) with
  | some j =>
    let c := clOf j.o.el
    if cmdSigen j.cmd && (counter s c (cmdSigc j.cmd)).byte then counterAdd s c (cmdSigc j.cmd) (dw n) else s
  | none => s

/-- The boundary that is due has passed. -/
def clearEdge (s : State) (q : QueueId) : State := modQueue s q (fun x => { x with edge := none })

/-- The work of a BFILL that is done leaves its matrix queue (R337). -/
def dropDone (s : State) (q : QueueId) : State :=
  settleSlots (modQueue s q (fun x => { x with jobs := x.jobs.filter (fun j => !bwOver q j) })) q.idx

/-- MATRIX_STEP_END (R334). -/
def execMatrixStepEnd (cl : Nat) (s : State) : Host.Outcome State Fault Refusal :=
  let q : QueueId := { eng := 0, idx := cl }
  match (queue s q).edge with
  | some _ => .next (boundary (dropDone (clearEdge s q) q) q)
  | none => .next s

/-- COPY_BURST (R209, R336). -/
def execCopyBurst (cl : Nat) (s : State) : Host.Outcome State Fault Refusal :=
  let q : QueueId := { eng := 1, idx := cl }
  match (queue s q).edge with
  | some n => .next (boundary (burstSignal (clearEdge s q) q n) q)
  | none => .next s

/-- ENGINE_AGEING (R333): one more ageing step for an eligible command that does not run; one that is not eligible starts anew. -/
def execEngineAgeing (q : QueueId) (jid : BitVec 32) (s : State) : Host.Outcome State Fault Refusal :=
  match jobOf s q jid with
  | none => .next s
  | some j =>
    if some jid == (queue s q).active then .next s
    else if eligible s q j then .next (setJob s q { j with age := Nat.min 7 (j.age + 1) })
    else .next (setJob s q { j with age := 0 })

/-- A PERL BFILL has signalled with every layer (R239). -/
def signalsAtEnd (j : Job) : Bool := !(cmdOpc j.cmd == 0x40 && j.cmd.toNat.testBit 112)

/-- ENGINE_DONE (R288): the end of a job whose work is done and whose last boundary has passed. -/
def execEngineDone (q : QueueId) (jid : BitVec 32) (s : State) : Host.Outcome State Fault Refusal :=
  match jobOf s q jid with
  | none => .next s
  | some j =>
    match j.fin with
    | none => .next s
    | some c => if (queue s q).edge.isSome || isBfWork q j then .next s else .next (endJob s q { j with code := c } 6 (signalsAtEnd j))

/-- KVGATHER_DEFER_RESUME (R242): the pending position of a deferred gather has become valid or empty, or its block has gone. The command is
eligible again, and its ageing starts anew (R333). -/
def execKvgatherDeferResume (cl : Nat) (jid : BitVec 32) (s : State) : Host.Outcome State Fault Refusal :=
  let q : QueueId := { eng := 1, idx := cl }
  match jobOf s q jid with
  | none => .next s
  | some j =>
    if j.state != 3 then .next s
    else
      let t := { s with curQ := q, curJ := jid }
      let p := kgPos j j.prog
      match (do
        match ← kgEntry j p with
        | none => pure true
        | some e => do
          let b ← kgBits j (entPa e) p
          pure (b.1 || !b.2) : EM Bool) t with
      | .ok (true, u) => .next (setJob u q { j with state := 4, age := 0 })
      | .ok (false, _) => .next s
      | .error _ => .next (setJob s q { j with state := 4, age := 0 })

/-- WAIT of an exchange command. -/
def xchgWait (j : Job) : Nat := nbits j.cmd.toNat 207 200

/-- An exchange that has waited for WAIT edges (R268, R355). -/
def xchgExpired (s : State) (j : Job) : Bool :=
  j.issued && unfinishedJob j && j.state == 4 && (cmdOpc j.cmd == 0x61 || (cmdOpc j.cmd == 0x64 && rcPhase j == 0))
    && decide (rcStart j + xchgWait j ≤ s.roundNo)

/-- RCXCHG_WAIT_EXPIRY (R268, R355): NOPEER. -/
def execRcxchgWaitExpiry (q : QueueId) (jid : BitVec 32) (s : State) : Host.Outcome State Fault Refusal :=
  match jobOf s q jid with
  | none => .next s
  | some j => if q.eng == 3 && xchgExpired s j then .next (setJob s q { j with fin := some 20 }) else .next s

end Sys2Proof.Machine
end

