-- ==== Sys2Proof/Machine/Slots.lean ====
section
/-! DEFINITION. Host launch queues and slots (R326 to R329), the end of a launch (R325), packets at the launch units (R324). -/

namespace Sys2Proof.Machine

/-! ## Queue descriptors (R326) -/

/-- QTBASE.BASE. -/
def qtBase (s : State) : Nat := fld s.regs.qtbase 51 6 * 64
/-- QTCNT. -/
def qtCnt (s : State) : Nat := fld s.regs.qtctl 10 0
/-- QUANT. -/
def qtQuant (s : State) : Nat := fld s.regs.qtctl 23 16
/-- LAGE. -/
def qtLage (s : State) : Nat := fld s.regs.qtctl 31 24
/-- AGEEN. -/
def qtAgeen (s : State) : Bool := dbit s.regs.qtctl 32

/-- The physical address of a dword of a queue's descriptor. -/
def qdAddr (s : State) (q i : Nat) : Nat := qtBase s + 64 * q + 8 * i

/-- A dword of a queue's descriptor; 0, so a disabled queue, where it cannot be read (log 12). -/
def qdWord (s : State) (q i : Nat) : Dword := (physDword s (qdAddr s q i)).getD 0

/-- RLOG. -/
def qdRlog (d1 : Dword) : Nat := fld d1 4 0
/-- RING. -/
def qdRing (d0 : Dword) : Nat := fld d0 51 8 * 256

/-- The descriptor is enabled and well formed (R326): no rsv bit, which an unaligned RING would set, and RLOG at most 16. -/
def qdOk (s : State) (q : Nat) : Bool :=
  let d1 := qdWord s q 1
  fld (qdWord s q 0) 63 52 == 0 && fld (qdWord s q 0) 7 0 == 0 && fld d1 63 9 == 0 && dbit d1 8 && decide (qdRlog d1 ≤ 16)
    && fld (qdWord s q 2) 63 32 == 0 && fld (qdWord s q 3) 63 32 == 0 && fld (qdWord s q 5) 63 40 == 0
    && qdWord s q 6 == 0 && qdWord s q 7 == 0

/-- HEAD. -/
def qdHead (s : State) (q : Nat) : Nat := fld (qdWord s q 2) 31 0
/-- TAIL. -/
def qdTail (s : State) (q : Nat) : Nat := fld (qdWord s q 3) 31 0

/-- A queue has work (R326). -/
def qHasWork (s : State) (q : Nat) : Bool := decide (q < qtCnt s) && qdOk s q && qdHead s q != qdTail s q

/-- A slot. -/
def lslot (s : State) (n : Nat) : Slot := tget s.slots n Slot.reset

/-- Change a slot. -/
def modSlot (s : State) (n : Nat) (f : Slot → Slot) : State := { s with slots := tput s.slots n (f (lslot s n)) }

/-- The queue is mapped to a slot. -/
def qMapped (s : State) (q : Nat) : Bool := s.slots.any (fun x => x.2.q == some q)

/-! ## The mapper (R328) -/

/-- Some unmapped queue has work. -/
def anyWaiting (s : State) : Bool := (span 0 (qtCnt s)).any (fun q => !qMapped s q && qHasWork s q)

/-- Unmap a slot. -/
def unmapSlot (s : State) (n : Nat) : State := modSlot s n (fun x => { x with q := none, held := 0 })

/-- A slot that has held its queue for QUANT edges is unmapped when an unmapped queue has work. -/
def quantumOut (s : State) (n : Nat) : State :=
  if (lslot s n).q.isSome && decide (qtQuant s ≤ (lslot s n).held) && anyWaiting s then unmapSlot s n else s

/-- One slot at an edge: it counts the edge, and its queue leaves when it has no work, or after its quantum. -/
def mapEdge (s : State) (n : Nat) : State :=
  match (lslot s n).q with
  | none => s
  | some q =>
    if qHasWork s q then quantumOut (modSlot s n (fun x => { x with held := x.held + 1 })) n else unmapSlot s n

/-- The effective priority of a waiting queue. -/
def qEff (s : State) (q : Nat) : Nat :=
  Nat.min 7 (fld (qdWord s q 1) 7 5 + (if qtAgeen s then tget s.waited q 0 / Nat.max 1 (qtLage s) else 0))

/-- The waiting queues, best first: effective priority, then the time waited, then the number. -/
def qOrder (s : State) : List Nat :=
  let l := (span 0 (qtCnt s)).filter (fun q => !qMapped s q && qHasWork s q)
  sortBy (fun a b => decide (qEff s b < qEff s a) || (qEff s a == qEff s b && decide (tget s.waited b 0 < tget s.waited a 0))) l

/-- A mapped slot reads its queue's TAIL. -/
def readTail (s : State) (q : Nat) : State := { s with tailSeen := tput s.tailSeen q (qdTail s q) }

/-- Map the best waiting queue to a free slot. -/
def mapFree (s : State) (n : Nat) : State :=
  if (lslot s n).q.isSome then s
  else
    match qOrder s with
    | [] => s
    | q :: _ => readTail { (modSlot s n (fun x => { x with q := some q, held := 0 })) with waited := tput s.waited q 0 } q

/-- A queue's descriptor that cannot be read is a machine check at each edge that the mapper finds it so (R315, R370). -/
def lostQueue (s : State) (q : Nat) : State :=
  match (span 0 8).find? (fun i => (physDword s (qdAddr s q i)).isNone) with
  | some i => lostRead s (qdAddr s q i)
  | none => s

/-- The mapper at a device round edge (R328). Host queues are not served before MCTL.RUN (R383). -/
def mapperEdge (s : State) : State :=
  if s.regs.run then
    let s1 := (span 0 64).foldl mapEdge ((span 0 (qtCnt s)).foldl lostQueue s)
    let s2 := (span 0 (qtCnt s1)).foldl (fun t q =>
      if !qMapped t q && qHasWork t q then { t with waited := tput t.waited q (tget t.waited q 0 + 1) } else t) s1
    let s3 := (span 0 64).foldl mapFree s2
    s3.slots.foldl (fun t x => match x.2.q with | some q => readTail t q | none => t) s3
  else s

/-- SLOT_QUANTUM_EXPIRY (R328). -/
def execSlotQuantumExpiry (slot : Nat) (s : State) : Host.Outcome State Fault Refusal := .next (quantumOut s slot)

/-! ## Taking a record (R329) -/

/-- The address of the record that a queue's HEAD names. -/
def ringAddr (s : State) (q : Nat) : Nat := qdRing (qdWord s q 0) + 256 * (qdHead s q % 2 ^ qdRlog (qdWord s q 1))

/-- The dwords of that record; none when they cannot be read. -/
def ringRecord (s : State) (q : Nat) : Option (List Dword) := (physRead s (ringAddr s q) 256).map bytesDwords

/-- HEAD moves on, and the slot has taken one more. -/
def advanceHead (s : State) (slot q : Nat) : State :=
  physPutDword (modSlot s slot (fun x => { x with taken := x.taken + 1 })) (qdAddr s q 2) (dw ((qdHead s q + 1) % 2 ^ 32))

/-- A record is refused: ERRCNT gains 1, LASTERR is 1. -/
def refuseRecord (s : State) (q : Nat) : State :=
  physPutDword s (qdAddr s q 5) (dw ((fld (qdWord s q 5) 31 0 + 1) % 2 ^ 32 + 2 ^ 32))

/-- Launch a host record as a supervisor would. -/
def launchRecord (s : State) (q : Nat) (r : List Dword) : State :=
  let used := s.launches.map (·.1) ++ reservedLids s
  let lid := if recSlid r != 0 then recSlid r else nextLid used (used.length + 1) s.lidLast
  activate { s with lidLast := if recSlid r != 0 then s.lidLast else lid } (BitVec.ofNat 32 lid) r (recAsidOf r) uHw (some q)

/-- The queue of a slot, when it holds a record that its TAIL as read covers and a launch can be held (R329); none
before MCTL.RUN (R383). -/
def takeReady (s : State) (slot : Nat) : Option Nat :=
  match (lslot s slot).q with
  | none => none
  | some q =>
    if s.regs.run && qdOk s q && qdHead s q != tget s.tailSeen q 0 && decide (s.launches.length + (reservedLids s).length < launchCap) then some q
    else none

/-- Take the next record of a slot's queue: launched, or refused and skipped; one that cannot be read is a machine check (R370) and refused
(log 44). -/
def takeRecord (s : State) (slot q : Nat) : State :=
  match ringRecord s q with
  | none => advanceHead (refuseRecord (lostRead s (ringAddr s q)) q) slot q
  | some r => if recordOk s r false 7 then advanceHead (launchRecord s q r) slot q else advanceHead (refuseRecord s q) slot q

/-- SLOT_TAKE_RECORD (R329). -/
def execSlotTakeRecord (slot : Nat) (s : State) : Host.Outcome State Fault Refusal :=
  match takeReady s slot with
  | some q => .next (takeRecord s slot q)
  | none => .next s

/-! ## Launch units (R324) -/

/-- A launch's packet reaches a die: one that the launch occupies no cluster of admits it at once, and any other lists it (R324). -/
def launchArrives (s : State) (d : Nat) (lid : BitVec 32) : State :=
  match launchOf s lid with
  | none => s
  | some l => if (occupiedOn s l.rcd d).isEmpty then admitOn s d lid else modDie s d (fun x => { x with waiting := x.waiting ++ [lid] })

/-- LAUNCH_PACKET (R324). -/
def execLaunchPacket (n : Nat) (s : State) : Host.Outcome State Fault Refusal :=
  match takePacket s n with
  | some (p, t) =>
    match p.body with
    | .launch d lid => .next (launchArrives t d lid)
    | _ => .next s
  | none => .next s

/-- LAUNCH_ADMISSION (R324). -/
def execLaunchAdmission (die' : Nat) (s : State) : Host.Outcome State Fault Refusal := .next (considerAdmission s die')

/-! ## The end of a launch (R325) -/

/-- An engine job of the domain in STATE 2 to 5. -/
def domJobs (s : State) (lid : BitVec 32) : Bool := s.queues.any (fun q => q.2.jobs.any (fun j => j.o.lid == lid))

/-- Nothing of the domain is left: no run, no pending event, no write in RL, no job. -/
def domQuiet (s : State) (lid : BitVec 32) : Bool :=
  (domUnfinished s lid).isEmpty && (domFinished s lid).isEmpty && (pendingTs s lid).isEmpty && (rlOf s lid).isEmpty && !domJobs s lid

/-- DONE of a host queue gains 1, and its MSI-X vector is to be signalled (R325, R359). -/
def queueDone (s : State) (q : Nat) : State :=
  { (physPutDword s (qdAddr s q 4) (qdWord s q 4 + 1)) with regs := { s.regs with msixPend := s.regs.msixPend ||| dw (2 ^ (q % 64)) } }

/-- What a launch holds in a cluster is released: slots, those among them that an OSFREE has still to free, blocks, its tile and its
context. -/
def releaseClus (x : Cluster) (lid : BitVec 32) : Cluster :=
  { unlatch x lid.toNat with
      slotOwn := x.slotOwn.filter (fun p => p.2 != lid), slotFree := x.slotFree.filter (fun p => tfind x.slotOwn p.1 != some lid),
      blkOwn := x.blkOwn.filter (fun p => p.2 != lid), ctxs := x.ctxs.filter (· != lid) }

/-- What a launch holds in the clusters is released, and commands that wait for a context take those that free (R335). -/
def releaseClusters (s : State) (lid : BitVec 32) : State :=
  s.clusters.foldl (fun t c => if c.2.ctxs.contains lid then takeContexts t c.1 else t)
    { s with clusters := s.clusters.map (fun c => (c.1, releaseClus c.2 lid)) }

/-- A launch's lane requests and the groups reserved for them are released (R325, R375). -/
def releaseReqs (s : State) (lid : BitVec 32) : State :=
  s.elems.foldl (fun t x =>
    match x.2.req with
    | some q => if q.lid == lid then freeReserved (modElem t x.1 (fun y => { y with req := none })) x.1 else t
    | none => t) s

/-- A launch ends: everything R325 names is released, and its host queue hears. -/
def endLaunch (s : State) (lid : BitVec 32) : State :=
  let q := (launchOf s lid).bind (·.queue)
  let s1 := cfLaunchEnd (releaseClusters (releaseReqs s lid) lid) lid
  let s2 := { s1 with launches := tdel s1.launches lid.toNat, rl := tdel s1.rl lid.toNat, hor := tdel s1.hor lid.toNat,
                      cfAway := s1.cfAway.filter (fun a => a.o.lid != lid),
                      slDone := if lidScope s lid == 3 then lid.toNat :: s1.slDone else s1.slDone }
  match q with
  | some n => queueDone s2 n
  | none => s2

/-- The launch may end at this edge: one with a SLID only where a system edge has just given its domain the horizon 2^64 − 1. -/
def mayEnd (s : State) (sys : Bool) (lid : BitVec 32) : Bool :=
  match launchOf s lid with
  | none => false
  | some l => l.held == 0 && domQuiet s lid && (l.scope != 3 || (sys && (tget s.hor lid.toNat (0, 0, 0)).1.toNat == topTs))

/-- The launches that hold RL writes (R325). -/
def rlHolders (s : State) : List Nat := (s.rl.filter (fun r => !r.2.isEmpty)).map (·.1)

/-- Launches that end at a device round edge; sys is true where it is a system edge as well. Those that held RL writes when the edge came
do not: the edge has drained them, and they end at the next (R325, R399). -/
def launchEnds (sys : Bool) (rl : List Nat) (s : State) : State :=
  (activeLids s).foldl (fun t lid => if mayEnd t sys lid && !rl.contains lid.toNat then endLaunch t lid else t) s

end Sys2Proof.Machine
end

