-- ==== Sys2Proof/Machine/Pause.lean ====
section
/-! DEFINITION. Pre-emption (R372 to R380): the unit's requests, the stop, the capture edge and its image, RESUME and DISCARD. -/

namespace Sys2Proof.Machine

/-! ## Requests (R372, R373) -/

/-- Answer a request: D0 the image address, D1 the status and the image size in KiB, saturating. -/
def preReply (s : State) (reply img : Dword) (status size : Nat) (o : Origin) : State :=
  sendChan s uPre reply [img, dw (status + Nat.min (2 ^ 32 - 1) ((size + 1023) / 1024) * 2 ^ 32)] 0 o.ts o.lid 0 none

/-- The launches a PREEMPT names. -/
def preLids (l : List Dword) : List (BitVec 32) := (span 5 (fld (dwAt l 0) 15 8)).map (fun i => BitVec.ofNat 32 (fld (dwAt l i) 31 0))

/-- A launch can be pre-empted: it is active, and admitted on every die (R372). -/
def preAble (s : State) (lid : BitVec 32) : Bool := match launchOf s lid with | some l => l.todo.isEmpty | none => false

/-- What pre-emptive MSAVEs have saved of launches whose context found no space (R377). -/
def keptSaves (s : State) (lids : List (BitVec 32)) : List MSaved :=
  (s.ctxs.filter (fun c => !c.written)).flatMap (fun c => c.saves.filter (fun m => lids.contains m.lid))

/-- The unit takes a request: a PREEMPT fixes E two edges on; RESUME and DISCARD wait for the next edge. -/
def takeRequest (s : State) (l : List Dword) (o : Origin) : State :=
  let img := dwAt l 1
  let reply := dwAt l 3
  if s.pre.stage != 0 then preReply s reply img 1 0 o
  else
    let op := fld (dwAt l 0) 7 0
    let p : PreUnit := { stage := 4, op := op, lids := [], img := img, cap := dwAt l 2, reply := reply, o := o, e := 0, sEdge := 0, saves := [] }
    if op == 2 then
      if (preLids l).all (preAble s) then { s with pre := { p with stage := 1, lids := preLids l, e := s.roundNo + 2, saves := keptSaves s (preLids l) } }
      else preReply s reply img 2 0 o
    else { s with pre := p }

/-- PREEMPT_REQUEST (R372, R373). -/
def execPreemptRequest (n : Nat) (s : State) : Host.Outcome State Fault Refusal :=
  match takePacket s n with
  | some (p, t) =>
    match p.body with
    | .preempt l o => .next (takeRequest t l o)
    | _ => .next s
  | none => .next s

/-- Hold the launches of a context; one that was stopped before stays stopped (R377). -/
def stopLaunches (s : State) (lids : List (BitVec 32)) (h : Nat) : State :=
  { s with launches := s.launches.map (fun l =>
      if lids.contains (BitVec.ofNat 32 l.1) && l.2.held != 3 then (l.1, { l.2 with held := h }) else l) }

/-- Set what holds the launches of a context. -/
def holdLaunches (s : State) (lids : List (BitVec 32)) (h : Nat) : State :=
  { s with launches := s.launches.map (fun l => if lids.contains (BitVec.ofNat 32 l.1) then (l.1, { l.2 with held := h }) else l) }

/-- Edge E (R373): no run of the context starts any more. -/
def preEdgeE (s : State) : State :=
  if s.pre.stage == 1 && decide (s.pre.e ≤ s.roundNo) then stopLaunches { s with pre := { s.pre with stage := 2 } } s.pre.lids 1 else s

/-- A job of the context. -/
def ctxJob (s : State) (j : Job) : Bool := s.pre.lids.contains j.o.lid

/-- The clusters whose matrix engine holds commands, slots or row blocks of a launch. -/
def matrixHolds (s : State) (lid : BitVec 32) (c : Nat) : Bool :=
  let x := clus s c
  (queue s { eng := 0, idx := c }).jobs.any (fun j => j.o.lid == lid && !isBfWork { eng := 0, idx := c } j)
    || x.slotOwn.any (fun p => p.2 == lid && lid != 0) || x.blkOwn.any (fun p => p.2 == lid && lid != 0)

/-- A queue has come to rest for the context: of it only commands not issued, stopped streams and suspended jobs are left; of each launch one
stopped stream at most, which its image can name; and no suspended job of another launch stands in a matrix engine of the context. -/
def queueQuiet (s : State) (q : QueueId) : Bool :=
  let x := queue s q
  let mine := x.jobs.filter (ctxJob s)
  if q.eng == 0 then
    mine.all (fun j => !isBfWork q j && (!j.issued || partStream j || j.state == 5)) && x.edge.isNone
      && s.pre.lids.all (fun lid => decide (countIf (fun j => partStream j && j.o.lid == lid) mine ≤ 1))
      && !(s.pre.lids.any (fun lid => matrixHolds s lid q.idx) && x.jobs.any (fun j => j.state == 5 && !ctxJob s j))
  else if q.eng ≤ 2 then mine.all (fun j => j.fin.isNone && (q.eng != 2 || j.phase == 0)) && x.edge.isNone
  else mine.isEmpty

/-! ## The pre-emptive MSAVEs of a pre-emption (R207, R373) -/

/-- Logical rows that a launch's image holds: up to the end of its last block (log 27). -/
def heldRows (x : Cluster) (lid : BitVec 32) : Nat :=
  x.blkOwn.foldl (fun m p => if p.2 == lid then Nat.max m (512 * (p.1 + 1)) else m) 0

/-- A pending record of the context's matrix image: a suspended job keeps its STATE and CODE in dword 7 (log 27). -/
def pendingRecord (s : State) (j : Job) : List Byte :=
  if j.state == 5 then (recordBytes s j).take 56 ++ leBytes 8 (5 * 2 ^ 36 + j.code % 256 * 2 ^ 40) else recordBytes s j

/-- The accumulator image of a launch in a cluster with the commands it takes, as a pre-emptive MSAVE writes it (R205, R207). -/
def matrixImage (s : State) (lid : BitVec 32) (c : Nat) (js : List Job) : List Byte :=
  let x := clus s c
  let hw := Nat.min x.rows (heldRows x lid)
  let slots := slotsOf x lid
  let tile := tileOf x lid.toNat
  let prog := match js with | k :: _ => if partStream k then some k.prog else none | [] => none
  imageHeader tile hw slots js.length lid prog ++ rowsBytes x hw ++ tileBytes tile ++ slotsBytes x slots ++ js.flatMap (pendingRecord s)

/-- A poisoned word among what is saved of a launch: its number. -/
def savedBad (x : Cluster) (lid : BitVec 32) : Option Nat :=
  match x.opmBad.find? (fun w => (slotsOf x lid).contains (w / 1024)) with
  | some w => some w
  | none => x.accBad.find? (fun w => decide (w / 32 < heldRows x lid))

/-- One pre-emptive MSAVE: the launch's image is taken, and its commands, slots, blocks, tile and context leave the engine; poison in it is a
machine check of code 8 for the element that asked for the pre-emption (R370, R371; log 27). -/
def preSave (s : State) (lid : BitVec 32) (c : Nat) : State :=
  let q : QueueId := { eng := 0, idx := c }
  let x := clus s c
  let l := (queue s q).jobs.filter (fun k => k.o.lid == lid && !isBfWork q k)
  let js := l.filter partStream ++ l.filter (fun k => !partStream k)
  let m : MSaved := { cl := c, lid := lid, blocks := (x.blkOwn.filter (fun p => p.2 == lid)).map (·.1), image := matrixImage s lid c js }
  let s1 := match savedBad x lid with | some w => mcheck s (c / 64) 8 (dw (8 * w)) s.pre.o.el s.pre.o.ts s.pre.o.lid | none => s
  let t := { (freeSaved { s1 with curQ := q } lid js) with curQ := s.curQ }
  { t with pre := { t.pre with saves := t.pre.saves ++ [m] } }

/-- The launches of the context in identifier order. -/
def preOrder (s : State) : List (BitVec 32) := sortBy (fun a b => decide (a.toNat < b.toNat)) s.pre.lids

/-- The pre-emptive MSAVEs of every matrix engine that has come to rest (R373). -/
def preSaves (s : State) : State :=
  (span 0 256).foldl (fun t c =>
    if queueQuiet t { eng := 0, idx := c } then
      (preOrder t).foldl (fun u lid => if matrixHolds u lid c then preSave u lid c else u) t
    else t) s

/-- PREEMPT_STOP (R373): every run of the context is aborted, the engines stop, and matrix engines at rest are saved. -/
def execPreemptStop (s : State) : Host.Outcome State Fault Refusal :=
  if s.pre.stage == 2 then
    let lids := s.pre.lids
    let t := s.elems.foldl (fun t x => abortWhere (fun r => lids.contains r.ev.lid) .keep t x.1) s
    .next (preSaves (stopLaunches { t with pre := { t.pre with stage := 3, sEdge := t.roundNo } } lids 2))
  else .next s

/-! ## The capture edge (R373, R375, R376) -/

/-- At an edge, C has come: it is at least two edges after S, and every stop is complete. -/
def stopsDone (s : State) : Bool :=
  s.pre.stage == 3 && decide (s.pre.sEdge + 2 ≤ s.roundNo) && s.queues.all (fun q => queueQuiet s (qOfKey q.1))

/-- The unit stands at C. -/
def captureReady (s : State) : Bool := s.pre.stage == 5

/-- At a device round edge: matrix engines that have come to rest are saved, and the first edge that every stop precedes is C, where the
capture is the next act of all (R373). -/
def preStopEdge (s : State) : State :=
  if s.pre.stage == 3 then
    let t := preSaves s
    if stopsDone t then { t with pre := { t.pre with stage := 5 }, agenda := .event .preemptCapture :: t.agenda } else t
  else s

/-- An element of the context (R376): in a cluster that it occupies, or with an event, arm target or port word of it. -/
def coveredElem (s : State) (lids : List (BitVec 32)) (e : Nat) : Bool :=
  let x := elem s e
  elUsable s e &&
    (lids.any (fun lid => match launchOf s lid with | some l => (occupied s l.rcd).contains (clOf e) | none => false)
      || !(x.inq.filter (fun v => lids.contains v.lid)).isEmpty
      || x.fifo.any (fun f => f.2.any (fun w => lids.contains w.lid))
      || (clus s (clOf e)).sc.any (fun k => match k.2.arm with | some a => a.o.el == e && lids.contains (chanLid s e a.chan) | none => false))

/-- The sections of the matrix images of a cluster, as its pre-emptive MSAVEs have saved them. -/
def matrixSections (s : State) (c : Nat) : List (List Byte) :=
  (s.pre.saves.filter (fun m => m.cl == c)).map (fun m => ctxSection 3 (elAddr s (8 * c)) 1 m.image)

/-- PART of a KVGATHER. -/
def kgPart (j : Job) : Nat := nbits j.cmd.toNat 83 82

/-- Bursts or layers that a job has done (R376): of a CPYPG 16 a page; of a KVGATHER one a row, and then those of its mask. -/
def jobDone (q : QueueId) (j : Job) : Nat :=
  let opc := cmdOpc j.cmd
  if q.eng != 1 then j.prog
  else if opc == 0x24 then 16 * j.prog + j.phase
  else if opc == 0x27 then (if kgPart j == 2 then 2 else 1) * j.prog + (if j.phase ≤ 1 then j.phase else j.phase - 2)
  else if 6 ≤ j.data.length then j.prog / burstLen (shSize (jDst j))
  else j.prog

/-- A command record: the layout of R205 with dword 7 of R376. -/
def commandRecord (s : State) (q : QueueId) (j : Job) : List Byte :=
  let st := if j.state == 5 then 5 else 2
  (recordBytes s j).take 56 ++ leBytes 8 (jobDone q j % 2 ^ 32 + q.eng * 2 ^ 32 + st * 2 ^ 36 + (if st == 5 then j.code % 256 else 0) * 2 ^ 40)

/-- The copy and backfill jobs of the context. -/
def ctxJobs (s : State) : List (QueueId × Job) :=
  s.queues.flatMap (fun q =>
    let k := qOfKey q.1
    if k.eng == 1 || k.eng == 2 then (q.2.jobs.filter (ctxJob s)).map (fun j => (k, j)) else [])

/-- The sections of command records, one for each cluster that pushed some. -/
def commandSections (s : State) (c : Nat) : List (List Byte) :=
  let l := (ctxJobs s).filter (fun x => clOf x.2.o.el == c)
  if l.isEmpty then [] else [ctxSection 4 (elAddr s (8 * c)) l.length (l.flatMap (fun x => commandRecord s x.1 x.2))]

/-- All sections of the context. -/
def ctxSections (s : State) : List (List Byte) :=
  let lids := s.pre.lids
  let es := (span 0 elCount).filter (coveredElem s lids)
  let cs := span 0 256
  es.map (elemSection s lids) ++ cs.flatMap (counterSection s lids) ++ cs.flatMap (matrixSections s) ++ cs.flatMap (commandSections s)

/-- The header of the image (R376). -/
def ctxHeader (s : State) (size nsec : Nat) : List Byte :=
  let lids := s.pre.lids
  dwordsBytes ([dw (0x4B344358 + 2 ^ 32), dw lids.length, dw size, dw s.roundNo]
    ++ (span 0 8).map (fun i => match lids[i]? with | some lid => dw (lid.toNat + lidScope s lid * 2 ^ 32) | none => 0)
    ++ [dw nsec, 0, dw size] ++ List.replicate 17 (0 : Dword))

/-- The least timestamp of a launch's events in the machine, for its horizon reports while it is pre-empted (R375). -/
def leastHeld (s : State) (lid : BitVec 32) : Nat := leastOf topTs (pendingTs s lid)

/-- What the capture takes out of the machine: queued events, port words and command records of the context. -/
def removeCtx (s : State) : State :=
  let lids := s.pre.lids
  let s1 : State := { s with elems := s.elems.map (fun x =>
      (x.1, { x.2 with inq := x.2.inq.filter (fun v => !lids.contains v.lid),
                       fifo := x.2.fifo.map (fun f => (f.1, f.2.filter (fun w => !lids.contains w.lid))) })) }
  let s2 : State := { s1 with queues := s1.queues.map (fun q =>
      (q.1, if (qOfKey q.1).eng ≤ 2 then { q.2 with
              jobs := q.2.jobs.filter (fun j => !lids.contains j.o.lid),
              active := q.2.active.filter (fun jid => q.2.jobs.any (fun j => j.jid == jid && !lids.contains j.o.lid)) } else q.2)) }
  s2.clusters.foldl (fun t c => settleSlots t c.1) s2

/-- The context after C: an image, or, when it would pass its capacity, none. -/
def preContext (s : State) (written : Bool) (size : Nat) : Ctx :=
  { lids := s.pre.lids, img := s.pre.img, cap := s.pre.cap, reply := s.pre.reply, written := written, size := size,
    jobs := if written then ctxJobs s else [], saves := if written then s.pre.saves.map (fun m => { m with image := [] }) else s.pre.saves,
    least := s.pre.lids.map (fun lid => (lid.toNat, leastHeld s lid)), late := [], drops := 0 }

/-- The unit is free again. -/
def preIdle (s : State) : State := { s with pre := PreUnit.idle }

/-- C: the image is written and the context leaves the machine, or NOSPACE (R373, R376, R377). -/
def preCapture (s : State) : State :=
  let secs := ctxSections s
  let size := 256 + (secs.map (·.length)).sum
  let others := s.ctxs.filter (fun c => c.lids != s.pre.lids)
  let p := s.pre
  if p.cap.toNat < size then
    let t := holdLaunches { s with ctxs := others ++ [preContext s false size] } p.lids 3
    preIdle (preReply t p.reply p.img 3 size p.o)
  else
    let s1 := (physWrite s p.img.toNat (ctxHeader s size secs.length ++ secs.flatten) hwCodec).1
    let s2 := p.lids.foldl (fun t lid => releaseClusters (releaseReqs t lid) lid) (removeCtx s1)
    let t := holdLaunches { s2 with ctxs := others ++ [preContext s true size] } p.lids 3
    preIdle (preReply t p.reply p.img 0 size p.o)

/-- PREEMPT_CAPTURE (R373, R376). -/
def execPreemptCapture (s : State) : Host.Outcome State Fault Refusal :=
  if captureReady s then .next (preCapture s) else .next s

/-! ## RESUME (R379) -/

/-- A section of an image: whether its rsv bits are 0, kind, place, count, body. -/
structure Section where
  ok    : Bool
  kind  : Nat
  place : Nat
  count : Nat
  body  : List Byte
  deriving DecidableEq, Repr

/-- The rsv bits of a queued event are 0 (R376). -/
def eventRsvOk (d : List Dword) : Bool := fld (dwAt d 2) 63 46 == 0 && decide (fld (dwAt d 2) 45 44 ≤ 1) && fld (dwAt d 3) 63 32 == 0

/-- The rsv bits of a port's words are 0. -/
def portRsvOk (l : List Byte) : Bool :=
  let d := bytesDwords l
  decide ((dwAt d 0).toNat ≤ 16) && (span 0 16).all (fun i => fld (dwAt d (1 + 2 * i)) 63 32 == 0)

/-- The rsv bits of a counter's entry are 0. -/
def counterRsvOk (d : List Dword) : Bool :=
  fld (dwAt d 1) 63 25 == 0 && fld (dwAt d 1) 7 5 == 0 && fld (dwAt d 4) 63 33 == 0 && dwAt d 5 == 0

/-- The rsv bits of a command record are 0: of its command word, of dwords 4 and 6 (R205) and of dword 7, which names its engine (R376). -/
def recordRsvOk (l : List Byte) : Bool :=
  let d := bytesDwords l
  recordHeadOk (fld (dwAt d 7) 34 32) l && fld (dwAt d 7) 63 48 == 0 && !dbit (dwAt d 7) 35

/-- The rsv bits of a matrix image in a context image are 0: those of its header and of its pending records, whose dword 7 holds what a
suspended command needs (R205, R376; log 27). -/
def matrixRsvOk (body : List Byte) : Bool :=
  let h := bytesDwords (body.take 256)
  imageRsvOk h && (pieces 64 ((body.drop (recordsAt h)).take (64 * imageNp h))).all (fun r =>
    recordHeadOk 0 r && fld (dwAt (bytesDwords r) 7) 63 48 == 0 && fld (dwAt (bytesDwords r) 7) 35 0 == 0)

/-- The handler table of an element's section: 64 entries of the layout of R13. -/
def tableOf (body : List Byte) : List (Nat × ChEntry) :=
  ((span 0 64).zip (pieces 24 (body.take 1536))).map (fun p =>
    let d := bytesDwords p.2
    (p.1, ({ d0 := dwAt d 0, d1 := dwAt d 1, d2 := dwAt d 2 } : ChEntry)))

/-- The rsv bits of a section's body are 0 (R376). -/
def bodyRsvOk (kind count : Nat) (body : List Byte) : Bool :=
  match kind with
  | 1 => (tableOf body).all (fun p => chRsvOk p.2)
      && (span 0 4).all (fun i => portRsvOk ((body.drop (1536 + 264 * i)).take 264))
      && (pieces 288 ((body.drop 2592).take (288 * count))).all (fun b => eventRsvOk (bytesDwords b))
  | 2 => (pieces 48 (body.take (48 * count))).all (fun b => counterRsvOk (bytesDwords b))
  | 3 => matrixRsvOk body
  | 4 => (pieces 64 (body.take (64 * count))).all recordRsvOk
  | _ => false

/-- The rsv bits of a section's header are 0. -/
def secHeadOk (h : List Dword) : Bool :=
  fld (dwAt h 0) 63 8 == 0 && fld (dwAt h 1) 63 27 == 0 && fld (dwAt h 3) 63 32 == 0 && (h.drop 4).all (· == 0)

/-- The sections that bytes hold, n of them. -/
def sectionsOf : Nat → List Byte → List Section
  | 0, _ => []
  | n + 1, l =>
    let h := bytesDwords (l.take 64)
    let len := (dwAt h 2).toNat
    let kind := fld (dwAt h 0) 7 0
    let count := fld (dwAt h 3) 31 0
    let body := (l.drop 64).take len
    let pad := (l.drop (64 + len)).take (roundUp len 64 - len)
    { ok := secHeadOk h && bodyRsvOk kind count body && pad.all (· == 0), kind := kind, place := fld (dwAt h 1) 26 0, count := count, body := body }
      :: sectionsOf n (l.drop (64 + roundUp len 64))

/-- The header's rsv bits are 0. -/
def ctxHeadOk (d : List Dword) : Bool :=
  (dwAt d 0).toNat == 0x4B344358 + 2 ^ 32 && fld (dwAt d 1) 63 4 == 0 && decide (1 ≤ fld (dwAt d 1) 3 0 ∧ fld (dwAt d 1) 3 0 ≤ 8)
    && (span 4 8).all (fun i => fld (dwAt d i) 63 34 == 0) && fld (dwAt d 12) 63 32 == 0 && (d.drop 15).all (· == 0)

/-- The launches a header names. -/
def headLids (d : List Dword) : List (BitVec 32) := (span 4 (fld (dwAt d 1) 3 0)).map (fun i => BitVec.ofNat 32 (fld (dwAt d i) 31 0))

/-- The stopped context whose launches an image names, wherever the image lies now, when its bytes and the state agree (R379: otherwise
BADIMAGE). -/
def resumeCtx (s : State) (img : Dword) : Option (Ctx × List Section) :=
  match physRead s img.toNat 256 with
  | none => none
  | some hb =>
    let d := bytesDwords hb
    match s.ctxs.find? (fun c => c.written && c.lids == headLids d) with
    | none => none
    | some c =>
      if ctxHeadOk d && (dwAt d 2).toNat == c.size then
        match physRead s (img.toNat + 256) (c.size - 256) with
        | none => none
        | some l =>
          let secs := sectionsOf (fld (dwAt d 12) 31 0) l
          if secs.all (·.ok) then some (c, secs) else none
      else none

/-- The element of a section of this device. -/
def secElem (x : Section) : Nat := x.place % 2048

/-- A matrix image that the checks of R208 let in. -/
def imageFits (s : State) (x : Section) : Bool :=
  let h := bytesDwords (x.body.take 256)
  imageOk h && !restoreBlocked (clus s (clOf (secElem x))) (BitVec.ofNat 32 (fld (dwAt h 3) 31 0)) (fld (dwAt h 1) 13 0) (imageSlots h)

/-- Every section can be restored here (R379: otherwise NOFIT). -/
def sectionsFit (s : State) (l : List Section) : Bool :=
  l.all (fun x => if x.kind == 1 then elUsable s (secElem x) else clUsable s (clOf (secElem x)) && (x.kind != 3 || imageFits s x))

/-- A covered element holds a run or a queued event of a launch outside the context (R379: SHARED). -/
def sectionsShared (s : State) (lids : List (BitVec 32)) (l : List Section) : Bool :=
  (l.filter (fun x => x.kind == 1)).any (fun x =>
    let y := elem s (secElem x)
    y.inq.any (fun v => !lids.contains v.lid) || (unfinished y ++ y.fin).any (fun r => !lids.contains r.ev.lid))

/-- Events join the heads of their channels, in order, under new arrival numbers. -/
def headEvents (x : Elem) (l : List Ev) : Elem :=
  let n := x.seqNo
  { x with inq := (l.zip (span 0 l.length)).map (fun p => { p.1 with num := n + 1 + p.2 }) ++ x.inq, seqNo := n + l.length }

/-- The words of a port, from its 264 bytes, for a launch. -/
def wordsOf (lid : BitVec 32) (l : List Byte) : List PortWord :=
  ((pieces 16 ((l.drop 8).take 256)).take (leNat (l.take 8))).map (fun b =>
    { word := BitVec.ofNat 32 (leNat (b.take 8)), ts := dw (leNat (b.drop 8)), lid := lid })

/-- Restore an element from its section: handler table, FIFOs, local store, events. -/
def restoreElem (lid : BitVec 32) (x : Section) (e : Elem) : Elem :=
  let ports := (span 0 4).map (fun i => (i, wordsOf lid ((x.body.drop (1536 + 264 * i)).take 264)))
  let evs := (pieces 288 ((x.body.drop 2592).take (288 * x.count))).map eventOf
  let ls := x.body.drop (2592 + 288 * x.count)
  headEvents { e with chans := tableOf x.body, fifo := ports, ls := memWrite [] 0 (ls.take (lsSize e)), lsBad := [], lsTodo := [] } evs

/-- Restore a counter from its 48 bytes, for a launch and its channel table. -/
def restoreCounter (s : State) (lid : BitVec 32) (c : Nat) (b : List Byte) : State :=
  let d := bytesDwords b
  let d1 := dwAt d 1
  let n := fld d1 15 8
  let old := counter s c n
  let o (k : Nat) (p : Option Origin) : Origin := p.getD { Origin.none with el := 8 * c + k, lid := lid }
  lapse (modCounter s c n (fun _ =>
    { value := dwAt d 0, byte := dbit d1 0,
      arm := if dbit d1 1 then some { value := dwAt d 2, chan := fld d1 21 16, o := { o (fld d1 24 22) (old.arm.map (·.o)) with el := 8 * c + fld d1 24 22 } } else none,
      expect := if dbit d1 2 then some { value := dwAt d 3, chan := dwAt d 4, fired := dbit d1 3, ovr := dbit d1 4, o := o 0 (old.expect.map (·.o)) } else none })) c

/-- A record of a matrix image as a job: dword 7 restores a suspended one. -/
def suspendedRecord (l : List Byte) (j : Job) : Job :=
  let d7 := dwAt (bytesDwords l) 7
  if fld d7 39 36 == 5 then { j with state := 5, code := fld d7 47 40 } else j

/-- Write those of an image's rows that lie in given blocks, which clears their poison and makes them a launch's. -/
def restoreRows (lid : BitVec 32) (blocks : List Nat) (hw : Nat) (rows : List Byte) (x : Cluster) : Cluster :=
  let y := (((span 0 (64 * hw)).zip (pieces 4 rows)).filter (fun p => blocks.contains (p.1 / 64 / 512))).foldl
    (fun t p => setAccWord t (p.1 / 64) (p.1 % 64) (BitVec.ofNat 32 (leNat p.2))) x
  { y with accBad := y.accBad.filter (fun w => !blocks.contains (w / 32 / 512)),
           accTodo := y.accTodo.filter (fun w => !blocks.contains (w / 32 / 512)), blkOwn := blocks.foldl (fun t b => tput t b lid) y.blkOwn }

/-- Restore a matrix image, as MRESTORE does; of its rows those of the blocks that its launch owned, which several images of a cluster may
share between them (log 27). -/
def restoreMatrix (s : State) (saves : List MSaved) (x : Section) : State :=
  let h := bytesDwords (x.body.take 256)
  let hw := fld (dwAt h 1) 13 0
  let slots := imageSlots h
  let lid := BitVec.ofNat 32 (fld (dwAt h 3) 31 0)
  let c := clOf (secElem x)
  let blocks := (saves.filter (fun m => m.cl == c && m.lid == lid)).flatMap (·.blocks)
  let rows := (x.body.drop 256).take (256 * hw)
  let tile := (x.body.drop (256 + 256 * hw)).take 32768
  let sl := (x.body.drop (256 + 256 * hw + 32768)).take (slotBytes * slots.length)
  let rs := (x.body.drop (recordsAt h)).take (64 * imageNp h)
  let js := List.zipWith suspendedRecord (pieces 64 rs) (recordJobs s h rs)
  lapseFills (modQueue (modClus s c (fun y => restoreClus lid h 0 slots [] tile sl (restoreRows lid blocks hw rows y))) { eng := 0, idx := c }
    (fun q => { q with jobs := js ++ q.jobs })) c

/-- A command record as a job: what it had settled at issue is kept with the context (log 27). -/
def recordJob (s : State) (kept : List (QueueId × Job)) (l : List Byte) : QueueId × Job :=
  let d7 := dwAt (bytesDwords l) 7
  let j := jobOfRecord s l 0
  let q := queueOf j.o.el (fld d7 34 32)
  let k := match kept.find? (fun p => p.1 == q && p.2.jid == j.jid) with
    | some p => { p.2 with cmd := j.cmd, o := { j.o with chan := p.2.o.chan, mode := p.2.o.mode }, age := 0 }
    | none => { j with prog := fld d7 31 0 }
  let st := fld d7 39 36
  (q, { k with state := if st == 5 then 5 else if k.issued then 4 else 2, code := if st == 5 then fld d7 47 40 else 0 })

/-- Restore command records, at the heads of their queues in image order. -/
def restoreCommands (s : State) (kept : List (QueueId × Job)) (x : Section) : State :=
  (((pieces 64 (x.body.take (64 * x.count))).map (recordJob s kept)).reverse).foldl
    (fun t p => modQueue t p.1 (fun q => { q with jobs := p.2 :: q.jobs })) s

/-- Restore one section. -/
def restoreSection (c : Ctx) (s : State) (x : Section) : State :=
  let lid := c.lids.headD 0
  if x.kind == 1 then modElem s (secElem x) (restoreElem lid x)
  else if x.kind == 2 then (pieces 48 (x.body.take (48 * x.count))).foldl (fun t b => restoreCounter t lid (clOf (secElem x)) b) s
  else if x.kind == 3 then restoreMatrix s c.saves x
  else restoreCommands s c.jobs x

/-- The late list follows the restored events of its elements. -/
def restoreLate (s : State) (c : Ctx) : State := c.late.foldl (fun t p => enqueueEv t p.1 p.2) s

/-- An image that is poisoned or cannot be reached is a machine check of code 8 for the element that asked for its RESUME (R315, R370, R371;
log 27). -/
def imageLost (s : State) (img : Dword) : State :=
  let o := s.pre.o
  let lost (pa : Nat) : State := mcheck (countLost s 0 pa) (dieOfPa pa) 8 (dw pa) o.el o.ts o.lid
  match physRead s img.toNat 256 with
  | none => lost img.toNat
  | some hb =>
    match s.ctxs.find? (fun c => c.written && c.lids == headLids (bytesDwords hb)) with
    | none => s
    | some c =>
      if ctxHeadOk (bytesDwords hb) && (dwAt (bytesDwords hb) 2).toNat == c.size && (physRead s (img.toNat + 256) (c.size - 256)).isNone then
        lost (img.toNat + 256)
      else s

/-- RESUME at edge R (R379): the context is restored, the last section first, so that commands stand at the heads of their queues in image
order; it starts runs from edge R + 1 on; or the refusal. -/
def preResume (s : State) : State :=
  let p := s.pre
  match resumeCtx s p.img with
  | none => preIdle (preReply (imageLost s p.img) p.reply p.img 4 0 p.o)
  | some (c, l) =>
    if !sectionsFit s l then preIdle (preReply s p.reply p.img 5 0 p.o)
    else if sectionsShared s c.lids l then preIdle (preReply s p.reply p.img 6 0 p.o)
    else
      let s1 := restoreLate (l.reverse.foldl (restoreSection c) s) c
      let t := holdLaunches { s1 with ctxs := s1.ctxs.filter (fun d => d.lids != c.lids) } c.lids 5
      preIdle (preReply t p.reply p.img 0 c.size p.o)

/-- DISCARD at an edge (R380): the context's launches end, and what the machine still holds of them goes; without such a context
BADIMAGE (log 27). -/
def preDiscard (s : State) : State :=
  let p := s.pre
  match s.ctxs.find? (fun c => c.img == p.img) with
  | none => preIdle (preReply s p.reply p.img 4 0 p.o)
  | some c =>
    let s1 := removeCtx { s with pre := { p with lids := c.lids } }
    let s2 := c.lids.foldl endLaunch { s1 with ctxs := s1.ctxs.filter (fun d => d.lids != c.lids) }
    preIdle (preReply s2 p.reply p.img 0 0 p.o)

/-- The pre-emption unit at a device round edge: launches restored at the last edge start runs again, E or C is reached, RESUME and DISCARD
are served. -/
def preEdge (s : State) : State :=
  let s1 := { s with launches := s.launches.map (fun l => if l.2.held == 5 then (l.1, { l.2 with held := 0 }) else l) }
  let s2 := preStopEdge (preEdgeE s1)
  if s2.pre.stage == 4 then (if s2.pre.op == 3 then preResume s2 else preDiscard s2) else s2

end Sys2Proof.Machine
end

