-- ==== Sys2Proof/Machine/Edge.lean ====
section
/-! DEFINITION. Round edges (R283, R342) and system edges (R351 to R353): one step in which every unit of the package passes the edge
(log 4). -/

namespace Sys2Proof.Machine

/-! ## Markers (R342) -/

/-- ROUND_MARKER_INJECTION (R342): the markers of the next edge set out, once the edge before is passed. -/
def execRoundMarkerInjection (s : State) : Host.Outcome State Fault Refusal :=
  if s.roundGen == s.roundNo then .next { s with roundGen := s.roundGen + 1 } else .next s

/-- The n-th act in flight can be taken by its destination now. -/
def deliverable (s : State) (n : Nat) : Bool :=
  match takePacket s n with
  | some (p, _) => (match p.body with | .ev e v => roomFor s e v | _ => true)
  | none => false

/-- Every immediate atomic has been performed, or waits at its home for the edge (R122, R283, R286). -/
def iqSettled (s : State) : Bool := s.elems.all (fun x => x.2.iq.all (·.held))

/-- Everything released in an earlier round has arrived, but for what its destination cannot take (R283), immediate atomics among it. -/
def allArrived (s : State) : Bool := (span 0 s.net.length).all (fun n => !deliverable s n) && iqSettled s

/-! ## Acts of an edge (R283) -/

/-- A fold of the record that a job names is being served (R355). -/
def snapHeld (s : State) (j : Job) : Bool :=
  match translate s (xverOf s.curQ) j.o.asid (cmdD j.cmd 2).toNat j.o.mode .load with
  | .ok (t, _) => foldServing s t.pa
  | .error _ => false

/-- Snapshots (R268): RCSNAP jobs issued before the edge take LIVE as cut at it; one whose record is being served to a peer waits until the
serve ends, and for the edge after (R355). -/
def snapJobs (s : State) : State :=
  ([0, 1] : List Nat).foldl (fun t i =>
    let q : QueueId := { eng := 3, idx := i }
    ((queue t q).jobs.filter (fun j => cmdOpc j.cmd == 0x60 && j.issued && j.fin.isNone && j.state == 4)).foldl (fun u j =>
      let w : State := { u with curQ := q, curJ := j.jid, marks := [] }
      if snapHeld w j then u
      else
        match (rcSnapEdge (cmdD j.cmd 2).toNat (BitVec.ofNat 32 (fld (cmdD j.cmd 3) 31 0)) j) w with
        | .ok (k, v) => setJob v q k
        | .error e => jobStopped w j e) t) s

/-- The RL writes of group domains, in commit order (R279, R283). -/
def edgeRl (s : State) : State :=
  (activeLids s).foldl (fun t lid => commitParts { t with rl := tdel t.rl lid.toNat } (rlParts t lid)) s

/-- Management operations of other devices' objects that nothing has refused in time are over (R223, R283). -/
def edgeAway (s : State) : State :=
  { s with cfAway := s.cfAway.filter (fun a => match a.due with | some k => decide (s.roundNo < k) | none => true) }

/-- DEFER re-arming (R146). -/
def edgeDefer (s : State) : State :=
  { s with elems := s.elems.map (fun x => (x.1, { x.2 with inq := x.2.inq.map (fun v => { v with deferred := false }) })) }

/-- A slot that a port's loss settles: one whose missing inputs lie behind ports that are down forwards, and one that awaits the answer of a
parent whose port is down ends (R354). -/
def slotLost (s : State) (y : RSlot) : State :=
  if y.state == 0 && slotFull s (grp s y.g) y then groupForward s y false
  else if y.state == 1 && parentLost s (grp s y.g) then groupOrphan s y
  else s

/-- The combining node sees which fabric ports are up (R354). -/
def edgePorts (s : State) : State := { s with portEdge := (span 0 16).filter (portUp s) }

/-- Collective timeouts, slots freed, slots that a port's loss settles, and pulls and requests that have come to their end (R255, R259,
R354). -/
def edgeGroups (s : State) : State :=
  let s1 := s.rslots.foldl (fun t x => groupFreeOf (groupTimeoutOf t x.g x.q) x.g x.q) s
  let s2 := s1.rslots.foldl (fun t x =>
    match rslot t x.g x.q with
    | some y => slotLost t y
    | none => t) s1
  let s3 := s2.pulls.foldl (fun t p =>
    if pullExpired t p then pullDone { t with pulls := t.pulls.filter (· != p) } p 6 0 else t) s2
  serveAsks s3

/-- The temperature step of an island, and its divider (R389). -/
def thermalEdge (s : State) (n : Nat) : State :=
  let c := tget s.regs.islctl n 0x5F0000
  let tl := fld c 23 16
  let now := (Config.temperature s.tick n).toNat
  let old := (tget s.thermal n (0, 0)).1
  let t := if tl ≤ now then Nat.min 8 (old + 1) else if now + 5 ≤ tl then old - 1 else old
  { s with thermal := tput s.thermal n (t, Nat.max (fld c 3 0) t) }

/-- The islands of a die. -/
def islandsOf (d : Nat) : List Nat := if d < 4 then [3 * d, 3 * d + 1, 3 * d + 2] else if d == 4 then [12, 13] else [14, 15]

/-- TEMP and POWER of a die (R390). -/
def teleEdge (s : State) (d : Nat) : State :=
  let hot := (islandsOf d).foldl (fun m n => Nat.max m (Config.temperature s.tick n).toNat) 0
  modDie s d (fun x => { x with tele := tput (tput x.tele 0x28 (dw hot)) 0x30 (Config.power s.tick d) })

/-- Islands and telemetry at an edge. -/
def edgeThermal (s : State) : State := (span 0 6).foldl teleEdge ((span 0 16).foldl thermalEdge s)

/-- A management table entry takes its value (R387). -/
def putTable (r : Regs) (a : Nat) (v : Dword) : Regs :=
  if 0x10000 ≤ a then { r with route := tput r.route (a - 0x10000) (v.setWidth 8) }
  else if 0x3000 ≤ a then { r with sltab := tput r.sltab ((a - 0x3000) / 8) v }
  else { r with windows := tput r.windows ((a - 0x2000) / 8) v }

/-- Table entries written since the last edge (R387); the period in force (R26). -/
def edgeRegs (s : State) : State :=
  let r := s.regs.tabPend.foldl (fun r p => putTable r p.1 p.2) s.regs
  let slids := (s.regs.tabPend.filter (fun p => decide (0x3000 ≤ p.1 ∧ p.1 < 0x4000))).map
    (fun p => fld (tget s.regs.sltab (2 * ((p.1 - 0x3000) / 16)) 0) 31 0)
  { s with regs := { r with tabPend := [], rperiod := r.rpset }, slDone := s.slDone.filter (fun l => !slids.contains l) }

/-- A vector of the MSI-X table is masked (standard layout: vector control, bit 0 of the entry's last word). -/
def msixMasked (s : State) (v : Nat) : Bool := (memGet s.regs.msix (16 * v + 12)).toNat.testBit 0

/-- Signal the pending vectors that are not masked, once each (R359). -/
def msixSignal (s : State) : State :=
  (span 0 64).foldl (fun t v =>
    if dbit t.regs.msixPend v && !msixMasked t v then
      { t with regs := { t.regs with msixPend := t.regs.msixPend &&& ~~~(dw (2 ^ v)) }, out := t.out ++ [.msix v] }
    else t) s

/-! ## Spare rows (R314, R316; log 49)

A bank of SRAM has a number, and so has a row of 256 bytes in it. -/

/-- The bank of a word of an element's local store, of a cluster's scratchpad, operand memory (in 16 banks, PRESUMED, log 49), or
accumulator store; and the row. -/
def lsRow (e d : Nat) : Nat := (8 * e + d / 4096) * 2 ^ 16 + d / 32 % 128
/-- The scratchpad, by byte offset in the cluster's. -/
def spRow (c off : Nat) : Nat := (2 ^ 20 + 32 * c + off / 2 ^ 17) * 2 ^ 16 + off / 256 % 512
/-- Operand memory, by word. -/
def opmRow (c w : Nat) : Nat := (2 ^ 21 + 16 * c + w / 2 ^ 14) * 2 ^ 16 + w / 32 % 512
/-- The accumulator store, by word. -/
def accRow (c w : Nat) : Nat := (2 ^ 22 + c) * 2 ^ 16 + w / 32
/-- The bank of a row. -/
def bankOfRow (row : Nat) : Nat := row / 2 ^ 16

/-- The kind of a bank: 0 local store, 1 scratchpad, 2 operand memory, 3 accumulator store. -/
def bankKind (b : Nat) : Nat := if b < 2 ^ 20 then 0 else if b < 2 ^ 21 then 1 else if b < 2 ^ 22 then 2 else 3

/-- The spare rows of a bank (R316). -/
def spareRows (b : Nat) : Nat := match bankKind b with | 0 => 4 | 1 => 8 | 2 => 2 | _ => 128

/-- Remap a row to a free spare; a bank with none left stays in service, and is noted (R316). -/
def remapRow (s : State) (row : Nat) : State :=
  let b := bankOfRow row
  let t : State := { s with rowHits := tdel s.rowHits row }
  if tget s.spares b 0 < spareRows b then { t with spares := tput t.spares b (tget t.spares b 0 + 1) }
  else { t with spent := if t.spent.contains b then t.spent else b :: t.spent }

/-- A row has given a correctable error on one more read: the fourth remaps it (R316). -/
def rowHit (s : State) (row : Nat) : State :=
  let n := tget s.rowHits row 0
  if 4 ≤ n then s else if n == 3 then remapRow s row else { s with rowHits := tput s.rowHits row (n + 1) }

/-- The unit that a bank belongs to: the element, or the cluster. -/
def unitOfBank (b : Nat) : Nat :=
  match bankKind b with
  | 0 => b / 8
  | 1 => (b - 2 ^ 20) / 32
  | 2 => (b - 2 ^ 21) / 16
  | _ => b - 2 ^ 22

/-- The 32 words of a row, as its unit numbers them. -/
def rowWords (row : Nat) : List Nat :=
  let b := bankOfRow row
  let r := row % 2 ^ 16
  span (match bankKind b with
    | 0 => b % 8 * 4096 + 32 * r
    | 1 => spAddr ((b - 2 ^ 20) / 32) ((b - 2 ^ 20) % 32 * 2 ^ 17 + 256 * r) / 8
    | 2 => (b - 2 ^ 21) % 16 * 2 ^ 14 + 32 * r
    | _ => 32 * r) 32

/-- The words of rows with a poisoned one that have not been written since, in the unit of a row. -/
def rowTodo (s : State) (row : Nat) : List Nat :=
  let u := unitOfBank (bankOfRow row)
  match bankKind (bankOfRow row) with
  | 0 => (elem s u).lsTodo
  | 1 => s.memTodo
  | 2 => (clus s u).opmTodo
  | _ => (clus s u).accTodo

/-- A row holds a poisoned word, and is remapped once it is written whole, word by word or at once (R316; log 49). -/
def rowBad (s : State) (row : Nat) : State :=
  let u := unitOfBank (bankOfRow row)
  let add (l : List Nat) : List Nat := rowWords row ++ l.filter (fun w => !(rowWords row).contains w)
  let t : State := { s with rowHits := tput s.rowHits row 4 }
  match bankKind (bankOfRow row) with
  | 0 => modElem t u (fun x => { x with lsTodo := add x.lsTodo })
  | 1 => { t with memTodo := add t.memTodo }
  | 2 => modClus t u (fun x => { x with opmTodo := add x.opmTodo })
  | _ => modClus t u (fun x => { x with accTodo := add x.accTodo })

/-- Every word of the row has been written since. -/
def rowClean (s : State) (row : Nat) : Bool := (rowWords row).all (fun w => !(rowTodo s row).contains w)

/-- The poisoned rows that have been written whole since the last edge are remapped: the copy is one act against every access,
and only the count of spares shows it (R316; log 49). -/
def edgeRows (s : State) : State :=
  (s.rowHits.filter (fun p => p.2 == 4 && rowClean s p.1)).foldl (fun t p => remapRow t p.1) s

/-! ## Flits (R344) -/

/-- One bit through the CRC register of IEEE 802.3. -/
def crcBit (c b : Nat) : Nat := if (c + b) % 2 == 1 then Nat.xor (c / 2) 0xEDB88320 else c / 2

/-- The CRC register after the low n bits of a number, the least significant first. -/
def crcBits : Nat → Nat → Nat → Nat
  | 0, _, c => c
  | n + 1, w, c => crcBits n (w / 2) (crcBit c (w % 2))

/-- CRC-32 (IEEE 802.3) over the low 480 bits of a flit: the register starts with ones and is inverted at the end, bits go from the least
significant up (PRESUMED, the standard's own convention, log 28). -/
def flitCrc (w : Nat) : Nat := 2 ^ 32 - 1 - crcBits 480 (w % 2 ^ 480) (2 ^ 32 - 1)

/-- The CRC of a flit is right. -/
def flitOk (f : BitVec 512) : Bool := flitCrc f.toNat == f.toNat / 2 ^ 480

/-- VN, POS and DATA of a flit. -/
def flitVn (f : BitVec 512) : Nat := f.toNat / 2 ^ 466 % 4
/-- POS. -/
def flitPos (f : BitVec 512) : Nat := f.toNat / 2 ^ 464 % 4
/-- DATA. -/
def flitData (f : BitVec 512) : Nat := f.toNat % 2 ^ 448

/-- A flit with its CRC. -/
def mkFlit (seq vn pos data : Nat) : BitVec 512 :=
  let w := seq % 2 ^ 12 * 2 ^ 468 + vn % 4 * 2 ^ 466 + pos % 4 * 2 ^ 464 + data % 2 ^ 448
  BitVec.ofNat 512 (flitCrc w * 2 ^ 480 + w)

/-- The marker flit of system edge k on a port: VN 2, the system round number in DATA[63:0]. -/
def markerFlit (s : State) (p k : Nat) : BitVec 512 := mkFlit (Config.flitSeq s.tick p).toNat 2 0 (k % 2 ^ 64)

/-- The system edge that a flit marks, when it is a marker flit that came whole. -/
def markerOf (f : BitVec 512) : Option Nat := if flitOk f && flitVn f == 2 then some (flitData f % 2 ^ 64) else none

/-! ## System edges (R351 to R353) -/

/-- DIV. -/
def srDiv (s : State) : Nat := fld s.regs.srctl 15 12
/-- ROOT. -/
def srRoot (s : State) : Bool := dbit s.regs.srctl 0

/-- The up inputs of the system round cut. -/
def cutPorts (s : State) : List Nat := (span 0 16).filter (fun p => portUp s p && dbit (tget s.regs.fpctl p 0) 2)

/-- The device starts the next system edge at this package edge. -/
def sysStarts (s : State) : Bool :=
  if srRoot s then s.roundNo % 2 ^ srDiv s == 0
  else (cutPorts s).any (fun p => decide (s.sysStart < tget s.sysSeen p 0))

/-- Start a system edge: marker flits go out on every enabled port. -/
def startSys (s : State) : State :=
  if sysStarts s then
    let k := s.sysStart + 1
    { s with sysStart := k, out := s.out ++ ((span 0 16).filter (portUp s)).map (fun p => OutMsg.marker p (markerFlit s p k)) }
  else s

/-- The device passes its next system edge at this package edge. -/
def sysPasses (s : State) : Bool :=
  decide (s.regs.srno < s.sysStart) && (cutPorts s).all (fun p => decide (s.regs.srno < tget s.sysSeen p 0))

/-- The least timestamp of a domain's part here: what its image holds while it is pre-empted (R353, R375). -/
def partLeast (s : State) (lid : BitVec 32) : Nat :=
  match ctxOf s lid with
  | some c =>
    Nat.min (horizonNow s lid) (Nat.min (tget c.least lid.toNat topTs) (leastOf topTs ((c.late.filter (fun p => p.2.lid == lid)).map (fun p => p.2.ts.toNat))))
  | none => horizonNow s lid

/-- Report one entry at system edge j: to every other member, and here. A list of members that cannot be read is a machine check (R370). -/
def reportEntry (s : State) (slid n pa j : Nat) : State :=
  let lid := BitVec.ofNat 32 slid
  if !(launchOf s lid).isSome && !s.slDone.contains slid then s
  else
    let fs := domFinished s lid
    let l := dw (partLeast s lid)
    let list := slMembers s n pa
    let ms := list.getD []
    let part := sysPart s lid ms
    let me : HReport := { slid := lid, j := j, dev := s.regs.devnum.toNat, l := l, part := part }
    let recs := fs.map (fun r => ({ slid := lid, j := j, el := r.1, num := r.2.ev.num, lo := obLeast r.2 } : ObRec))
    let s0 := if list.isNone then lostRead s pa else s
    let s1 := { s0 with reports := s0.reports ++ [me], obHist := s0.obHist ++ recs }
    ms.foldl (fun t d => if d == t.regs.devnum.toNat then t else (sendFab t 0 d (.horizon lid j t.regs.devnum l part)).1) s1

/-- H and H_O from the reports of edge k − 2: without one of them both stay, and the loss is counted. -/
def horizonEntry (s : State) (slid n pa k : Nat) : State :=
  let lid := BitVec.ofNat 32 slid
  if k < 2 || !(launchOf s lid).isSome then s
  else
    let rs := cutReports s lid k
    match slMembers s n pa with
    | none => bumpTele s 4 0x18
    | some ms =>
      if cutWhole ms rs then
        let h := leastOf topTs (rs.map (fun r => r.l.toNat))
        let ho := leastOf topTs ((rs.filter (fun r => r.dev != s.regs.devnum.toNat)).map (fun r => r.part.lo.toNat))
        { s with hor := tput s.hor slid (dw h, dw ho, k - 2) }
      else bumpTele s 4 0x18

/-- Reports, outbox records and past edges older than the edge used last are dropped. -/
def trimReports (s : State) (k : Nat) : State :=
  { s with reports := s.reports.filter (fun r => decide (k ≤ r.j + 2)), sysHist := s.sysHist.filter (fun p => decide (k ≤ p.k + 2)),
           obHist := s.obHist.filter (fun r => decide (k ≤ r.j + 2) || r.j == (tget s.hor r.slid.toNat (0, 0, 0)).2.2) }

/-- What has waited behind the marker of a system edge that is passed is taken next, in the order in which it came (R352). -/
def releaseHeld (s : State) : State :=
  let now (h : HeldIn) : Bool := decide (h.edge ≤ s.regs.srno)
  { s with heldIn := s.heldIn.filter (fun h => !now h), agenda := (s.heldIn.filter now).map (fun h => .held h.arr) ++ s.agenda }

/-- The system edge (R352, R353): reports of this cut, H of edge k − 2, the commits it admits, and what was held for it. -/
def passSys (s : State) : State :=
  let k := s.regs.srno + 1
  let s1 := { s with regs := { s.regs with srno := k } }
  let es := (span 0 64).filterMap (slEntry s1)
  let s2 := es.foldl (fun t e => reportEntry t e.1 e.2.1 e.2.2 k) s1
  let s3 := es.foldl (fun t e => horizonEntry t e.1 e.2.1 e.2.2 k) s2
  releaseHeld (sysCommits k es (trimReports s3 k))

/-! ## ROUND_EDGE (R283) -/

/-- Whether the package edge is a system edge as well, and the state after it. -/
def sysEdge (s : State) : State × Bool :=
  let t := startSys s
  if sysPasses t then (passSys t, true) else (t, false)

/-- The acts of a package edge, in the order of R283, and the acts that other chapters hang on it. -/
def passEdge (s : State) : State :=
  let s1 := snapJobs (edgeAway { s with roundNo := s.roundNo + 1 })
  let s2 := edgeSerial 2 (edgeCommits 2 (edgeRl s1))
  let y := sysEdge s2
  let s3 := edgeGroups (edgePorts (cfEdge (edgeDefer (edgeQuants y.1))))
  let s4 := preEdge (launchEnds y.2 (rlHolders s) s3)
  edgeRows (msixSignal (edgeThermal (edgeRegs (mapperEdge s4))))

/-- ROUND_EDGE (R283): the markers have reached every unit, behind everything released before them. -/
def execRoundEdge (s : State) : Host.Outcome State Fault Refusal :=
  if s.roundGen == s.roundNo + 1 && allArrived s then .next (passEdge s) else .next s

/-- A port whose marker of the next system edge has come: what follows it is held until the edge is passed (R352). -/
def portHeld (s : State) (port : Nat) : Bool := decide (s.regs.srno < tget s.sysSeen port 0)

/-- What comes by a port reaches this device: the port is up, and the device serves more than attestation (R345, R383). -/
def portTakes (s : State) (port : Nat) : Bool := portUp s port && !s.regs.recovery

/-- What comes by a port now is taken: it reaches this device, and no marker holds it (R352). -/
def portOpen (s : State) (port : Nat) : Bool := portTakes s port && !portHeld s port

end Sys2Proof.Machine
end

