-- ==== Sys2Proof/Machine/Engine.lean ====
section
/-! DEFINITION. The ENGINE group (R156 to R161). -/

namespace Sys2Proof.Machine

/-! ## ENQ (R157) -/

/-- The checks of R80 on a command word for an engine: it decodes, it is one of that engine's, a user's completion channel is a program
channel, and a user's MSAVE is neither pre-emptive nor names a launch (R197). -/
def enqOk (cmd : BitVec 256) (eng : Nat) (user : Bool) : Bool :=
  (decodeCmd cmd).isSome && Decode.engineOf (cmdOpc cmd) == some eng && !(user && cmdDone cmd && decide (cmdDchan cmd < 8))
    && !(user && cmdOpc cmd == 0x07 && (cmd.toNat.testBit 80 || nbits cmd.toNat 191 160 != 0))

/-- Entries an engine queue holds. -/
def queueCap : Nat := 64

/-- Entries of a queue in use: commands and reservations, but for the entry that a matrix queue reserves for a BFILL (R337). -/
def queueUsed (q : QueueId) (x : EQueue) : Nat := countIf (fun j => !isBfWork q j) x.jobs + x.held.length

/-- The identifier the next reservation of a queue gets (R157). -/
def nextJid (k : Nat) (q : EQueue) : BitVec 32 := BitVec.ofNat 32 (k * 2 ^ 29 + q.seq % 2 ^ 29)

/-- Reserve the next entry of a queue for the running run. -/
def reserveJob (q : QueueId) (jid : BitVec 32) : M Unit := do
  modify (fun t => modQueue t q (fun x => { x with seq := (x.seq + 1) % 2 ^ 29, held := x.held ++ [jid] }))
  modE (fun x => { x with run := x.run.map (fun r => { r with jobs := r.jobs ++ [(q, jid)] }) })

/-- ENQ (R157): the four registers from a on, and the engine. -/
def enqOp (w : Dword) (d a : Reg) (eng : Nat) : M Unit := do
  let d0 ← readReg w a
  let d1 ← readReg w (a + 1)
  let d2 ← readReg w (a + 2)
  let d3 ← readReg w (a + 3)
  let cmd : BitVec 256 := d3 ++ d2 ++ d1 ++ d0
  let s ← get
  let x := curElem s
  let q := queueOf s.cur eng
  if !enqOk cmd eng (modeOf x == 0) then writeReg w d minus2
  else if obFull x || decide (queueCap ≤ queueUsed q (queue s q)) then writeReg w d minus1
  else do
    let jid := nextJid eng (queue s q)
    outbox (.push q jid cmd x.csr.tsnow (originOf s s.cur))
    reserveJob q jid
    writeReg w d (jid.setWidth 64)

/-- ENQ (R157). -/
def execEnq (d a : Reg) (eng : BitVec 5) (s : State) : Host.Outcome State Fault Refusal :=
  perform (enqOp (instrWord (.enq d a eng)) d a eng.toNat) s

/-! ## Jobs (R158, R159, R161) -/

/-- The queue that an identifier names, as an element sees it. -/
def queueOfJid (e : Nat) (w : Dword) : QueueId := queueOf e (fld w 31 29)

/-- JOBST (R158). -/
def execJobst (d a : Reg) (s : State) : Host.Outcome State Fault Refusal :=
  perform (do
    let w := instrWord (.jobst d a)
    let jid ← readReg w a
    let t ← get
    writeReg w d (statusOfW t (queueOfJid t.cur jid) jid)) s

/-- JOBARM (R159). -/
def execJobarm (a b : Reg) (s : State) : Host.Outcome State Fault Refusal :=
  perform (do
    let w := instrWord (.jobarm a b)
    let jid ← readReg w a
    let ch ← readReg w b
    let t ← get
    if fld ch 63 6 != 0 then trap cILLOP w
    else if chanPriv (curElem t) ch.toNat then trap cPRIV w
    else outbox (.jobarm jid ch.toNat (originOf t t.cur))) s

/-- The launch of a push in flight to a queue under a job identifier. -/
def pushLid (q : QueueId) (jid : BitVec 32) (b : Body) : Option (BitVec 32) :=
  match b with
  | .push q1 j1 _ _ o _ _ => if q1 == q && j1 == jid then some o.lid else none
  | _ => none

/-- The launch of a reserved entry: that of the run that holds it, or of the push that is on its way to it (R157, R287). -/
def heldLid (s : State) (q : QueueId) (jid : BitVec 32) : Option (BitVec 32) :=
  ((s.elems.flatMap (fun e => (runsOf e.2).filter (fun r => r.jobs.contains (q, jid)))).map (fun r => r.ev.lid)
    ++ s.net.filterMap (fun p => pushLid q jid p.body)).head?

/-- A task may settle a job: supervisor mode any job, user mode those of its own launch (R161). -/
def maySettle (s : State) (q : QueueId) (jid : BitVec 32) : Bool :=
  let x := curElem s
  modeOf x != 0 ||
    (match jobOf s q jid with
     | some j => j.o.lid == x.csr.lid
     | none => heldLid s q jid == some x.csr.lid)

/-- JOBRESUME and JOBCANCEL: 0 when the job is in one of the states lo to 5, −1 otherwise (R161). -/
def settleOp (w : Dword) (d a : Reg) (lo : Nat) (o : BitVec 32 → OutEntry) : M Unit := do
  let jw ← readReg w a
  let s ← get
  let q := queueOfJid s.cur jw
  let st := (statusOfW s q jw).toNat % 16
  if lo ≤ st ∧ st ≤ 5 ∧ maySettle s q (jw.setWidth 32) = true then do
    outbox (o (jw.setWidth 32))
    writeReg w d 0
  else writeReg w d minus1

/-- JOBRESUME (R161): accepts state 5. -/
def execJobresume (d a : Reg) (s : State) : Host.Outcome State Fault Refusal :=
  perform (settleOp (instrWord (.jobresume d a)) d a 5 .jobresume) s

/-- JOBCANCEL (R161): accepts states 1 to 5. -/
def execJobcancel (d a : Reg) (s : State) : Host.Outcome State Fault Refusal :=
  perform (settleOp (instrWord (.jobcancel d a)) d a 1 .jobcancel) s

/-! ## Operand slots (R160) -/

/-- The lowest start of a run of n free slots. -/
def freeSlots (x : Cluster) (n : Nat) : Option Nat :=
  (span 0 (257 - n)).find? (fun i => (span i n).all (fun j => (tfind x.slotOwn j).isNone))

/-- The slots a launch holds in a cluster. -/
def slotsHeld (x : Cluster) (lid : BitVec 32) : Nat := countIf (fun p => p.2 == lid) x.slotOwn

/-- The slot quota of a launch lets it hold n more (R160, R318); a launch that is not active holds none. -/
def quotaOk (s : State) (c : Nat) (lid : BitVec 32) (n : Nat) : Bool :=
  match launchOf s lid with
  | none => false
  | some l => recSlots l.rcd == 0 || decide (slotsHeld (clus s c) lid + n ≤ recSlots l.rcd)

/-- OSCLAIM (R160). -/
def execOsclaim (d a : Reg) (s : State) : Host.Outcome State Fault Refusal :=
  perform (do
    let w := instrWord (.osclaim d a)
    let v ← readReg w a
    let t ← get
    let lid := (curElem t).csr.lid
    let c := clOf t.cur
    if v == 0 || decide (256 < v.toNat) || lid == 0 then writeReg w d minus2
    else
      match freeSlots (clus t c) v.toNat with
      | none => writeReg w d minus1
      | some i =>
        if !quotaOk t c lid v.toNat then writeReg w d minus1
        else do
          let js := span i v.toNat
          modify (fun u => modClus u c (fun x => { x with slotOwn := js.foldl (fun o j => tput o j lid) x.slotOwn }))
          modE (fun x => { x with run := x.run.map (fun r => { r with claims := r.claims ++ js }) })
          writeReg w d (dw i)) s

/-- OSFREE (R160). -/
def execOsfree (a b : Reg) (s : State) : Host.Outcome State Fault Refusal :=
  perform (do
    let w := instrWord (.osfree a b)
    let first ← readReg w a
    let n ← readReg w b
    let t ← get
    outbox (.osfree first n (originOf t t.cur))) s

end Sys2Proof.Machine
end

