-- ==== Sys2Proof/Machine/Fabric.lean ====
section
/-! DEFINITION. What the nodes of the collectives and the reconcile engines take (R258, R259, R266, R355), packets on fabric ports (R347
to R350), and links (R317, R343 to R346, R361). -/

namespace Sys2Proof.Machine

/-! ## Announcements, pulls, cells, folds -/

/-- GRDY_ANNOUNCE (R258). -/
def execGrdyAnnounce (n : Nat) (s : State) : Host.Outcome State Fault Refusal :=
  match takePacket s n with
  | some (p, t) =>
    match p.body with
    | .grdy block o => .next (serveNode (announce t block o))
    | _ => .next s
  | none => .next s

/-- GPULL_REQUEST (R259). -/
def execGpullRequest (n : Nat) (s : State) : Host.Outcome State Fault Refusal :=
  match takePacket s n with
  | some (p, t) =>
    match p.body with
    | .gpull block o => .next (pullRequest t block o)
    | _ => .next s
  | none => .next s

/-- GPULL_TIMEOUT (R259, R354): the k-th pull ends MISSING. -/
def execGpullTimeout (k : Nat) (s : State) : Host.Outcome State Fault Refusal :=
  match s.pulls[k]? with
  | some p => if pullExpired s p then .next (pullDone { s with pulls := dropAt s.pulls k } p 6 0) else .next s
  | none => .next s

/-- One cell update at its home (R266): +1 or −1 to COUNT, the rest XORed. A cell that cannot be read is written as a partial write would
be: its bytes are discarded with the error event of R315, whose KIND says why. -/
def updateCell (s : State) (pa codec : Nat) (key dig chk : Dword) (del : Bool) (o : Origin) : State :=
  let old := match physRead s pa 16 with | some l => (cellsOf l).headD Cell.zero | none => Cell.zero
  if (physRead s pa 16).isNone then reportErrs s o [{ kind := lostKind s pa, pa := pa }]
  else
    let r := physWrite s pa (cellBytes (cellJoin old (cellItem key dig chk (if del then 0xFFFF else 1)))) codec
    reportErrs r.1 o r.2

/-- CELL_UPDATE (R266). -/
def execCellUpdate (n : Nat) (s : State) : Host.Outcome State Fault Refusal :=
  match takePacket s n with
  | some (p, t) =>
    match p.body with
    | .cell pa codec key dig chk del o => .next (updateCell t pa codec key dig chk del o)
    | _ => .next s
  | none => .next s

/-! ## FABRIC_FORWARD (R347, R348, R352) -/

/-- The error event of a message from elsewhere that is dropped here, to the element that sent it (R144, R348). -/
def bounce (s : State) (dest : BitVec 27) (chan : BitVec 6) (sender ts : Dword) (lid : BitVec 32) : State :=
  if sender == 0 then s
  else sendMsg s uHw (fld sender 26 0) 3 [1, dw (chan.toNat * 2 ^ 27 + dest.toNat), 0, 0] 0 ts lid 0 none

/-- A packet for a third device goes on by this device's own table, or is dropped here. -/
def forwardPkt (s : State) (port : Nat) (p : FabPkt) : State :=
  let r := sendFab s (port / 8) p.dev.toNat p.body
  if r.2 then r.1
  else
    match p.body with
    | .msg dest chan _ sender ts lid => bounce r.1 dest chan sender ts lid
    | _ => r.1

/-- The message is the last one that a CF operation at another device's bank sends: its handle, and the generation and contributor that the
operation named, or a read's completion (R221, R229). -/
def cfAnswers (s : State) (dest : BitVec 27) (chan : BitVec 6) (payload : List Dword) (a : CfAway) : Bool :=
  let d1 := dwAt payload 1
  dest.toNat == elAddr s a.o.el && chan.toNat == a.chan && dwAt payload 0 == a.h && fld d1 15 0 + fld d1 21 16 * 2 ^ 16 == a.key && fld d1 31 24 != 4

/-- A message from elsewhere ends the first CF operation that it answers (R274). -/
def cfReturn (s : State) (dest : BitVec 27) (chan : BitVec 6) (payload : List Dword) : State :=
  match s.cfAway.findIdx? (cfAnswers s dest chan payload) with
  | some k => { s with cfAway := dropAt s.cfAway k }
  | none => s

/-- A message of another device for an element of this one. -/
def fabMsg (s : State) (port : Nat) (dest : BitVec 27) (chan : BitVec 6) (payload : List Dword) (sender ts : Dword)
    (lid : BitVec 32) : State :=
  let e := dest.toNat % 2048
  let t := cfReturn s dest chan payload
  if elUsable s e then post t (uPort port) e (.ev e (msgEv chan.toNat payload sender ts lid 0))
  else bounce t dest chan sender ts lid

/-- A contribution of a child node. -/
def fabContrib (port : Nat) (value arr : Dword) (count : BitVec 32) (part nan : Bool) : Contrib :=
  { port := some port, o := Origin.none, value := value, arr := arr, count := count.toNat, part := part, nan := nan }

/-- A CF operation of another device's element. -/
def fabCf (op : Nat) (issuer : BitVec 27) (mode : BitVec 2) (block : List Dword) (terms : Option (List (BitVec 32)))
    (pages : List (Nat × Nat × Nat)) (ts : Dword) (lid : BitVec 32) : CfOp :=
  { sub := op, o := { el := elCount + issuer.toNat, chan := 0, mode := mode.toNat, ts := ts, lid := lid, asid := 0 },
    block := block, terms := terms, pages := pages }

/-- Another device's write at its home; that of a COMMIT aborts the runs of its domain that have read a line of it (R280, R350). -/
def remoteWrite (s : State) (pa : Nat) (l : List Byte) (lid : BitVec 32) : State × Bool :=
  let r := physWrite s pa l hwCodec
  (if lid == 0 then r.1 else conflict r.1 lid (linesOf ((span pa l.length).map (fun a => (a, 0, 0)))), r.2.isEmpty)

/-- A remote access at its home: the state after it and the answer, none for a refusal or data that cannot be had. -/
def remoteDo (s : State) (pa : Nat) (op : RemoteOp) : State × Option (List Byte) :=
  if !remoteOk s pa then (s, none)
  else
    match op with
    | .read n => (s, physRead s pa n)
    | .write l lid =>
      let r := remoteWrite s pa l lid
      (r.1, if r.2 then some [] else none)
    | .atomic aop _ v cmp =>
      let r := remoteAtomic s pa aop v cmp
      (r.1, r.2.map (fun old => leBytes 8 old.toNat))

/-- Another device's access is done at its home and answered; a quantum operation is held there, and answered when the home's next edge
has combined it (R121, R286, R350). -/
def remoteServe (s : State) (peer : Peer) (pa : Nat) (op : RemoteOp) : State :=
  let now : State := let r := remoteDo s pa op; answerPeer r.1 peer r.2
  match op with
  | .atomic aop .quant v cmp =>
    if remoteOk s pa then
      { s with quants := s.quants ++
          [{ el := 0, a := { pa := pa, va := 0, codec := hwCodec, aop := aop, v := v, cmp := cmp, use := .quant, d := 0, held := true },
             peer := some peer }] }
    else now
  | .atomic _ .spec _ _ => now
  | .atomic _ .unp _ _ => now
  | .atomic _ .comm _ _ => now
  | .atomic _ .nord _ _ => now
  | .read _ => now
  | .write _ _ => now

/-- A packet for this device, or one of the tree, which goes from node to node. What answers a request of this package has been waited for
at the request (log 1). -/
def takeFab (s : State) (port : Nat) (b : FabBody) : State :=
  match b with
  | .msg dest chan payload sender ts lid => fabMsg s port dest chan payload sender ts lid
  | .contrib g q v arr n part nan => post s (uPort port) uGroup (.group g.toNat q.toNat (fabContrib port v arr n part nan))
  | .result g q v arr n part nan => post s (uPort port) uGroup (.result g.toNat q.toNat (bnat part) v arr n.toNat nan)
  | .reply g q code => post s (uPort port) uGroup (.result g.toNat q.toNat code.toNat 0 0 0 false)
  | .chunkReq g q kind leaf c => takeAsk s port g.toNat q.toNat kind.toNat leaf.toNat c.toNat
  | .chunk g q comb leaf c l =>
    takeChunk s { port := port, g := g.toNat, q := q.toNat, leaf := leaf.toNat, c := c.toNat, comb := comb, data := l }
  | .chunkEnd g q kind leaf c miss =>
    takeEnd s { port := port, g := g.toNat, q := q.toNat, kind := kind.toNat, leaf := leaf.toNat, c := c.toNat, miss := miss }
  | .cfop op issuer mode block terms pages ts lid =>
    let o := fabCf op issuer mode block terms pages ts lid
    post s (uPort port) (bankUnit (cfHandle o)) (.cf o)
  | .write pa l lid => if remoteOk s pa then (remoteWrite s pa l lid).1 else s
  | .atomic pa aop use v cmp dev => remoteServe s { port := port, dev := dev } pa (.atomic aop use v cmp)
  | .marker f =>
    match markerOf f with
    | some k => { s with sysSeen := tput s.sysSeen port (Nat.max k (tget s.sysSeen port 0)) }
    | none => s
  | .answer _ => s
  | .folded _ _ => s
  | .fold _ _ _ _ _ => s
  | .horizon slid j dev l part => { s with reports := s.reports ++ [{ slid := slid, j := j, dev := dev.toNat, l := l, part := part }] }
  | .other _ => s

/-- What goes from node to node, whatever device it names: the parts of a collective, and markers. -/
def hopLocal : FabBody → Bool
  | .contrib _ _ _ _ _ _ _ => true
  | .result _ _ _ _ _ _ _ => true
  | .reply _ _ _ => true
  | .chunkReq _ _ _ _ _ => true
  | .chunk _ _ _ _ _ _ => true
  | .chunkEnd _ _ _ _ _ _ => true
  | .marker _ => true
  | _ => false

/-! ## Arrivals by a port (R352) -/

/-- The port that an arrival comes by. -/
def arrivalPort : Arrival → Nat
  | .fab port _ => port
  | .remote peer _ _ => peer.port
  | .horizon _ _ peer _ _ => peer.port
  | .fold _ peer _ _ _ _ => peer.port

/-- A marker, which no marker holds. -/
def isMarker : Arrival → Bool
  | .fab _ p => (match p.body with | .marker _ => true | _ => false)
  | _ => false

/-- An arrival is taken: a packet is this device's or goes on, a remote request is served, a report is kept, and a fold request enters the
store of an engine that has power, or waits at the port (R347, R350, R353, R355). -/
def takeArrival (s : State) : Arrival → State
  | .fab port p => if hopLocal p.body || p.dev == s.regs.devnum then takeFab s port p.body else forwardPkt s port p
  | .remote peer pa op => remoteServe s peer pa op
  | .horizon slid j peer l part =>
    { s with reports := s.reports ++ [{ slid := slid, j := j, dev := peer.dev.toNat, l := l, part := part }] }
  | .fold idie peer addr epoch b seeds =>
    if idie < 2 && idiePowered s idie then
      foldTake s idie
        { port := peer.port, dev := peer.dev, addr := addr.toNat, epoch := epoch.toNat, b := b.toNat, seeds := seeds, serve := none }
    else s

/-- What comes by a port that is up is taken at once, or held behind the port's marker until its edge is passed; a port that is down brings
nothing (R345, R352). -/
def comeIn (s : State) (a : Arrival) : State :=
  let p := arrivalPort a
  if portOpen s p || (isMarker a && portTakes s p) then takeArrival s a
  else if portTakes s p then { s with heldIn := s.heldIn ++ [{ edge := tget s.sysSeen p 0, arr := a }] }
  else s

/-- FABRIC_FORWARD (R347, R348). -/
def execFabricForward (port : Nat) (p : FabPkt) (s : State) : Host.Outcome State Fault Refusal := .next (comeIn s (.fab port p))

/-- REMOTE_REQUEST (R297, R350). -/
def execRemoteRequest (peer : Peer) (pa : Nat) (op : RemoteOp) (s : State) : Host.Outcome State Fault Refusal :=
  .next (comeIn s (.remote peer pa op))

/-- HORIZON_REPORT (R353). -/
def execHorizonReport (slid : BitVec 32) (j : Nat) (peer : Peer) (l : Dword) (part : SysPart) (s : State) : Host.Outcome State Fault Refusal :=
  .next (comeIn s (.horizon slid j peer l part))

/-- FOLD_REQUEST (R355). -/
def execFoldRequest (idie : Nat) (peer : Peer) (rec' : Dword) (epoch : BitVec 32) (b : BitVec 5) (seeds : List Dword) (s : State) :
    Host.Outcome State Fault Refusal := .next (comeIn s (.fold idie peer rec' epoch b seeds))

/-! ## Links (R317, R345, R346, R361) -/

/-- Replace a port's FPCTL. -/
def setFpctl (s : State) (p : Nat) (v : Dword) : State := { s with regs := { s.regs with fpctl := tput s.regs.fpctl p v } }

/-- RETRAIN, one higher, saturating. -/
def fpRetrain (v : Dword) : Dword := if fld v 23 16 == 255 then v else v + 0x10000

/-- The first address that a link carries; a fabric port's number (log 28). -/
def linkAddr : LinkId → Dword
  | .mem n => dw (4096 * n)
  | .cxl n => dw (2 ^ 48 + n * 2 ^ 45)
  | .fab n => dw n

/-- The I-die a link lies on (R295, R343; log 12). -/
def linkDie : LinkId → Nat
  | .mem n => if n < 24 then 4 else 5
  | .cxl n => if n < 4 then 4 else 5
  | .fab n => if n < 8 then 4 else 5

/-- A link's number among all of the package. -/
def linkKey : LinkId → Nat
  | .mem n => n
  | .cxl n => 64 + n
  | .fab n => 128 + n

/-- The link is there and is up. -/
def linkAlive (s : State) : LinkId → Bool
  | .mem n => decide (n < 48) && !s.nearDown.contains n
  | .cxl n => decide (n < 8) && tget s.farCap n 0 != 0 && !s.farDown.contains n
  | .fab n => portUp s n

/-- A link goes down: its addresses cannot be reached, and the log holds a record of code 10 (R317, R345, R371). -/
def linkDown (s : State) (l : LinkId) : State :=
  let s1 :=
    match l with
    | .mem n => { s with nearDown := if s.nearDown.contains n then s.nearDown else n :: s.nearDown }
    | .cxl n => { s with farDown := if s.farDown.contains n then s.farDown else n :: s.farDown }
    | .fab n => { setFpctl s n (tget s.regs.fpctl n 0 &&& ~~~(0x300 : Dword)) with
                    fabDown := if s.fabDown.contains n then s.fabDown else n :: s.fabDown }
  (mcRecord s1 (linkDie l) 10 (linkAddr l) 0).1

/-- Replace what is known of a link's replay. -/
def setLink (s : State) (l : LinkId) (x : Link) : State := { s with links := tput s.links (linkKey l) x }

/-- What is known of a link's replay when a flit of a sequence number fails: nothing, where another flit has got through since. -/
def replayOf (s : State) (l : LinkId) (seq : Nat) : Link :=
  let x := tget s.links (linkKey l) { seq := seq, fails := 0, again := false }
  if x.seq == seq then x else { seq := seq, fails := 0, again := false }

/-- The link retrains, which a fabric port counts (R346). -/
def retrain (s : State) (l : LinkId) (seq : Nat) : State :=
  let s1 :=
    match l with
    | .fab n => setFpctl s n (fpRetrain (tget s.regs.fpctl n 0))
    | .mem _ => s
    | .cxl _ => s
  setLink s1 l { seq := seq, fails := 0, again := true }

/-- A flit of a link has failed its CRC (R317, R345): it is resent up to 7 times; then the link retrains once; and when it fails again it
is down (after as many resends, DEDUCED, log 28). -/
def crcFailed (s : State) (l : LinkId) (seq : Nat) : State :=
  let x := replayOf s l seq
  if x.fails < 7 then setLink s l { x with fails := x.fails + 1 }
  else if !x.again then retrain s l seq
  else { linkDown s l with links := tdel s.links (linkKey l) }

/-- FLIT_CRC_FAILURE (R317, R344, R345): the CRC over bits [479:0] of the flit differs from the one it carries. -/
def execFlitCrcFailure (l : LinkId) (flit : SeenFlit) (s : State) : Host.Outcome State Fault Refusal :=
  if linkAlive s l && !flitOk flit.bits then .next (crcFailed s l flit.seq.toNat) else .next s

/-- Management software orders the reset of a memory link or a CXL port, which brings it back unless its island is off (R317, R361, R389;
a fabric port's reset is the write of its FPCTL, R345). -/
def linkReset (s : State) (l : LinkId) : State :=
  if s.regs.recovery then s
  else
    let t : State := { s with links := tdel s.links (linkKey l) }
    match l with
    | .mem n => if decide (24 ≤ n) && dbit (tget s.regs.islctl 14 0) 8 then s else { t with nearDown := s.nearDown.filter (· != n) }
    | .cxl n => if decide (4 ≤ n) && dbit (tget s.regs.islctl 14 0) 8 then s else { t with farDown := s.farDown.filter (· != n) }
    | .fab _ => s

/-- CXL_DEVICE_REMOVAL (R361): a device removed while its port is enabled. -/
def execCxlDeviceRemoval (port : Nat) (s : State) : Host.Outcome State Fault Refusal :=
  if tget s.farCap port 0 == 0 || s.farDown.contains port then .next s else .next (linkDown s (.cxl port))

/-- A fabric port whose island is unpowered: island 14 holds those of I-die 1 (R343, R388, R389). -/
def portOff (s : State) (port : Nat) : Bool := decide (8 ≤ port) && dbit (tget s.regs.islctl 14 0) 8

/-- An enabled port that is not down and has power trains; the rate is what MAXRATE and the neighbour allow (R343, R346). -/
def trainPort (s : State) (port : Nat) : State :=
  let v := tget s.regs.fpctl port 0
  if port < 16 && dbit v 0 && !dbit v 8 && !s.fabDown.contains port && !portOff s port then
    setFpctl s port (v ||| 0x100 ||| (if dbit v 1 || Config.peerSlow s.tick port then 0x200 else 0))
  else s

/-- LINK_UP (R343, R346). -/
def execLinkUp (port : Nat) (s : State) : Host.Outcome State Fault Refusal := .next (trainPort s port)

end Sys2Proof.Machine
end

