-- ==== Sys2Proof/Machine/Fpu.lean ====
section
/-! DEFINITION. The FPU group (R113 to R116). -/

namespace Sys2Proof.Machine

/-- A comparison: w[d] := 1 or 0, with its flags (R114). -/
def fcmp (w : Dword) (d a b : Reg) (f : Fmt) (op : Nat → Nat → Bool × Nat) : M Unit :=
  fop2 w d a b f (fun _ x y => (bnat (op x y).1, (op x y).2))

/-- FADD (R114): round(a + b). -/
def execFadd (d a b : Reg) (f : FpFmt) (s : State) : Host.Outcome State Fault Refusal :=
  perform (fop2 (instrWord (.fadd d a b f)) d a b (fpFmt f) (fun rm x y => fpAdd (fpFmt f) rm x y)) s

/-- FSUB (R114): round(a - b). -/
def execFsub (d a b : Reg) (f : FpFmt) (s : State) : Host.Outcome State Fault Refusal :=
  perform (fop2 (instrWord (.fsub d a b f)) d a b (fpFmt f) (fun rm x y => fpSub (fpFmt f) rm x y)) s

/-- FMUL (R114): round(a × b). -/
def execFmul (d a b : Reg) (f : FpFmt) (s : State) : Host.Outcome State Fault Refusal :=
  perform (fop2 (instrWord (.fmul d a b f)) d a b (fpFmt f) (fun rm x y => fpMul (fpFmt f) rm x y)) s

/-- FDIV (R114): round(a / b). -/
def execFdiv (d a b : Reg) (f : FpFmt) (s : State) : Host.Outcome State Fault Refusal :=
  perform (fop2 (instrWord (.fdiv d a b f)) d a b (fpFmt f) (fun rm x y => fpDiv (fpFmt f) rm x y)) s

/-- FMIN (R114): minimum by R97. -/
def execFmin (d a b : Reg) (f : FpFmt) (s : State) : Host.Outcome State Fault Refusal :=
  perform (fop2 (instrWord (.fmin d a b f)) d a b (fpFmt f) (fun _ x y => fpMin (fpFmt f) x y)) s

/-- FMAX (R114): maximum by R97. -/
def execFmax (d a b : Reg) (f : FpFmt) (s : State) : Host.Outcome State Fault Refusal :=
  perform (fop2 (instrWord (.fmax d a b f)) d a b (fpFmt f) (fun _ x y => fpMax (fpFmt f) x y)) s

/-- FCMPEQ (R114): 1 if a == b; NV only for a signalling NaN. -/
def execFcmpeq (d a b : Reg) (f : FpFmt) (s : State) : Host.Outcome State Fault Refusal :=
  perform (fcmp (instrWord (.fcmpeq d a b f)) d a b (fpFmt f) (fpEq (fpFmt f))) s

/-- FCMPLT (R114): 1 if a < b; NV for any NaN. -/
def execFcmplt (d a b : Reg) (f : FpFmt) (s : State) : Host.Outcome State Fault Refusal :=
  perform (fcmp (instrWord (.fcmplt d a b f)) d a b (fpFmt f) (fpLt (fpFmt f))) s

/-- FCMPLE (R114): 1 if a ≤ b; NV for any NaN. -/
def execFcmple (d a b : Reg) (f : FpFmt) (s : State) : Host.Outcome State Fault Refusal :=
  perform (fcmp (instrWord (.fcmple d a b f)) d a b (fpFmt f) (fpLe (fpFmt f))) s

/-- The fused multiply-add: w[d] := round(a × b + d), d read after a and b (R114). -/
def ffmaOp (w : Dword) (d a b : Reg) (f : Fmt) : M Unit := do
  let x ← readReg w a
  let y ← readReg w b
  let z ← readReg w d
  let rm ← roundMode
  let r := fpFma f rm (fpSrc f x) (fpSrc f y) (fpSrc f z)
  writeReg w d (dw r.1)
  raise r.2

/-- FFMA (R114): round(a × b + d), one rounding; NaN order d, a, b. -/
def execFfma (d a b : Reg) (f : FpFmt) (s : State) : Host.Outcome State Fault Refusal :=
  perform (ffmaOp (instrWord (.ffma d a b f)) d a b (fpFmt f)) s

/-- FSQRT (R114): round(√a). -/
def execFsqrt (d a : Reg) (f : FpFmt) (s : State) : Host.Outcome State Fault Refusal :=
  perform (fop1 (instrWord (.fsqrt d a f)) d a (fpFmt f) (fun rm x => fpSqrt (fpFmt f) rm x)) s

/-- FCLASS (R114, R115): the class mask of a; no flags. -/
def execFclass (d a : Reg) (f : FpFmt) (s : State) : Host.Outcome State Fault Refusal :=
  perform (op1 (instrWord (.fclass d a f)) d a (fun x => dw (fpClass (fpFmt f) (fpSrc (fpFmt f) x)))) s

/-- FNEG (R114): a with its sign bit inverted; no flags. -/
def execFneg (d a : Reg) (f : FpFmt) (s : State) : Host.Outcome State Fault Refusal :=
  perform (op1 (instrWord (.fneg d a f)) d a (fun x => dw (fpFlip (fpFmt f) (fpSrc (fpFmt f) x)))) s

/-- FABS (R114): a with its sign bit cleared; no flags. -/
def execFabs (d a : Reg) (f : FpFmt) (s : State) : Host.Outcome State Fault Refusal :=
  perform (op1 (instrWord (.fabs d a f)) d a (fun x => dw (fpAbsBits (fpFmt f) (fpSrc (fpFmt f) x)))) s

/-- The conversion of R116. -/
def fcvtOp (w : Dword) (d a : Reg) (src dst : Fmt) (sat : Bool) : M Unit := do
  let x ← readReg w a
  let rm ← roundMode
  let r := fpConvert src dst rm sat (fpSrc src x)
  writeReg w d (cvtResult dst r.1)
  raise r.2

/-- FCVT (R116). -/
def execFcvt (d a : Reg) (src : CvtSrc) (dst : Fmt) (sat : Bool) (s : State) : Host.Outcome State Fault Refusal :=
  perform (fcvtOp (instrWord (.fcvt d a src dst sat)) d a (cvtFmt src) dst sat) s

end Sys2Proof.Machine
end

