-- ==== Sys2Proof/Machine/Int.lean ====
section
/-! DEFINITION. The INT group (R109 to R111) and the immediate group (R112). -/

namespace Sys2Proof.Machine

/-- Bits 127 to 64 of a product. -/
def mulHigh (a b : Int) : Dword := BitVec.ofInt 64 (a * b / (2 ^ 64 : Nat))

/-- The quotient of R110: all ones for a divisor of 0; the most negative number over -1 gives itself; otherwise truncated
toward zero. -/
def divQ (signed : Bool) (a b : Dword) : Dword :=
  if b == 0 then BitVec.allOnes 64
  else if signed then (if a == 0x8000000000000000 && b == BitVec.allOnes 64 then a else BitVec.ofInt 64 (a.toInt.tdiv b.toInt))
  else dw (a.toNat / b.toNat)

/-- The remainder of R110: a for a divisor of 0; it has the sign of the dividend. -/
def divR (signed : Bool) (a b : Dword) : Dword :=
  if b == 0 then a
  else if signed then (if a == 0x8000000000000000 && b == BitVec.allOnes 64 then 0 else a - divQ true a b * b)
  else dw (a.toNat % b.toNat)

/-- The number of leading zero bits. -/
def clz64 (a : Dword) : Nat := 64 - bitLen a.toNat

/-- The number of trailing zero bits of the n bits from i on. -/
def ctzFrom (v : Nat) (i : Nat) : Nat → Nat
  | 0 => i
  | n + 1 => if v.testBit i then i else ctzFrom v (i + 1) n

/-- The number of trailing zero bits. -/
def ctz64 (a : Dword) : Nat := ctzFrom a.toNat 0 64

/-- SEXT(a[n:0]). -/
def sextBits (a : Dword) (n : Nat) : Dword := (a <<< (63 - n % 64)).sshiftRight (63 - n % 64)

/-- ZEXT(a[n:0]). -/
def zextBits (a : Dword) (n : Nat) : Dword := dw (a.toNat % 2 ^ (n + 1))

/-- ADD (R109): w[d] := a + b mod 2^64. -/
def execAdd (d a b : Reg) (s : State) : Host.Outcome State Fault Refusal :=
  perform (op2 (instrWord (.add d a b)) d a b (fun x y => x + y)) s

/-- SUB (R109): w[d] := a - b mod 2^64. -/
def execSub (d a b : Reg) (s : State) : Host.Outcome State Fault Refusal :=
  perform (op2 (instrWord (.sub d a b)) d a b (fun x y => x - y)) s

/-- AND (R109): w[d] := a & b. -/
def execAnd (d a b : Reg) (s : State) : Host.Outcome State Fault Refusal :=
  perform (op2 (instrWord (.and d a b)) d a b (fun x y => x &&& y)) s

/-- OR (R109): w[d] := a | b. -/
def execOr (d a b : Reg) (s : State) : Host.Outcome State Fault Refusal :=
  perform (op2 (instrWord (.or d a b)) d a b (fun x y => x ||| y)) s

/-- XOR (R109): w[d] := a ^ b. -/
def execXor (d a b : Reg) (s : State) : Host.Outcome State Fault Refusal :=
  perform (op2 (instrWord (.xor d a b)) d a b (fun x y => x ^^^ y)) s

/-- ANDN (R109): w[d] := a & ~b. -/
def execAndn (d a b : Reg) (s : State) : Host.Outcome State Fault Refusal :=
  perform (op2 (instrWord (.andn d a b)) d a b (fun x y => x &&& ~~~y)) s

/-- SLL (R109): w[d] := a << b[5:0]. -/
def execSll (d a b : Reg) (s : State) : Host.Outcome State Fault Refusal :=
  perform (op2 (instrWord (.sll d a b)) d a b (fun x y => x <<< (y.toNat % 64))) s

/-- SRL (R109): w[d] := a >> b[5:0], logical. -/
def execSrl (d a b : Reg) (s : State) : Host.Outcome State Fault Refusal :=
  perform (op2 (instrWord (.srl d a b)) d a b (fun x y => x >>> (y.toNat % 64))) s

/-- SRA (R109): w[d] := a >> b[5:0], arithmetic. -/
def execSra (d a b : Reg) (s : State) : Host.Outcome State Fault Refusal :=
  perform (op2 (instrWord (.sra d a b)) d a b (fun x y => x.sshiftRight (y.toNat % 64))) s

/-- SLT (R109): 1 if s(a) < s(b). -/
def execSlt (d a b : Reg) (s : State) : Host.Outcome State Fault Refusal :=
  perform (op2 (instrWord (.slt d a b)) d a b (fun x y => boolW (x.slt y))) s

/-- SLTU (R109): 1 if u(a) < u(b). -/
def execSltu (d a b : Reg) (s : State) : Host.Outcome State Fault Refusal :=
  perform (op2 (instrWord (.sltu d a b)) d a b (fun x y => boolW (x.ult y))) s

/-- MIN (R109): the lesser, signed. -/
def execMin (d a b : Reg) (s : State) : Host.Outcome State Fault Refusal :=
  perform (op2 (instrWord (.min d a b)) d a b (fun x y => if x.slt y then x else y)) s

/-- MAX (R109): the greater, signed. -/
def execMax (d a b : Reg) (s : State) : Host.Outcome State Fault Refusal :=
  perform (op2 (instrWord (.max d a b)) d a b (fun x y => if x.slt y then y else x)) s

/-- MINU (R109): the lesser, unsigned. -/
def execMinu (d a b : Reg) (s : State) : Host.Outcome State Fault Refusal :=
  perform (op2 (instrWord (.minu d a b)) d a b (fun x y => if x.ult y then x else y)) s

/-- MAXU (R109): the greater, unsigned. -/
def execMaxu (d a b : Reg) (s : State) : Host.Outcome State Fault Refusal :=
  perform (op2 (instrWord (.maxu d a b)) d a b (fun x y => if x.ult y then y else x)) s

/-- MUL (R109): (a × b)[63:0]. -/
def execMul (d a b : Reg) (s : State) : Host.Outcome State Fault Refusal :=
  perform (op2 (instrWord (.mul d a b)) d a b (fun x y => x * y)) s

/-- MULH (R109): (s(a) × s(b))[127:64]. -/
def execMulh (d a b : Reg) (s : State) : Host.Outcome State Fault Refusal :=
  perform (op2 (instrWord (.mulh d a b)) d a b (fun x y => mulHigh x.toInt y.toInt)) s

/-- MULHU (R109): (u(a) × u(b))[127:64]. -/
def execMulhu (d a b : Reg) (s : State) : Host.Outcome State Fault Refusal :=
  perform (op2 (instrWord (.mulhu d a b)) d a b (fun x y => mulHigh x.toNat y.toNat)) s

/-- DIV (R109): signed quotient by R110. -/
def execDiv (d a b : Reg) (s : State) : Host.Outcome State Fault Refusal :=
  perform (op2 (instrWord (.div d a b)) d a b (fun x y => divQ true x y)) s

/-- DIVU (R109): unsigned quotient by R110. -/
def execDivu (d a b : Reg) (s : State) : Host.Outcome State Fault Refusal :=
  perform (op2 (instrWord (.divu d a b)) d a b (fun x y => divQ false x y)) s

/-- REM (R109): signed remainder by R110. -/
def execRem (d a b : Reg) (s : State) : Host.Outcome State Fault Refusal :=
  perform (op2 (instrWord (.rem d a b)) d a b (fun x y => divR true x y)) s

/-- REMU (R109): unsigned remainder by R110. -/
def execRemu (d a b : Reg) (s : State) : Host.Outcome State Fault Refusal :=
  perform (op2 (instrWord (.remu d a b)) d a b (fun x y => divR false x y)) s

/-- CLZ (R109): leading zero bits of a. -/
def execClz (d a : Reg) (s : State) : Host.Outcome State Fault Refusal :=
  perform (op1 (instrWord (.clz d a)) d a (fun x => dw (clz64 x))) s

/-- CTZ (R109): trailing zero bits of a. -/
def execCtz (d a : Reg) (s : State) : Host.Outcome State Fault Refusal :=
  perform (op1 (instrWord (.ctz d a)) d a (fun x => dw (ctz64 x))) s

/-- POPC (R109): one bits of a. -/
def execPopc (d a : Reg) (s : State) : Host.Outcome State Fault Refusal :=
  perform (op1 (instrWord (.popc d a)) d a (fun x => dw (popCount x.toNat 64))) s

/-- LEA (R109): w[d] := a + (b << sh). -/
def execLea (d a b : Reg) (sh : BitVec 5) (s : State) : Host.Outcome State Fault Refusal :=
  perform (op2 (instrWord (.lea d a b sh)) d a b (fun x y => x + (y <<< sh.toNat))) s

/-- CMOVZ (R109, R111): w[d] := a if b is 0. -/
def execCmovz (d a b : Reg) (s : State) : Host.Outcome State Fault Refusal :=
  perform (opIf (instrWord (.cmovz d a b)) d a b (fun y => y == 0)) s

/-- CMOVNZ (R109, R111): w[d] := a if b is not 0. -/
def execCmovnz (d a b : Reg) (s : State) : Host.Outcome State Fault Refusal :=
  perform (opIf (instrWord (.cmovnz d a b)) d a b (fun y => y != 0)) s

/-- EXTS (R109): SEXT(a[sh:0]). -/
def execExts (d a : Reg) (sh : BitVec 5) (s : State) : Host.Outcome State Fault Refusal :=
  perform (op1 (instrWord (.exts d a sh)) d a (fun x => sextBits x sh.toNat)) s

/-- EXTZ (R109): ZEXT(a[sh:0]). -/
def execExtz (d a : Reg) (sh : BitVec 5) (s : State) : Host.Outcome State Fault Refusal :=
  perform (op1 (instrWord (.extz d a sh)) d a (fun x => zextBits x sh.toNat)) s

/-- ADDI (R112): a + SEXT(imm16). -/
def execAddi (d a : Reg) (imm : BitVec 16) (s : State) : Host.Outcome State Fault Refusal :=
  perform (op1 (instrWord (.addi d a imm)) d a (fun x => x + simm imm)) s

/-- ANDI (R112): a & ZEXT(imm16). -/
def execAndi (d a : Reg) (imm : BitVec 16) (s : State) : Host.Outcome State Fault Refusal :=
  perform (op1 (instrWord (.andi d a imm)) d a (fun x => x &&& zimm imm)) s

/-- ORI (R112): a | ZEXT(imm16). -/
def execOri (d a : Reg) (imm : BitVec 16) (s : State) : Host.Outcome State Fault Refusal :=
  perform (op1 (instrWord (.ori d a imm)) d a (fun x => x ||| zimm imm)) s

/-- XORI (R112): a ^ ZEXT(imm16). -/
def execXori (d a : Reg) (imm : BitVec 16) (s : State) : Host.Outcome State Fault Refusal :=
  perform (op1 (instrWord (.xori d a imm)) d a (fun x => x ^^^ zimm imm)) s

/-- SLTI (R112): 1 if s(a) < SEXT(imm16). -/
def execSlti (d a : Reg) (imm : BitVec 16) (s : State) : Host.Outcome State Fault Refusal :=
  perform (op1 (instrWord (.slti d a imm)) d a (fun x => boolW (x.slt (simm imm)))) s

/-- SLTIU (R112): 1 if u(a) < u(SEXT(imm16)). -/
def execSltiu (d a : Reg) (imm : BitVec 16) (s : State) : Host.Outcome State Fault Refusal :=
  perform (op1 (instrWord (.sltiu d a imm)) d a (fun x => boolW (x.ult (simm imm)))) s

/-- ORIH (R112): a | (ZEXT(imm16) << 32). -/
def execOrih (d a : Reg) (imm : BitVec 16) (s : State) : Host.Outcome State Fault Refusal :=
  perform (op1 (instrWord (.orih d a imm)) d a (fun x => x ||| (zimm imm <<< 32))) s

/-- ORIT (R112): a | (ZEXT(imm16) << 48). -/
def execOrit (d a : Reg) (imm : BitVec 16) (s : State) : Host.Outcome State Fault Refusal :=
  perform (op1 (instrWord (.orit d a imm)) d a (fun x => x ||| (zimm imm <<< 48))) s

/-- SLLI (R112, SHI): a shifted left by the amount. -/
def execSlli (d a : Reg) (amt : BitVec 6) (s : State) : Host.Outcome State Fault Refusal :=
  perform (op1 (instrWord (.slli d a amt)) d a (fun x => x <<< amt.toNat)) s

/-- SRLI (R112, SHI): a shifted logically right by the amount. -/
def execSrli (d a : Reg) (amt : BitVec 6) (s : State) : Host.Outcome State Fault Refusal :=
  perform (op1 (instrWord (.srli d a amt)) d a (fun x => x >>> amt.toNat)) s

/-- SRAI (R112, SHI): a shifted arithmetically right by the amount. -/
def execSrai (d a : Reg) (amt : BitVec 6) (s : State) : Host.Outcome State Fault Refusal :=
  perform (op1 (instrWord (.srai d a amt)) d a (fun x => x.sshiftRight amt.toNat)) s

/-- LUI (R112): w[d] := SEXT(imm16 << 16). -/
def execLui (d : Reg) (imm : BitVec 16) (s : State) : Host.Outcome State Fault Refusal :=
  perform (writeReg (instrWord (.lui d imm)) d (simm imm <<< 16)) s

end Sys2Proof.Machine
end

