-- ==== Sys2Proof/Machine/KvIns.lean ====
section
/-! DEFINITION. The KV group on the element (R232 to R237). -/

namespace Sys2Proof.Machine

/-- The rsv bits of a block are 0, D7 aside (R234). -/
def kvRsvOk (sub : Nat) (l : List Dword) : Bool :=
  let z (i : Nat) : Bool := dwAt l i == 0
  z 4 && z 5 && z 6 &&
  match sub with
  | 0 => z 1
  | 1 => true
  | 2 => z 3 && fld (dwAt l 2) 63 5 == 0
  | 3 => z 2 && z 3
  | _ => z 1 && z 2 && z 3

/-- The layer, group and position a block names. -/
def kvL (l : List Dword) : Nat := fld (dwAt l 1) 15 0
/-- The head group. -/
def kvG (l : List Dword) : Nat := fld (dwAt l 1) 31 16
/-- The position. -/
def kvP (l : List Dword) : Nat := fld (dwAt l 1) 63 32

/-- The field checks of R234 that do not need the root. -/
def kvFieldsOk (sub : Nat) (l : List Dword) : Bool :=
  let okSrc (i : Nat) : Bool := inLs (dwAt l i).toNat && (dwAt l i).toNat % 8 == 0
  match sub with
  | 0 => (dwAt l 3).toNat % 8 == 0
  | 1 => okSrc 2 && okSrc 3
  | 2 =>
    let n := fld (dwAt l 2) 4 0
    decide (1 ≤ n ∧ n ≤ 16 ∧ kvP l % 16 + n ≤ 16)
  | _ => true

/-- A tracked load of n bytes, aligned to n, under the task's address space (R117, R118). -/
def taskLoad (va n : Nat) : M (List Byte) := do
  let s ← get
  if va % n != 0 then trap cALIGN (dw va)
  else if inLs va then do
    let off ← lsCheck va n
    lsLoad off n
  else do
    let a ← xlatAcc .load (lidAsid s (curElem s).csr.lid) va false
    loadAcc a n

/-- The root record a block names: none when it is unaligned or invalid (R234). -/
def readRoot (va : Dword) : M (Option (List Dword)) := do
  if va.toNat % 64 != 0 then pure none
  else do
    let l := bytesDwords (← taskLoad va.toNat 64)
    pure (if kvRootOk l then some l else none)

/-- A KV operation for the outbox. -/
def kvOpOf (s : State) (sub addr : Nat) (l root : List Dword) : KvOp :=
  { sub := sub, addr := addr, block := l, root := root, krow := [], vrow := [], o := originOf s s.cur }

/-- The root of a KVSTAT, which it reads once (R236, R277). -/
def statRoot (va : Dword) : M (Option (List Dword)) := do
  let x ← getE
  if vdoneOf x == 0 then readRoot va else pure (some (((vgotOf x).take 8).map dw))

/-- The common part of R234: the block and its root, as it is read; none when a check fails. -/
def kvBegin (w : Dword) (sub : Nat) (root : Dword → M (Option (List Dword))) (a : Reg) : M (Option KvOp) := do
  let va ← readReg w a
  let l ← readBlock va 8
  if !kvRsvOk sub l || !kvFieldsOk sub l then pure none
  else
    match ← root (dwAt l 0) with
    | none => pure none
    | some r => do
      let s ← get
      pure (some (kvOpOf s sub (va.toNat - lsBase) l r))

/-- KVFORK, KVPUB and KVFREE (R234). -/
def kvIssue (w : Dword) (sub : Nat) (d a : Reg) : M Unit := do
  match ← kvBegin w sub readRoot a with
  | none => writeReg w d minus2
  | some op => do
    outbox (.kv op)
    writeReg w d 0

/-- KVFORK (R237). -/
def execKvfork (d a : Reg) (s : State) : Host.Outcome State Fault Refusal := perform (kvIssue (instrWord (.kvfork d a)) 0 d a) s

/-- KVPUB (R236). -/
def execKvpub (d a : Reg) (s : State) : Host.Outcome State Fault Refusal := perform (kvIssue (instrWord (.kvpub d a)) 2 d a) s

/-- KVFREE (R237). -/
def execKvfree (d a : Reg) (s : State) : Host.Outcome State Fault Refusal := perform (kvIssue (instrWord (.kvfree d a)) 4 d a) s

/-- A row of D elements from local store (R235). -/
def readRow (r : List Dword) (va : Nat) : M (List (BitVec 32)) := do
  let n := rootD r * rootS r
  let off ← lsRange va n 8
  let l ← lsLoad off n
  pure ((pieces (rootS r) l).map (fun b => BitVec.ofNat 32 (leNat b)))

/-- KVPUT (R235). -/
def execKvput (d a : Reg) (s : State) : Host.Outcome State Fault Refusal :=
  perform (do
    let w := instrWord (.kvput d a)
    match ← kvBegin w 1 readRoot a with
    | none => writeReg w d minus2
    | some op => do
      let ks ← readRow op.root (dwAt op.block 2).toNat
      let vs ← readRow op.root (dwAt op.block 3).toNat
      if ks.any (fun k => (fpDecode (rootF op.root) k.toNat).isNan) then writeReg w d minus2
      else do
        outbox (.kv { op with krow := ks, vrow := vs })
        writeReg w d 0) s

/-- A tracked load of a dword at a physical address that the cache holds (R236). -/
def physLoad (pa : Nat) : M Nat := do pure (leNat (← readTracked pa pa 8 false))

/-- KVSTAT on a root: the page of the entry, the entry, and the header of its block, each a LOAD of its own (R236, R277). -/
def statLoads (r : List Dword) (e : Nat) : M Dword := do
  let got := r.map (·.toNat)
  let page ← nextLoad 1 got (do pure (leNat (← taskLoad ((dwAt r 1).toNat + 8 * (e / 512)) 8)))
  let ent ← nextLoad 2 (got ++ [page]) (physLoad (entAt page e))
  if !entPres (dw ent) then pure minus1
  else do pure (dw (← nextLoad 3 (got ++ [page, ent]) (physLoad (entPa (dw ent)))))

/-- KVSTAT (R236). -/
def execKvstat (d a : Reg) (s : State) : Host.Outcome State Fault Refusal :=
  perform (do
    let w := instrWord (.kvstat d a)
    match ← kvBegin w 3 statRoot a with
    | none => writeReg w d minus2
    | some op =>
      let l := op.block
      if !kvInRange op.root (kvL l) (kvG l) (kvP l) then writeReg w d minus2
      else do
        let v ← statLoads op.root (kvIndex op.root (kvL l) (kvG l) (kvP l))
        endLoads
        writeReg w d v) s

end Sys2Proof.Machine
end

