-- ==== Sys2Proof/Machine/Memory.lean ====
section
/-! DEFINITION. Loads and stores (R117 to R119). -/

namespace Sys2Proof.Machine

/-- A single load: the s bytes at the address, extended (R118). -/
def loadOp (w : Dword) (d : Reg) (bf : BitVec 4) (x : Reg) (disp : BitVec 12) (sz : Nat) (ext : Nat → Dword) : M Unit := do
  bfPriv w bf.toNat
  let base ← readReg w x
  let a ← checkAt w .load bf.toNat (memOff base disp sz) sz
  let l ← loadAcc a sz
  writeReg w d (ext (leNat l))

/-- The store of a register's low bytes at a checked place: the register, or the port's word, is taken only once the checks have
passed; for a store that ZERO drops, a port's word is taken and dropped (R108, R117, R118). -/
def storeReg (w : Dword) (r : Reg) (a : Acc) (sz : Nat) : M Unit :=
  match a with
  | .zero => if r.toNat ≤ 27 then pure () else do
    let _ ← takePort w (portOf r)
    pure ()
  | .loc off => do
    let v ← readReg w r
    storeAcc (.loc off) (leBytes sz v.toNat)
  | .phys pa va codec untr => do
    let v ← readReg w r
    storeAcc (.phys pa va codec untr) (leBytes sz v.toNat)

/-- A single store: w[d][8s-1:0] to the address (R118). -/
def storeOp (w : Dword) (d : Reg) (bf : BitVec 4) (x : Reg) (disp : BitVec 12) (sz : Nat) : M Unit := do
  bfPriv w bf.toNat
  let base ← readReg w x
  let a ← checkAt w .store bf.toNat (memOff base disp sz) sz
  storeReg w d a sz

/-- Sign extension from n bits. -/
def sextNat (n v : Nat) : Dword := (BitVec.ofNat n v).signExtend 64

/-- LDB (R117, R118): load a byte, sign-extended. -/
def execLdb (d : Reg) (bf : BitVec 4) (x : Reg) (disp : BitVec 12) (s : State) : Host.Outcome State Fault Refusal :=
  perform (loadOp (instrWord (.ldb d bf x disp)) d bf x disp 1 (sextNat 8)) s

/-- LDBU (R117, R118): load a byte, zero-extended. -/
def execLdbu (d : Reg) (bf : BitVec 4) (x : Reg) (disp : BitVec 12) (s : State) : Host.Outcome State Fault Refusal :=
  perform (loadOp (instrWord (.ldbu d bf x disp)) d bf x disp 1 (dw)) s

/-- LDH (R117, R118): load a half, sign-extended. -/
def execLdh (d : Reg) (bf : BitVec 4) (x : Reg) (disp : BitVec 12) (s : State) : Host.Outcome State Fault Refusal :=
  perform (loadOp (instrWord (.ldh d bf x disp)) d bf x disp 2 (sextNat 16)) s

/-- LDHU (R117, R118): load a half, zero-extended. -/
def execLdhu (d : Reg) (bf : BitVec 4) (x : Reg) (disp : BitVec 12) (s : State) : Host.Outcome State Fault Refusal :=
  perform (loadOp (instrWord (.ldhu d bf x disp)) d bf x disp 2 (dw)) s

/-- LDW (R117, R118): load a word, sign-extended. -/
def execLdw (d : Reg) (bf : BitVec 4) (x : Reg) (disp : BitVec 12) (s : State) : Host.Outcome State Fault Refusal :=
  perform (loadOp (instrWord (.ldw d bf x disp)) d bf x disp 4 (sextNat 32)) s

/-- LDWU (R117, R118): load a word, zero-extended. -/
def execLdwu (d : Reg) (bf : BitVec 4) (x : Reg) (disp : BitVec 12) (s : State) : Host.Outcome State Fault Refusal :=
  perform (loadOp (instrWord (.ldwu d bf x disp)) d bf x disp 4 (dw)) s

/-- LDD (R117, R118): load a dword. -/
def execLdd (d : Reg) (bf : BitVec 4) (x : Reg) (disp : BitVec 12) (s : State) : Host.Outcome State Fault Refusal :=
  perform (loadOp (instrWord (.ldd d bf x disp)) d bf x disp 8 (dw)) s

/-- STB (R117, R118): store a byte. -/
def execStb (d : Reg) (bf : BitVec 4) (x : Reg) (disp : BitVec 12) (s : State) : Host.Outcome State Fault Refusal :=
  perform (storeOp (instrWord (.stb d bf x disp)) d bf x disp 1) s

/-- STH (R117, R118): store a half. -/
def execSth (d : Reg) (bf : BitVec 4) (x : Reg) (disp : BitVec 12) (s : State) : Host.Outcome State Fault Refusal :=
  perform (storeOp (instrWord (.sth d bf x disp)) d bf x disp 2) s

/-- STW (R117, R118): store a word. -/
def execStw (d : Reg) (bf : BitVec 4) (x : Reg) (disp : BitVec 12) (s : State) : Host.Outcome State Fault Refusal :=
  perform (storeOp (instrWord (.stw d bf x disp)) d bf x disp 4) s

/-- STD (R117, R118): store a dword. -/
def execStd (d : Reg) (bf : BitVec 4) (x : Reg) (disp : BitVec 12) (s : State) : Host.Outcome State Fault Refusal :=
  perform (storeOp (instrWord (.std d bf x disp)) d bf x disp 8) s

/-- Register n places after d. -/
def regPlus (d : Reg) (n : Nat) : Reg := BitVec.ofNat 5 (d.toNat + n)

/-- Set EPROG (R119). -/
def setEprog (x : Elem) (n : Nat) : Elem := { x with x := { x.x with eprog := BitVec.ofNat 5 n } }

/-- Transfer the dwords from the i-th on, n of them; a trap leaves EPROG at the dword that trapped, and what was transferred before it
(R119). Each line outside local store that a load reads is a LOAD of its own (R277): with a line behind it, given by its number, a
transfer that comes to another line leaves the rest to the instruction's next execution. So does a serial run that finds a buffer full
(R282). -/
def multiLoop (line : Nat → State → Option Nat) (one : Nat → M Unit) : Nat → Nat → Option Nat → M Unit
  | 0, _, _ => pure ()
  | n + 1, i, last => do
    let s ← get
    let l := line i s
    if last.isSome && l.isSome && last != l then throw (.wait (modCur s (fun x => setVdone x i)))
    else
      match one i s with
      | .ok (_, t) => do set t; multiLoop line one n (i + 1) (if l.isSome then l else last)
      | .error (.trap c ev m) => throw (.trapIn (modCur (keepMarks s m) (fun x => setEprog x i)) c ev)
      | .error (.full m) => throw (.wait (modCur (keepMarks s m) (fun x => { setVdone x i with stall := .full })))
      | .error e => throw e

/-- The loop of R119: it starts at EPROG when the instruction is the first after ERET, goes on where its last execution left off, and
clears EPROG at its end. -/
def multiOp (cnt : Reg) (line : Nat → State → Option Nat) (one : Nat → M Unit) : M Unit := do
  let x ← getE
  let start := if vdoneOf x != 0 then vdoneOf x else if x.afterEret then x.x.eprog.toNat else 0
  multiLoop line one (cnt.toNat - start) start none
  modE (fun y => setEprog (setVdone y 0) 0)

/-- The offset of the i-th dword: SEXT(disp12) * 8 + 8i, modulo 2^64. -/
def multiOff (disp : BitVec 12) (i : Nat) : Nat := (disp.signExtend 64 * 8 + dw (8 * i)).toNat

/-- The physical line that the i-th dword of an LDM lies on, outside local store. -/
def multiLine (w : Dword) (bf : BitVec 4) (disp : BitVec 12) (i : Nat) (s : State) : Option Nat :=
  match checkAt w .load bf.toNat (multiOff disp i) 8 s with
  | .ok (.phys pa _ _ _, _) => some (pa / 64)
  | _ => none

/-- LDM (R119). -/
def execLdm (d : Reg) (bf : BitVec 4) (cnt : Reg) (disp : BitVec 12) (s : State) : Host.Outcome State Fault Refusal :=
  perform (multiOp cnt (multiLine (instrWord (.ldm d bf cnt disp)) bf disp) (fun i => do
    let w := instrWord (.ldm d bf cnt disp)
    let a ← checkAt w .load bf.toNat (multiOff disp i) 8
    let l ← loadAcc a 8
    writeReg w (regPlus d i) (dw (leNat l)))) s

/-- STM (R119). -/
def execStm (d : Reg) (bf : BitVec 4) (cnt : Reg) (disp : BitVec 12) (s : State) : Host.Outcome State Fault Refusal :=
  perform (multiOp cnt (fun _ _ => none) (fun i => do
    let w := instrWord (.stm d bf cnt disp)
    let a ← checkAt w .store bf.toNat (multiOff disp i) 8
    storeReg w (regPlus d i) a 8)) s

end Sys2Proof.Machine
end

