-- ==== Sys2Proof/Machine/Pcie.lean ====
section
/-! DEFINITION. The host's side (R357 to R359): BAR2, the doorbell, the control BAR; and the patrol scrub (R314, R371). -/

namespace Sys2Proof.Machine

/-! ## BAR2 (R357, R358) -/

/-- The physical address of a BAR2 offset. -/
def bar2Pa (s : State) (off : Nat) : Nat := fld s.regs.winbase 51 30 * 2 ^ 30 + off

/-- A host access, split at 64-byte lines: address and length of each piece (with fuel for the pieces). -/
def linePieces : Nat → Nat → Nat → List (Nat × Nat)
  | 0, _, _ => []
  | k + 1, pa, n => if n == 0 then [] else
    let m := Nat.min n (64 - pa % 64)
    (pa, m) :: linePieces k (pa + m) (n - m)

/-- The bytes that lie in BAR2. -/
def bar2Size : Nat := 2 ^ 36

/-- One piece of a host write: dropped and counted where nothing is populated (on I-die 0's counter, log 28). -/
def hostPiece (s : State) (pa : Nat) (l : List Byte) : State :=
  if populated s pa then physStore s pa l else bumpTele s 4 0x18

/-- The pieces of a host write, in order. -/
def hostPieces : List (Nat × Nat) → List Byte → State → State
  | [], _, s => s
  | (pa, m) :: ps, l, s => hostPieces ps (l.drop m) (hostPiece s pa (l.take m))

/-- HOST_BAR2_WRITE (R357, R358); a device in recovery serves only attestation (R383). -/
def execHostBar2Write (off : Nat) (bytes : List Byte) (s : State) : Host.Outcome State Fault Refusal :=
  if off + bytes.length ≤ bar2Size && !s.regs.recovery then .next (hostPieces (linePieces (bytes.length / 64 + 2) (bar2Pa s off) bytes.length) bytes s)
  else .next s

/-- What a host read returns; none is Unsupported Request, or data that cannot be had. -/
def hostRead (s : State) (off n : Nat) : Option (List Byte) :=
  let ps := linePieces (n / 64 + 2) (bar2Pa s off) n
  if bar2Size < off + n || !ps.all (fun p => populated s p.1) then none else physRead s (bar2Pa s off) n

/-- The first place of a host read that cannot be read, when all of it is populated. -/
def hostMissed (s : State) (off n : Nat) : Option Nat :=
  let ps := linePieces (n / 64 + 2) (bar2Pa s off) n
  if bar2Size < off + n || !ps.all (fun p => populated s p.1) then none else (ps.find? (fun p => (physRead s p.1 p.2).isNone)).map (·.1)

/-- HOST_BAR2_READ (R357); what it cannot read is a machine check (R370). -/
def execHostBar2Read (off n : Nat) (s : State) : Host.Outcome State Fault Refusal :=
  if s.regs.recovery then .next s
  else
    let t := match hostMissed s off n with | some pa => lostRead s pa | none => s
    .next { t with out := t.out ++ [.hostRead (hostRead s off n)] }

/-! ## The control BAR (R327, R357, R358) -/

/-- QDB (R358): a mapped slot reads TAIL again; every earlier BAR2 write has been applied. -/
def execQdb (q : BitVec 10) (s : State) : Host.Outcome State Fault Refusal :=
  if qMapped s q.toNat && !s.regs.recovery then .next (readTail s q.toNat) else .next s

/-- The value of QTCTL that a write leaves: each field at the nearest limit of its range (R327). -/
def qtctlOf (v : Dword) : Dword :=
  dw (Nat.min 1024 (fld v 10 0) + Nat.max 1 (fld v 23 16) * 2 ^ 16 + Nat.max 1 (fld v 31 24) * 2 ^ 24 + fld v 32 32 * 2 ^ 32)

/-- A host write to a register of the control BAR: a register that may be written only while no launch runs keeps its value while one
does (log 28), and an offset that is not writable ignores it. -/
def barWrite (s : State) (off : Nat) (v : Dword) : State :=
  if off == 0x100 then
    if s.launches.isEmpty then { s with regs := { s.regs with qtbase := dw (fld v 51 6 * 64) } } else s
  else if off == 0x108 then
    if s.launches.isEmpty then { s with regs := { s.regs with qtctl := qtctlOf v } } else s
  else if off == 0x200 then { s with regs := { s.regs with winbase := dw (fld v 51 30 * 2 ^ 30) } }
  else if 0x80000 ≤ off && off < 0x80400 && off % 8 == 0 then
    msixSignal { s with regs := { s.regs with msix := memPutNat s.regs.msix (off - 0x80000) 8 v.toNat } }
  else s

/-- REGISTER_WRITE (R357). -/
def execRegisterWrite (off : Nat) (v : Dword) (s : State) : Host.Outcome State Fault Refusal :=
  if s.regs.recovery then .next s else .next (barWrite s off v)

/-- DEVID (R357): the part number 0x04C4, and the revision, which the part fixes. -/
def barDevid : Dword := 0x04C4 ||| Config.revision.setWidth 64 <<< 16

/-- SLOTQ of a slot. -/
def slotQ (x : Slot) : Dword :=
  match x.q with
  | some q => dw (2 ^ 10 + q % 2 ^ 10)
  | none => 0

/-- A register of the control BAR: an offset that is not listed reads 0, and so does QDB, which is only written (R357). -/
def barGet (s : State) (off : Nat) : Dword :=
  if off == 0x000 then barDevid
  else if off == 0x008 then s.regs.devnum.setWidth 64
  else if off == 0x100 then s.regs.qtbase
  else if off == 0x108 then s.regs.qtctl
  else if off == 0x200 then s.regs.winbase
  else if 0x10000 ≤ off && off < 0x10400 && off % 8 == 0 then
    let x := tget s.slots ((off - 0x10000) / 16) Slot.reset
    if off % 16 == 0 then slotQ x else x.taken
  else if 0x80000 ≤ off && off < 0x80400 && off % 8 == 0 then dw (leNat (memRead s.regs.msix (off - 0x80000) 8))
  else if off == 0x81000 then s.regs.msixPend
  else 0

/-- The host reads a register of the control BAR (R357). -/
def barReadTurn (s : State) (off : Nat) : State := if s.regs.recovery then s else { s with out := s.out ++ [.barRead (barGet s off)] }

/-- HOST_COMPLETION_TIMEOUT (R359): the element's next instruction, which is the next turn, finds host memory unreachable. -/
def execHostCompletionTimeout (el : Nat) (s : State) : Host.Outcome State Fault Refusal :=
  if (elem s el).run.isSome then .next { s with hostLost := some el, agenda := .element el :: s.agenda } else .next s

/-! ## The patrol scrub (R314, R371) -/

/-- The die that holds a word. -/
def scrubDie : ScrubAt → Nat
  | .ls e _ => dieOf e
  | .phys w => dieOfPa (8 * w)
  | .opm c _ => c / 64
  | .acc c _ => c / 64
  | .elTlb e _ => dieOf e
  | .clTlb c _ => c / 64
  | .queue q _ => queueDie q
  | .wbRsOb e _ => dieOf e
  | .undo e _ _ => dieOf e
  | .chan e _ => dieOf e
  | .inq e _ => dieOf e
  | .iq e _ => dieOf e
  | .lane d _ _ => d
  | .cfObj d _ => d

/-- Poison a local-store dword. -/
def poisonLs (s : State) (e d : Nat) : State :=
  modElem s e (fun x => { x with lsBad := if x.lsBad.contains d then x.lsBad else d :: x.lsBad })

/-- An uncorrectable error is counted (R390). -/
def countBad (s : State) (d : Nat) : State := bumpTele s d 0x08

/-- A machine check that concerns an element, for the task of an origin, or for none (R368). -/
def mcheckEl (s : State) (e code : Nat) (addr : Dword) (o : Origin) : State :=
  mcheck (countBad s (dieOf e)) (dieOf e) code addr e o.ts o.lid

/-- The machine check of an error that the table of R371 has no row for: the record and the event of R370, under a code that the spec does
not give (log 28). -/
def mcheckOther (s : State) (d : Nat) (addr : Dword) (el : Option Nat) : State :=
  mcheck (countBad s d) d (Config.scrubCode s.tick).toNat addr (el.getD (Config.scrubElement s.tick).toNat) 0 0

/-- An uncorrectable word in the local store is poisoned; the run that runs there traps at its next step boundary (R371). -/
def scrubLs (s : State) (e d : Nat) : State :=
  if (elem s e).lsBad.contains d then s
  else
    let a := lsVa (8 * d)
    let o := if (elem s e).run.isSome then originOf s e else Origin.none
    modElem (rowBad (mcheckEl (poisonLs s e d) e 2 a o) (lsRow e d)) e (fun x =>
      { x with run := x.run.map (fun r => { r with mc := some (r.mc.getD a) }) })

/-- The task of run k of an element: 0 the running one, 1 the interrupted one, 2 + i the i-th finished one. -/
def runTask (s : State) (e : Nat) : Nat → Option Origin
  | 0 => if (elem s e).run.isSome then some (originOf s e) else none
  | 1 => (elem s e).under.map (fun u => { Origin.none with el := e, ts := dw (childTs u.csr), lid := u.csr.lid })
  | k + 2 => ((elem s e).fin[k]?).map (fun r => { Origin.none with el := e, ts := dw (r.ev.ts.toNat + r.off), lid := r.ev.lid })

/-- The undo log of run k. -/
def runUndo (s : State) (e : Nat) : Nat → Tbl Dword
  | 0 => ((elem s e).run.map (·.undo)).getD []
  | 1 => ((elem s e).under.map (·.run.undo)).getD []
  | k + 2 => (((elem s e).fin[k]?).map (·.undo)).getD []

/-- Run k aborts, keeping serial mode. -/
def scrubRun (s : State) (e : Nat) : Nat → State
  | 0 => abortRunning s e .keep
  | 1 => abortUnder s e .keep
  | k + 2 => abortFin s e k .keep

/-- An uncorrectable word of memory or scratchpad: poisoned. -/
def scrubWord (s : State) (w : Nat) : State :=
  let within (k : Nat) : Bool := k / 64 == w || (k + 2) / 64 == w
  if s.memBad.contains w && !s.stateSet.any within then s
  else
    let bad : State := { s with memBad := w :: s.memBad.filter (· != w), stateSet := s.stateSet.filter (fun k => !within k) }
    let t := mcheckOther bad (dieOfPa (8 * w)) (dw (8 * w)) none
    if paRegion (8 * w) == 3 then rowBad t (spRow (spCluster (8 * w)) (spOff (8 * w))) else t

/-- An uncorrectable word of operand memory. -/
def scrubOpm (s : State) (c w : Nat) : State :=
  if (clus s c).opmBad.contains w || decide (2 ^ 18 ≤ w) then s
  else rowBad (mcheckOther (modClus s c (fun x => { x with opmBad := w :: x.opmBad })) (c / 64) (dw (8 * w)) none) (opmRow c w)

/-- An uncorrectable word of the accumulator store. -/
def scrubAcc (s : State) (c w : Nat) : State :=
  if (clus s c).accBad.contains w || decide (32 * (clus s c).rows ≤ w) then s
  else rowBad (mcheckOther (modClus s c (fun x => { x with accBad := w :: x.accBad })) (c / 64) (dw (8 * w)) none) (accRow c w)

/-- The matrix work of a BFILL leaves its queue. -/
def takeWork (s : State) (q : QueueId) (j : Job) : State :=
  modQueue s q (fun x =>
    { x with jobs := x.jobs.filter (fun k => k.jid != j.jid || cmdOpc k.cmd != 0x40),
             active := if x.active == some j.jid then none else x.active, edge := if x.active == some j.jid then none else x.edge })

/-- An uncorrectable entry of an engine queue: the command cannot be read, and its job faults POISON, a suspended one anew, and of a BFILL's
matrix work the BFILL; a job whose work is done ends as it would (DEDUCED from the engine read of R315, log 28). -/
def scrubQueue (s : State) (q : QueueId) (k : Nat) : State :=
  match (queue s q).jobs[k]? with
  | some j =>
    let t := countBad s (queueDie q)
    if j.fin.isSome then mcheck t (queueDie q) 8 0 j.o.el j.o.ts j.o.lid
    else if isBfWork q j then bwLost q.idx j 0 (takeWork t q j)
    else faultJob t q j 25 0 j.o.asid
  | none => s

/-- An uncorrectable entry of an immediate-atomic queue (R21, R314, R392): the operation cannot be read and is not performed, nor combined
where its home holds it, as though its memory were lost: an element that awaits the old value traps MCHECK, and a posted one raises the machine
check (DESIGN CHOICE, log 28: R371 has no row for it). -/
def scrubIq (s : State) (e k : Nat) : State :=
  match (elem s e).iq[k]? with
  | none => s
  | some a =>
    let t := modElem (countBad s (dieOf e)) e (fun x => { x with iq := dropAt x.iq k })
    iatomBack { t with quants := t.quants.erase { el := e, a := a, peer := none } } e k a none

/-- The state of a CF object is lost: until it is opened anew, no lane of it can be read (DESIGN CHOICE, log 28). -/
def loseObj (o : CfObj) : CfObj := if o.state == 0 then o else { o with bad := span 0 o.nl ++ o.bad.filter (fun k => decide (o.nl ≤ k)) }

/-- What an uncorrectable word does (R315, R371). -/
def scrubBad (s : State) : ScrubAt → State
  | .ls e d => if decide (8 * d < lsSize (elem s e)) then scrubLs s e d else s
  | .phys w => if populated s (8 * w) && !external (8 * w) then scrubWord s w else s
  | .opm c w => scrubOpm s c w
  | .acc c w => scrubAcc s c w
  | .elTlb e k =>
    if k < (elem s e).tlb.length then mcheckOther (modElem s e (fun x => { x with tlb := dropAt x.tlb k })) (dieOf e) 0 (some e) else s
  | .clTlb c k =>
    if k < (clus s c).tlb.length then mcheckOther (modClus s c (fun x => { x with tlb := dropAt x.tlb k })) (c / 64) 0 none else s
  | .queue q k => scrubQueue s q k
  | .wbRsOb e k =>
    match runTask s e k with
    | some o => scrubRun (mcheckEl s e 3 0 o) e k
    | none => s
  | .undo e k lost =>
    match runTask s e k with
    | some o =>
      let ds := lost.filter (fun d => (tfind (runUndo s e k) d).isSome)
      ds.foldl (fun t d => rowBad (poisonLs t e d) (lsRow e d)) (scrubRun (mcheckEl s e 4 0 o) e k)
    | none => s
  | .chan e ch => modElem (mcheckEl s e 5 (dw ch) Origin.none) e (fun x => { x with chans := tput x.chans ch ChEntry.reset })
  | .inq e k =>
    match (elem s e).inq[k]? with
    | some v => modElem (mcheckEl s e 6 (dw v.chan) Origin.none) e (fun x => { x with inq := dropAt x.inq k })
    | none => s
  | .iq e k => scrubIq s e k
  | .lane d obj k =>
    if (tget (die s d).cf obj CfObj.reset).bad.contains k then s
    else
      mcheckOther (modDie s d (fun x => { x with cf := tmod x.cf obj CfObj.reset (fun o => { o with bad := k :: o.bad }) })) d (dw k) none
  | .cfObj d obj => mcheckOther (modDie s d (fun x => { x with cf := tmod x.cf obj CfObj.reset loseObj })) d (dw obj) none

/-- The row of SRAM that a word lies in, where it has spare rows (R316). -/
def scrubRow : ScrubAt → Option Nat
  | .ls e d => some (lsRow e d)
  | .phys w => if paRegion (8 * w) == 3 then some (spRow (spCluster (8 * w)) (spOff (8 * w))) else none
  | .opm c w => some (opmRow c w)
  | .acc c w => some (accRow c w)
  | _ => none

/-- A correctable word is corrected and counted, and so is the read of its row (R314, R316). -/
def scrubGood (s : State) (at' : ScrubAt) : State :=
  let t := bumpTele s (scrubDie at') 0x00
  match scrubRow at' with
  | some r => rowHit t r
  | none => t

/-- PATROL_SCRUB (R314): a word gives an error as the scrub, or any other access, reads it (log 28). -/
def execPatrolScrub (at' : ScrubAt) (uncorrectable : Bool) (s : State) : Host.Outcome State Fault Refusal :=
  .next (if uncorrectable then scrubBad s at' else scrubGood s at')

end Sys2Proof.Machine
end

