-- ==== Sys2Proof/Machine/Mgmt.lean ====
section
/-! DEFINITION. The management port (R385 to R391), boot (R381 to R384), capability refresh (R37), and the trap of an unassigned
opcode (R64). -/

namespace Sys2Proof.Machine

/-! ## Reading the registers (R387) -/

/-- A value where the address is aligned to 8. -/
def aligned8 (a : Nat) (v : Dword) : Option Dword := if a % 8 == 0 then some v else none

/-- ISLCTL of an island, as set: TLIM 95 after reset. -/
def islctl (s : State) (n : Nat) : Dword := tget s.regs.islctl n 0x5F0000

/-- A dword of a die's machine-check log (R391). -/
def mcDword (s : State) (d off : Nat) : Dword :=
  match (die s d).mclog.find? (fun r => r.count % 256 == off / 32) with
  | none => 0
  | some r =>
    if off / 8 % 4 == 0 then dw (r.code % 256 + r.count % 2 ^ 32 * 2 ^ 16)
    else if off / 8 % 4 == 1 then r.addr
    else if off / 8 % 4 == 2 then dw (r.el % 2 ^ 27)
    else dw r.round

/-- The registers of an I-die's reconcile engine (R265). -/
def rcReg (s : State) (i j : Nat) : Option Dword :=
  if 1 < i then none
  else if j < 4 then some (tget (die s (4 + i)).seeds j 0)
  else if j == 4 then some (dw (die s (4 + i)).rcb)
  else if j == 5 then some (dw (die s (4 + i)).rcmaxr)
  else none

/-- The registers below 0x100. SRCTL holds [15:0] and SRNO [63:16] of one dword (log 28). -/
def pkgReg (s : State) (a : Nat) : Option Dword :=
  if a == 0x00 then some (dw (bnat s.regs.run))
  else if a == 0x08 then some (s.regs.devnum.setWidth 64)
  else if a == 0x10 then some (s.regs.rpset.setWidth 64)
  else if a == 0x18 then some (dw (fld s.regs.srctl 15 0 + s.regs.srno * 2 ^ 16))
  else if a == 0x20 then some s.regs.xroot
  else if a == 0x28 then some (s.regs.ageq.setWidth 64)
  else none

/-- MREAD of an address; none where no register lies there. -/
def mgmtRead (s : State) (a : Nat) : Option Dword :=
  if 0x10000 ≤ a then (if a < 0x20000 then some ((tget s.regs.route (a - 0x10000) 0).setWidth 64) else none)
  else if a % 8 != 0 then none
  else if a < 0x100 then pkgReg s a
  else if a < 0x200 then rcReg s ((a - 0x100) / 0x40) (a % 0x40 / 8)
  else if a < 0x280 then some (tget s.regs.fpctl ((a - 0x200) / 8) 0)
  else if a < 0x300 then none
  else if a < 0x348 then some (tget s.regs.mdbase ((a - 0x300) / 8) 0)
  else if a < 0x380 then none
  else if a < 0x3C8 then some (tget s.regs.mdlim ((a - 0x380) / 8) 0)
  else if a < 0x400 then none
  else if a < 0x480 then
    let n := (a - 0x400) / 8
    some ((islctl s n &&& ~~~(0xF000 : Dword)) ||| dw ((tget s.thermal n (0, 0)).2 % 16 * 2 ^ 12))
  else if a < 0x500 then none
  else if a < 0x680 then some (tget (die s ((a - 0x500) / 0x40)).tele (a % 0x40) 0)
  else if a < 0x2000 then none
  else if a < 0x2800 then some (tget s.regs.windows ((a - 0x2000) / 8) 0)
  else if a < 0x3000 then none
  else if a < 0x3400 then some (tget s.regs.sltab ((a - 0x3000) / 8) 0)
  else if a < 0x4000 then none
  else some (mcDword s ((a - 0x4000) / 0x2000) (a % 0x2000))

/-! ## Writing the registers (R387) -/

/-- What a management write answers, and the state after it. -/
abbrev MgmtAns := Nat × State

/-- OK. -/
def mOk (s : State) : MgmtAns := (0, s)
/-- BADADDR. -/
def mBad (s : State) : MgmtAns := (1, s)
/-- A value outside its field answers RANGE with no change; one within it takes effect. -/
def mRange (s : State) (ok : Bool) (f : Regs → Regs) : MgmtAns := if ok then (0, { s with regs := f s.regs }) else (3, s)

/-- MDLIM (R307): every state below the new limit becomes RAW, so that each can be read. What a lower limit leaves out stays in memory
as it is. -/
def setMdlim (s : State) (sp : Nat) (v : Dword) : State :=
  let b := mdBase s sp
  { s with regs := { s.regs with mdlim := tput s.regs.mdlim sp v }, mem := rawStates s.mem b (fld v 35 0),
           memBad := s.memBad.filter (fun w => !decide (b / 8 ≤ w ∧ 8 * w < b + (3 * fld v 35 0 + 7) / 8)),
           stateSet := s.stateSet.filter (fun k => !decide (8 * b ≤ k ∧ k < 8 * b + 3 * fld v 35 0)) }

/-- FPCTL (R345, R346): the writable bits; a write orders the reset of a port that is down, and disabling a port takes its link
down (log 28). -/
def writeFpctl (s : State) (p : Nat) (v : Dword) : MgmtAns :=
  if fld v 63 24 != 0 || fld v 15 10 != 0 || fld v 7 3 != 0 then (3, s)
  else
    let old := tget s.regs.fpctl p 0
    let keep := old &&& (if dbit v 0 then 0xFF0300 else 0xFF0000)
    (0, { setFpctl s p (keep ||| (v &&& 7)) with fabDown := s.fabDown.filter (· != p) })

/-- ISLCTL (R389): EDIV is read-only; OFF is accepted only before the capability table is fixed, and never on islands 12 and 13. -/
def writeIsl (s : State) (n : Nat) (v : Dword) : MgmtAns :=
  let offBad := dbit v 8 && (s.regs.run || n == 12 || n == 13) && !dbit (islctl s n) 8
  mRange s (fld v 63 24 == 0 && fld v 11 9 == 0 && fld v 7 4 == 0 && decide (fld v 3 0 ≤ 8) && !offBad)
    (fun r => { r with islctl := tput r.islctl n ((v &&& ~~~(0xF100 : Dword)) ||| (if s.regs.run then islctl s n &&& 0x100 else v &&& 0x100)) })

/-- The registers of an I-die's reconcile engine. -/
def writeRc (s : State) (i j : Nat) (v : Dword) : MgmtAns :=
  let put (ok : Bool) (f : Die → Die) : MgmtAns := if ok then (0, modDie s (4 + i) f) else (3, s)
  if 1 < i || 5 < j then mBad s
  else if j < 4 then put true (fun x => { x with seeds := tput x.seeds j v })
  else if j == 4 then put (decide (6 ≤ v.toNat ∧ v.toNat ≤ 16)) (fun x => { x with rcb := v.toNat })
  else put (decide (1 ≤ v.toNat ∧ v.toNat ≤ 15)) (fun x => { x with rcmaxr := v.toNat })

/-- A table entry that takes its value at the next round edge. -/
def writeTab (s : State) (ok : Bool) (a : Nat) (v : Dword) : MgmtAns := mRange s ok (fun r => { r with tabPend := r.tabPend ++ [(a, v)] })

/-- The registers below 0x100. AGEQ goes to the nearest limit of its range (R327). -/
def writePkg (s : State) (a : Nat) (v : Dword) : MgmtAns :=
  if a == 0x08 then mRange s (decide (v.toNat < 2 ^ 16)) (fun r => { r with devnum := v.setWidth 16 })
  else if a == 0x10 then mRange s (decide (8 ≤ v.toNat ∧ v.toNat ≤ 16)) (fun r => { r with rpset := v.setWidth 5 })
  else if a == 0x18 then mRange s (fld v 63 16 == 0 && fld v 11 1 == 0 && decide (fld v 15 12 ≤ 8)) (fun r => { r with srctl := v })
  else if a == 0x20 then mRange s (fld v 63 52 == 0) (fun r => { r with xroot := v })
  else if a == 0x28 then
    mRange s (fld v 63 5 == 0) (fun r => { r with ageq := BitVec.ofNat 5 (Nat.min 20 (Nat.max 8 v.toNat)) })
  else mBad s

/-- A register that is written only while no launch runs; a valid SLTAB entry has 1 to 65,535 members (R353). -/
def writeIdle (s : State) (a : Nat) (v : Dword) : MgmtAns :=
  if 0x10000 ≤ a then writeTab s (fld v 63 8 == 0 && fld v 6 5 == 0) a v
  else if a < 0x100 then writePkg s a v
  else if a < 0x200 then writeRc s ((a - 0x100) / 0x40) (a % 0x40 / 8) v
  else if a < 0x280 then writeFpctl s ((a - 0x200) / 8) v
  else if a < 0x380 then mRange s (fld v 63 48 == 0 && fld v 5 0 == 0) (fun r => { r with mdbase := tput r.mdbase ((a - 0x300) / 8) v })
  else if a < 0x400 then (if fld v 63 36 == 0 then (0, setMdlim s ((a - 0x380) / 8) v) else (3, s))
  else if a < 0x500 then writeIsl s ((a - 0x400) / 8) v
  else if a < 0x3000 then writeTab s (fld v 62 44 == 0 && fld v 27 12 == 0) a v
  else writeTab s (if a % 16 == 0 then fld v 62 48 == 0 && !(dbit v 63 && fld v 47 32 == 0) else fld v 63 48 == 0) a v

/-- A register that no write changes: telemetry and the machine-check logs. -/
def mgmtRo (a : Nat) : Bool := decide (0x500 ≤ a ∧ a < 0x680) || decide (0x4000 ≤ a ∧ a < 0x10000)

/-- MWRITE: MCTL once, a later write changes nothing (log 28); BADADDR for what is not listed or is read-only (log 28); BUSY while a launch is active; then the field. -/
def mgmtWrite (s : State) (a : Nat) (v : Dword) : MgmtAns :=
  if (mgmtRead s a).isNone || mgmtRo a then mBad s
  else if a == 0 then
    mRange s (decide (v.toNat < 2)) (fun r => { r with run := r.run || v == 1 })
  else if !s.launches.isEmpty then (2, s)
  else writeIdle s a v

/-! ## Datagrams (R386) -/

/-- Reply to a datagram. -/
def reply (s : State) (status : Nat) (data : Dword) : State := { s with out := s.out ++ [.mgmt status data] }

/-- A command that needs its HMAC: dropped and counted without it, and not served in recovery (R383, R386). -/
def authentic (auth : Bool) (act : State → State) (s : State) : Host.Outcome State Fault Refusal :=
  if s.regs.recovery then .next s
  else if auth then .next (act s)
  else .next (bumpTele s 4 0x20)

/-- MREAD (R386). -/
def execMread (addr : Nat) (auth : Bool) (s : State) : Host.Outcome State Fault Refusal :=
  authentic auth (fun t => match mgmtRead t addr with | some v => reply t 0 v | none => reply t 1 0) s

/-- MWRITE (R386, R387). -/
def execMwrite (addr : Nat) (v : Dword) (auth : Bool) (s : State) : Host.Outcome State Fault Refusal :=
  authentic auth (fun t => let r := mgmtWrite t addr v; reply r.2 r.1 0) s

/-- MCLEAR (R390): the address of a telemetry block; TEMP and POWER stay. -/
def execMclear (addr : Nat) (auth : Bool) (s : State) : Host.Outcome State Fault Refusal :=
  authentic auth (fun t =>
    if 0x500 ≤ addr && addr < 0x680 && addr % 0x40 == 0 then
      reply (modDie t ((addr - 0x500) / 0x40) (fun x => { x with tele := x.tele.filter (fun p => p.1 == 0x28 || p.1 == 0x30) })) 0 0
    else reply t 1 0) s

/-! ## Measurement and attestation (R382, R385) -/

/-- The bytes of a digest, least significant first (log 9). -/
def digBytes (d : BitVec 256) : List Byte := leBytes 32 d.toNat

/-- Measure a digest into MEASi (R382). -/
def measure (s : State) (i : Nat) (d : BitVec 256) : State :=
  let old := tget s.regs.meas i 0
  { s with regs := { s.regs with meas := tput s.regs.meas i (Config.sm3 (digBytes old ++ digBytes d)) } }

/-- MEASUREMENT_REQUEST (R381): MEAS3 to MEAS7 at the request of supervisor software; a device in recovery serves none (R383). -/
def execMeasurementRequest (i : BitVec 3) (digest : BitVec 256) (s : State) : Host.Outcome State Fault Refusal :=
  if 3 ≤ i.toNat && !s.regs.recovery then .next (measure s i.toNat digest) else .next s

/-- Dwords 0 to 47 of the report (R385). -/
def reportDwords (s : State) (nonce : BitVec 256) : List Dword :=
  [dw (2 ^ 32 + 0x4B344154), s.regs.devnum.setWidth 64] ++ bytesDwords (digBytes nonce)
    ++ (span 0 8).flatMap (fun i => bytesDwords (digBytes (tget s.regs.meas i 0)))
    ++ [dw (if s.regs.run then 0xFF else s.regs.stage % 256), s.regs.boots] ++ List.replicate 8 0

/-- ATTEST (R385): answered without an HMAC, in recovery too. -/
def execAttest (nonce : BitVec 256) (s : State) : Host.Outcome State Fault Refusal :=
  let d := reportDwords s nonce
  .next { s with out := s.out ++ [.report d (Config.sm2Sign (Config.sm3 (dwordsBytes d)))] }

/-! ## Boot (R316, R381 to R384, R389) -/

/-- The resources that self-test finds usable, in place of those that stood. -/
def mapOut (s : State) (r : BootReport) : State :=
  let s1 := { s with deadEl := r.deadEl, nearCap := (if r.nearBig then 12 else 6) * 2 ^ 40,
                     farCap := r.farCap.foldl (fun t p => tput t (p.1 % 8) (Nat.min p.2 (2 ^ 45))) [] }
  let s2 := r.lsBanks.foldl (fun t p => modElem t (p.1 % elCount) (fun x => { x with bmask := BitVec.ofNat 8 p.2 })) s1
  let s3 := r.spBanks.foldl (fun t p => modClus t (p.1 % 256) (fun x => { x with spb := Nat.min p.2 32 })) s2
  r.meRows.foldl (fun t p => modClus t (p.1 % 256) (fun x => { x with rows := Nat.min (p.2 / 512 * 512) 8192, meOk := decide (512 ≤ p.2) })) s3

/-- The i-th usable local-store bank, counted from offset 0 (R7), taken out of a mask of 8. -/
def dropBank (mask i : Nat) : Nat :=
  match ((span 0 8).filter (fun b => mask.testBit b))[i]? with
  | some b => mask - 2 ^ b
  | none => mask

/-- Map out a bank that has no spare left for a failing row, in the unit that reports it (R316): a local-store bank in ELCAP, a scratchpad bank
in CAPS.SPB, a block of 512 rows in MECAP.ROWS, and, for operand memory, of which no register reports a bank, the matrix engine in MECAP.OK
(DESIGN CHOICE, log 28). -/
def mapOutBank (s : State) (b : Nat) : State :=
  match bankKind b with
  | 0 => modElem s (b / 8) (fun x => { x with bmask := BitVec.ofNat 8 (dropBank x.bmask.toNat (b % 8)) })
  | 1 => modClus s ((b - 2 ^ 20) / 32) (fun x => { x with spb := x.spb - 1 })
  | 2 => modClus s ((b - 2 ^ 21) / 16) (fun x => { x with meOk := false })
  | _ => modClus s (b - 2 ^ 22) (fun x => { x with rows := x.rows - 512, meOk := x.meOk && decide (1024 ≤ x.rows) })

/-- Self-test remaps a bank's failing rows to spares, as far as the spares and the limit of the configuration go (R316, R383). -/
def spareTest (s : State) (b n : Nat) : State :=
  let used := tget s.spares b 0
  let room := Nat.min (spareRows b) (s.regs.limits.getD (bankKind b) 0) - used
  let t : State := { s with spares := tput s.spares b (used + Nat.min n room) }
  if room < n then { t with spent := if t.spent.contains b then t.spent else b :: t.spent } else t

/-- The islands that the controls hold off. -/
def offIslands (s : State) : List Nat := (span 0 16).filter (fun n => dbit (islctl s n) 8)

/-- The island of a bank (R388). -/
def bankIsland (b : Nat) : Nat :=
  match bankKind b with
  | 0 => 3 * (unitOfBank b / 512)
  | 1 => 3 * (unitOfBank b / 64) + 2
  | _ => 3 * (unitOfBank b / 64) + 1

/-- Self-test on the islands that are not off: the rows that fail are remapped, and the banks that lack a spare, now or since the last boot or
refresh, are mapped out (R37, R316, R383). -/
def selfTest (s : State) (r : BootReport) : State :=
  let fails := r.fails.filter (fun p => !(offIslands s).contains (bankIsland p.1))
  let t := fails.foldl (fun u p => spareTest u p.1 p.2) (mapOut s r)
  { t.spent.foldl mapOutBank t with spent := [] }

/-- Elements mapped out, with the others. -/
def killDie (s : State) (d : Nat) : State := { s with deadEl := span (512 * d) 512 ++ s.deadEl.filter (fun e => e / 512 != d) }

/-- Matrix engines of a die mapped out. -/
def killEngines (s : State) (d : Nat) : State :=
  (span (64 * d) 64).foldl (fun t c => modClus t c (fun x => { x with meOk := false, rows := 0 })) s

/-- Map out the resources of an island that is off (R388, R389): of C-die d the elements (3d), the matrix engines (3d + 1), or the
scratchpads and the mesh, without which nothing of the die can be reached (3d + 2; log 28); of I-die 1 its memory links, CXL ports and
fabric ports, and with them its engines (14; log 28). Island 15 holds no resource that the spec names. -/
def islandOff (s : State) (n : Nat) : State :=
  if n < 12 then
    let d := n / 3
    if n % 3 == 0 then killDie s d
    else if n % 3 == 1 then killEngines s d
    else (span (64 * d) 64).foldl (fun t c => modClus t c (fun x => { x with spb := 0 })) (killEngines (killDie s d) d)
  else if n == 14 then
    { (span 8 8).foldl (fun t p => setFpctl t p (tget t.regs.fpctl p 0 &&& ~~~(0x300 : Dword))) s with
      nearDown := s.nearDown.filter (fun l => decide (l < 24)) ++ span 24 24, farCap := s.farCap.filter (fun p => decide (p.1 < 4)) }
  else s

/-- The capability table is fixed: self-test's findings, and every island that is off (R383). -/
def fixCaps (s : State) (r : BootReport) : State := (offIslands s).foldl islandOff (selfTest s r)

/-- What the configuration image writes: the registers, table entries at once; the OFF bits; the self-test limits, the owner key and the list of
storage devices, of which 4 count (R381, R383, R384, R389). MCTL is not among them: only the last stage sets RUN. -/
def configure (s : State) (r : Config.BootConfig) : State :=
  let s1 := (r.writes.filter (fun p => p.1 != 0)).foldl (fun t p => (mgmtWrite t p.1 p.2).2) s
  let s2 := { s1 with regs := { s1.regs.tabPend.foldl (fun q p => putTable q p.1 p.2) s1.regs with
                                  tabPend := [], owner := r.owner, limits := r.limits, storage := r.storage.take 4 } }
  r.offIsl.foldl (fun t n => (writeIsl t n (islctl t n ||| 0x100)).2) s2

/-- A boot that ends in recovery after a stage that verified last. -/
def recover (s : State) (stage : Nat) : State := { s with regs := { s.regs with recovery := true, stage := stage } }

/-- The package as power-on leaves it: the outside world's plans, the model's counter and the boot count stay (R381, R385). -/
def powerOn (s : State) : State :=
  { State.reset with agenda := s.agenda, tick := s.tick, regs := { Regs.reset with boots := s.regs.boots + 1 } }

/-- The SM3 digest of an image (R381). -/
def imageDigest (m : Image) : BitVec 256 := Config.sm3 m.bytes

/-- An image verifies under a public key: the SM2 signature over its digest is good (R381). -/
def verified (key : BitVec 512) (m : Image) : Bool := Config.sm2Verify key (imageDigest m) m.sig

/-- Management firmware: copy A of the flash, then copy B, the first that verifies under the vendor root key (R381, R383). -/
def firmware (r : BootReport) : Option Image :=
  if verified Config.vendorKey r.fwA then some r.fwA else if verified Config.vendorKey r.fwB then some r.fwB else none

/-- What a storage device holds: the image, and its signature in the last 64 bytes (DESIGN CHOICE, log 28). -/
def storedImage (l : List Byte) : Image := { bytes := l.take (l.length - 64), sig := BitVec.ofNat 512 (leNat (l.drop (l.length - 64))) }

/-- The stage 3 image from the first device of a list whose data can be reached, read through a valid window of region 0x8; a fetch that cannot
reach its data is a machine check, and a request that no route takes is counted (R348, R370, R384). -/
def fetchImage (s : State) : List (Nat × Nat) → State × Option Image
  | [] => (s, none)
  | p :: ps =>
    if paRegion p.1 == 8 && populated s p.1 && populated s (p.1 + p.2 - 1) then
      match physRead s p.1 p.2 with
      | some l => (s, some (storedImage l))
      | none => fetchImage (lostRead s p.1) ps
    else fetchImage s ps

/-- The stage 3 image: from flash, or from storage over the fabric (R381, R384). -/
def supervisor (s : State) (r : BootReport) : State × Option Image :=
  match r.supImg with
  | some m => (s, some m)
  | none => fetchImage s s.regs.storage

/-- Stage 3 images are loaded (R383): where their bytes go is a free value (log 28). -/
def loadImage (s : State) (m : Image) : State := (Config.imagePieces m.bytes).foldl (fun t p => physStore t p.1 p.2) s

/-- Stages 2 and 3 up to the capability table: configuration, self-test, and the ports that train (R383). -/
def prepare (s : State) (r : BootReport) : State := r.trained.foldl trainPort (fixCaps (configure s (Config.bootConfig r.cfgImg.bytes)) r)

/-- The last stage: supervisor images that verify under the owner key are measured and loaded, and MCTL.RUN is set (R381, R383). -/
def superviseBoot (s0 : State) (r : BootReport) : State :=
  let f := supervisor s0 r
  match f.2 with
  | none => recover f.1 2
  | some m =>
    if verified f.1.regs.owner m then
      let t := loadImage (measure f.1 2 (imageDigest m)) m
      { t with regs := { t.regs with run := true, stage := 3 } }
    else recover f.1 2

/-- The boot chain (R381, R383): a stage is verified, and measured, before the next one starts; one that fails ends in recovery. -/
def boot (s : State) (r : BootReport) : State :=
  match firmware r with
  | none => recover (powerOn s) 0
  | some m =>
    let s1 := measure (powerOn s) 0 (imageDigest m)
    if verified Config.vendorKey r.cfgImg then superviseBoot (prepare (measure s1 1 (imageDigest r.cfgImg)) r) r else recover s1 1

/-- POWER_ON_RESET (R381, R383). -/
def execPowerOnReset (r : BootReport) (s : State) : Host.Outcome State Fault Refusal := .next (boot s r)

/-- CAPABILITY_REFRESH (R37, R360): while no launch runs; a device in recovery serves none (R383). -/
def execCapabilityRefresh (r : BootReport) (s : State) : Host.Outcome State Fault Refusal :=
  if s.launches.isEmpty && !s.regs.recovery then .next (fixCaps s r) else .next s

/-! ## UNASSIGNED_OPCODE (R64, R76) -/

/-- UNASSIGNED_OPCODE (R64, R76): ILLOP, EVAL holding the word. -/
def execUnassignedOpcode (w : BitVec 32) (s : State) : Host.Outcome State Fault Refusal :=
  perform (trap cILLOP (w.setWidth 64)) s

end Sys2Proof.Machine
end

