-- ==== Sys2Proof/Machine/Sync.lean ====
section
/-! DEFINITION. The SYNC group (R150 to R155). -/

namespace Sys2Proof.Machine

/-- SCREAD (R151). -/
def execScread (d : Reg) (sc : BitVec 8) (s : State) : Host.Outcome State Fault Refusal :=
  perform (do
    let t ← get
    writeReg (instrWord (.scread d sc)) d (counter t (clOf t.cur) sc.toNat).value) s

/-- SCINC (R151). -/
def execScinc (a : Reg) (sc : BitVec 8) (s : State) : Host.Outcome State Fault Refusal :=
  perform (do
    let v ← readReg (instrWord (.scinc a sc)) a
    outbox (.scinc sc.toNat v)) s

/-- SCARM (R151): w[d] the channel, w[a] the value. -/
def execScarm (d a : Reg) (sc : BitVec 8) (s : State) : Host.Outcome State Fault Refusal :=
  perform (do
    let w := instrWord (.scarm d a sc)
    let ch ← readReg w d
    let v ← readReg w a
    if fld ch 63 6 != 0 then trap cILLOP w
    else do
      checkTs
      let t ← get
      outbox (.scarm sc.toNat v ch.toNat (originOf t t.cur))) s

/-- SCEXPECT (R151): w[d] the channel address, w[a] the value. -/
def execScexpect (d a : Reg) (sc : BitVec 8) (s : State) : Host.Outcome State Fault Refusal :=
  perform (do
    let w := instrWord (.scexpect d a sc)
    let ca ← readReg w d
    let v ← readReg w a
    let x ← getE
    if fld ca 63 33 != 0 then trap cILLOP w
    else if chanPriv x (fld ca 32 27) then trap cPRIV w
    else do
      checkTs
      let t ← get
      outbox (.scexpect sc.toNat v ca (originOf t t.cur))) s

/-- SCMODE (R151). -/
def execScmode (a : Reg) (sc : BitVec 8) (s : State) : Host.Outcome State Fault Refusal :=
  perform (do
    let w := instrWord (.scmode a sc)
    let v ← readReg w a
    if fld v 63 1 != 0 then trap cILLOP w else outbox (.scmode sc.toNat (dbit v 0))) s

/-- BARV (R155). -/
def execBarv (a : Reg) (tag : BitVec 5) (s : State) : Host.Outcome State Fault Refusal :=
  perform (do
    let v ← readReg (instrWord (.barv a tag)) a
    let t ← get
    outbox (.barv tag.toNat (v.setWidth 32) (originOf t t.cur))) s

/-- Element i is a member of a BARCFG block (R154). -/
def barMember (l : List Dword) (i : Nat) : Bool := dbit (dwAt l (1 + i / 64)) (i % 64)

/-- The checks of R154 on a block. -/
def barOk (s : State) (l : List Dword) : Bool :=
  let d0 := dwAt l 0
  fld d0 63 14 == 0 && fld d0 7 3 == 0 && decide (fld d0 2 0 ≤ 4)
    && (span 0 elCount).all (fun i => !barMember l i || elUsable s i)

/-- BARCFG (R154). -/
def execBarcfg (a : Reg) (tag : BitVec 5) (s : State) : Host.Outcome State Fault Refusal :=
  perform (do
    let i : Instr := .barcfg a tag
    needSuper i
    let va ← readReg (instrWord i) a
    let l ← readBlock va 33
    let t ← get
    if barOk t l then outbox (.barcfg tag.toNat l) else trap cILLOP (instrWord i)) s

end Sys2Proof.Machine
end

