-- ==== Sys2Proof/Machine/Sys.lean ====
section
/-! DEFINITION. The SYS group (R134 to R142): CSRs (R31 to R35), TRAP, ERET, TLBINV, IFLUSH, BFLD, BFST, NOP, HALT. -/

namespace Sys2Proof.Machine

/-! ## CSRs -/

/-- What a CSR lets a write do: nothing, the plain fields, or the supervisor's (R31). -/
inductive CsrKind where
  | ro | rw | sw
  deriving DecidableEq, Repr

/-- The listed CSRs (R33). -/
def csrKind (n : Nat) : Option CsrKind :=
  if n == 0x000 || n == 0x001 then some .sw
  else if 0x002 ≤ n ∧ n ≤ 0x008 then some .ro
  else if n == 0x010 || n == 0x011 then some .rw
  else if n == 0x012 then some .ro
  else if 0x020 ≤ n ∧ n ≤ 0x025 then some .rw
  else if 0x100 ≤ n ∧ n ≤ 0x106 then some .sw
  else if 0x200 ≤ n ∧ n ≤ 0x206 then some .ro
  else none

/-- CAPS of a cluster: usable elements and clusters of the package, usable scratchpad banks of the cluster (R35). -/
def capsOf (s : State) (c : Nat) : Dword :=
  dw (countIf (elUsable s) (span 0 elCount) * 2 ^ 16 + (clus s c).spb * 2 ^ 9 + countIf (clUsable s) (span 0 256))

/-- MECAP of a cluster (R35). -/
def mecapOf (s : State) (c : Nat) : Dword := dw (bnat (clus s c).meOk * 2 ^ 14 + (clus s c).rows)

/-- The value of a listed CSR of the element whose turn it is (R33, R35). -/
def csrGet (s : State) (n : Nat) : Dword :=
  let x := curElem s
  let c := x.csr
  let i := 4 + idieOf (dieOf s.cur)
  if n == 0x000 then c.status
  else if n == 0x001 then c.wp.setWidth 64
  else if n == 0x002 then c.tsnow
  else if n == 0x003 then c.trun.setWidth 64
  else if n == 0x004 then dw s.roundNo
  else if n == 0x005 then s.regs.rperiod.setWidth 64
  else if n == 0x006 then dw (elAddr s s.cur)
  else if n == 0x007 then c.launchid.setWidth 64
  else if n == 0x008 then c.xferid.setWidth 64
  else if n == 0x010 then c.fpflags.setWidth 64
  else if n == 0x011 then c.fprm.setWidth 64
  else if n == 0x012 then c.vgrant.setWidth 64
  else if n == 0x020 then c.cxdelta.setWidth 64
  else if n == 0x021 then c.cxeps.setWidth 64
  else if n == 0x022 then c.axmode.setWidth 64
  else if n == 0x023 then c.axtau.setWidth 64
  else if n == 0x024 then c.audrate.setWidth 64
  else if n == 0x025 then c.axwsum
  else if n == 0x100 then x.x.epc0.setWidth 64
  else if n == 0x101 then x.x.epc1.setWidth 64
  else if n == 0x102 then x.x.epc2.setWidth 64
  else if n == 0x103 then x.x.eann.setWidth 64
  else if n == 0x104 then x.x.ecause.setWidth 64
  else if n == 0x105 then x.x.eval
  else if n == 0x106 then x.x.eprog.setWidth 64
  else if n == 0x200 then capsOf s (clOf s.cur)
  else if n == 0x201 then dw (x.bmask.toNat * 16 + nbank x)
  else if n == 0x202 then mecapOf s (clOf s.cur)
  else if n == 0x203 then tget (die s i).seeds 0 0
  else if n == 0x204 then tget (die s i).seeds 1 0
  else if n == 0x205 then tget (die s i).seeds 2 0
  else if n == 0x206 then tget (die s i).seeds 3 0
  else 0

/-- Write a CSR: the writable fields take the value, bits in rsv and RO positions are discarded (R31, R34, R135). -/
def csrPut (x : Elem) (n : Nat) (v : Dword) : Elem :=
  if n == 0x000 then { x with csr := { x.csr with status := setIe x.csr.status (dbit v 4) } }
  else if n == 0x001 then { x with csr := { x.csr with wp := v.setWidth 18 } }
  else if n == 0x010 then { x with csr := { x.csr with fpflags := v.setWidth 7 } }
  else if n == 0x011 then { x with csr := { x.csr with fprm := v.setWidth 2 } }
  else if n == 0x020 then { x with csr := { x.csr with cxdelta := v.setWidth 32 } }
  else if n == 0x021 then { x with csr := { x.csr with cxeps := v.setWidth 32 } }
  else if n == 0x022 then { x with csr := { x.csr with axmode := v.setWidth 2 } }
  else if n == 0x023 then { x with csr := { x.csr with axtau := v.setWidth 32 } }
  else if n == 0x024 then { x with csr := { x.csr with audrate := v.setWidth 5 } }
  else if n == 0x025 then { x with csr := { x.csr with axwsum := v } }
  else if n == 0x100 then { x with x := { x.x with epc0 := v.setWidth 55 } }
  else if n == 0x101 then { x with x := { x.x with epc1 := v.setWidth 55 } }
  else if n == 0x102 then { x with x := { x.x with epc2 := v.setWidth 55 } }
  else if n == 0x103 then { x with x := { x.x with eann := v.setWidth 3 } }
  else if n == 0x104 then { x with x := { x.x with ecause := v.setWidth 5 } }
  else if n == 0x105 then { x with x := { x.x with eval := v } }
  else if n == 0x106 then { x with x := { x.x with eprog := v.setWidth 5 } }
  else x

/-- The checks of R31 on an access to a CSR. -/
def csrCheck (w : Dword) (n : Nat) (write : Bool) : M Unit := do
  let x ← getE
  let user := modeOf x == 0
  match csrKind n with
  | none => trap cILLOP w
  | some k =>
    if user && decide (0x100 ≤ n ∧ n ≤ 0x1FF) then trap cPRIV w
    else if write && k == .ro then trap cILLOP w
    else if write && k == .sw && user then trap cPRIV w
    else pure ()

/-- CSRWR, CSRSET and CSRCLR: the new value from the old one and w[a] (R135). -/
def csrOp (w : Dword) (d a : Reg) (csr : BitVec 10) (f : Dword → Dword → Dword) : M Unit := do
  let n := csr.toNat
  csrCheck w n true
  let s ← get
  let old := csrGet s n
  let new := f old (← readReg w a)
  if n == 1 && !wpOk (curElem s) new.toNat then trap cBOUNDS (dw (lsBase + new.toNat))
  else do
    writeReg w d old
    modE (fun x => csrPut x n new)

/-- CSRRD (R135). -/
def execCsrrd (d : Reg) (csr : BitVec 10) (s : State) : Host.Outcome State Fault Refusal :=
  perform (do
    let w := instrWord (.csrrd d csr)
    csrCheck w csr.toNat false
    writeReg w d (csrGet (← get) csr.toNat)) s

/-- CSRWR (R135): new := w[a]. -/
def execCsrwr (d a : Reg) (csr : BitVec 10) (s : State) : Host.Outcome State Fault Refusal :=
  perform (csrOp (instrWord (.csrwr d a csr)) d a csr (fun _ v => v)) s

/-- CSRSET (R135): new := old | w[a]. -/
def execCsrset (d a : Reg) (csr : BitVec 10) (s : State) : Host.Outcome State Fault Refusal :=
  perform (csrOp (instrWord (.csrset d a csr)) d a csr (fun old v => old ||| v)) s

/-- CSRCLR (R135): new := old & ~w[a]. -/
def execCsrclr (d a : Reg) (csr : BitVec 10) (s : State) : Host.Outcome State Fault Refusal :=
  perform (csrOp (instrWord (.csrclr d a csr)) d a csr (fun old v => old &&& ~~~v)) s

/-! ## TRAP and ERET -/

/-- TRAP (R136): code 31 raises BREAK, the others TRAPI, with the code in EVAL. -/
def execTrap (code : BitVec 5) (s : State) : Host.Outcome State Fault Refusal :=
  perform (trap (if code == 31 then cBREAK else cTRAPI) (code.setWidth 64)) s

/-- A saved address with bits [1:0] taken as 0 (R137). -/
def wordAddr (a : Addr) : Addr := a &&& ~~~3

/-- The sequencing state that EPC0 to EPC2 and EANN hold (R137). -/
def seqSaved (x : XCsrs) : Seq :=
  { p := wordAddr x.epc0, n1 := wordAddr x.epc1, n2 := wordAddr x.epc2,
    ap := x.eann.getLsbD 2, a1 := x.eann.getLsbD 1, a2 := x.eann.getLsbD 0 }

/-- The return from a trap (R137, R363): one operation, beside takeTrap. -/
def eretElem (x : Elem) : Elem :=
  let mode := match x.run with | some r => r.entry.mode | none => 0
  { x with seq := seqSaved x.x, afterEret := true,
           csr := { x.csr with status := setMode (setTrap x.csr.status false) mode, wp := x.twp, fpflags := x.tfpf,
                               fprm := x.tfpr } }

/-- ERET (R137). -/
def execEret (s : State) : Host.Outcome State Fault Refusal :=
  performAs (do
    needSuper .eret
    let x ← getE
    if stTrap x.csr.status then modE eretElem else trap cILLOP (instrWord .eret)) s

/-! ## TLBINV, IFLUSH, BFLD, BFST, NOP, HALT -/

/-- Drop translations in the element's TLB and its cluster's. -/
def tlbDropHere (s : State) (kind asid va : Nat) : State :=
  modClus (modCur s (fun x => { x with tlb := tlbDrop kind asid va x.tlb })) (clOf s.cur)
    (fun x => { x with tlb := tlbDrop kind asid va x.tlb })

/-- TLBINV (R139): immediate; with kind bit 2 in every TLB of the package. -/
def execTlbinv (a b : Reg) (kind : BitVec 5) (s : State) : Host.Outcome State Fault Refusal :=
  perform (do
    let i : Instr := .tlbinv a b kind
    needSuper i
    let va ← readReg (instrWord i) a
    let asid ← readReg (instrWord i) b
    let k := kind.toNat % 4
    if kind.getLsbD 2 then modify (fun t => tlbDropAll t k (asid.toNat % 65536) va.toNat)
    else modify (fun t => tlbDropHere t k (asid.toNat % 65536) va.toNat)) s

/-- IFLUSH (R140): every fetch of the model reads memory as it stands, so it only goes on (log 16). -/
def execIflush (s : State) : Host.Outcome State Fault Refusal := perform (pure ()) s

/-- BFLD (R141, R82). -/
def execBfld (a : Reg) (n : BitVec 5) (s : State) : Host.Outcome State Fault Refusal :=
  perform (do
    let w := instrWord (.bfld a n)
    if n == 0 then trap cILLOP w
    else do
      let va ← readReg w a
      let off ← lsRange va.toNat 32 32
      let r := BitVec.ofNat 256 (leNat (← lsLoad off 32))
      let x ← getE
      if !recOk r then trap cILLOP w
      else if modeOf x == 0 && recAsid r != 0 then trap cPRIV w
      else modE (fun y => { y with bf := tput y.bf n.toNat r })) s

/-- BFST (R141). -/
def execBfst (a : Reg) (n : BitVec 5) (s : State) : Host.Outcome State Fault Refusal :=
  perform (do
    let w := instrWord (.bfst a n)
    let x ← getE
    if n == 0 && modeOf x == 0 then trap cPRIV w
    else do
      let va ← readReg w a
      let off ← lsRange va.toNat 32 32
      let r := (bfReg x n.toNat).toNat
      lsStoreDwords off ((span 0 4).map (fun i => dw (nbits r (64 * i + 63) (64 * i))))) s

/-- NOP (R142). -/
def execNop (s : State) : Host.Outcome State Fault Refusal := perform (pure ()) s

/-- HALT (R142): ends the task as TEND does; the element then starts none until a WAKE. -/
def execHalt (s : State) : Host.Outcome State Fault Refusal :=
  performAs (do
    needSuper .halt
    let x ← getE
    if stTrap x.csr.status then trap cILLOP (instrWord .halt)
    else do
      let t ← get
      set (modElem (finishRun t t.cur) t.cur (fun y => { y with halted := true }))) s

end Sys2Proof.Machine
end

