-- ==== Sys2Proof/Machine/Vec.lean ====
section
/-! DEFINITION. The vector unit's operand forms: registers and masks (R28, R92, R169, R170), elementwise operations, reduction
trees (R104), element addresses (R175, R176), and the lane pool (R163). -/

namespace Sys2Proof.Machine

/-! ## Registers and masks -/

/-- A vector register. -/
def getV (x : Elem) (r : BitVec 5) : BitVec 4096 := tget x.v r.toNat 0

/-- A mask: m0 reads as all ones. -/
def getMask (x : Elem) (m : BitVec 3) : BitVec 2048 := if m == 0 then BitVec.allOnes 2048 else tget x.m m.toNat 0

/-- Write a mask: writes to m0 are discarded. -/
def putMask (x : Elem) (m : BitVec 3) (v : BitVec 2048) : Elem := if m == 0 then x else { x with m := tput x.m m.toNat v }

/-- n elements of b bits of a number, the first lowest. -/
def elemsOf (b n v : Nat) : List Nat := (span 0 n).map (fun i => v / 2 ^ (b * i) % 2 ^ b)

/-- Elements of b bits, packed. -/
def packElems (b : Nat) (l : List Nat) : Nat := l.foldr (fun x acc => x % 2 ^ b + 2 ^ b * acc) 0

/-- The element count of a format at a grant (R92). -/
def vCount (f : Fmt) (g : Nat) : Nat := 512 * g / fmtBits f

/-- The elements of a register in a format at a grant. -/
def vElems (x : Elem) (f : Fmt) (g : Nat) (r : BitVec 5) : List Nat := elemsOf (fmtBits f) (vCount f g) (getV x r).toNat

/-- Write a register. -/
def putV (x : Elem) (r : BitVec 5) (f : Fmt) (l : List Nat) : Elem :=
  { x with v := tput x.v r.toNat (BitVec.ofNat 4096 (packElems (fmtBits f) l)) }

/-- Bit i of a mask. -/
def active (m : BitVec 2048) (i : Nat) : Bool := m.getLsbD i

/-- The grant; ILLOP while it is 0 (R28, R169). -/
def vGrant (w : Dword) : M Nat := do
  let x ← getE
  if x.csr.g == 0 then trap cILLOP w else pure x.csr.g

/-- A format as the VLS group moves it: TERN2 as UINT8 (R174). -/
def rawFmt (f : Fmt) : Fmt := if f == .tern2 then .uint8 else f

/-- Replace the active elements of old by results, gathering the flags of those (R169). -/
def blend (m : BitVec 2048) : Nat → List Nat → List (Nat × Nat) → List Nat × Nat
  | _, [], _ => ([], 0)
  | _, old, [] => (old, 0)
  | i, o :: old, r :: rs =>
    let t := blend m (i + 1) old rs
    if active m i then (r.1 :: t.1, r.2 ||| t.2) else (o :: t.1, t.2)

/-- Write the active elements of a register and raise their flags. -/
def writeV (vd : BitVec 5) (m : BitVec 3) (f : Fmt) (g : Nat) (rs : List (Nat × Nat)) : M Unit := do
  let x ← getE
  let t := blend (getMask x m) 0 (vElems x f g vd) rs
  modE (fun y => putV y vd f t.1)
  raise t.2

/-- An elementwise operation of two sources, with the old destination and the rounding mode. -/
def vOp (w : Dword) (vd va vb : BitVec 5) (m : BitVec 3) (f : Fmt) (op : Nat → Nat → Nat → Nat → Nat × Nat) : M Unit := do
  let g ← vGrant w
  let x ← getE
  let rm ← roundMode
  let rs := List.zipWith (fun (o : Nat) (p : Nat × Nat) => op rm o p.1 p.2) (vElems x f g vd)
    ((vElems x f g va).zip (vElems x f g vb))
  writeV vd m f g rs

/-- An elementwise operation of one source. -/
def vOp1 (w : Dword) (vd va : BitVec 5) (m : BitVec 3) (f : Fmt) (op : Nat → Nat → Nat × Nat) : M Unit :=
  vOp w vd va va m f (fun rm _ a _ => op rm a)

/-- An elementwise operation without flags, by kind of format. -/
def vBits (w : Dword) (vd va vb : BitVec 5) (m : BitVec 3) (f : Fmt) (op : Nat → Nat → Nat) : M Unit :=
  vOp w vd va vb m f (fun _ _ a b => (op a b % 2 ^ fmtBits f, 0))

/-- A conversion: active elements below both counts, the destination zero from there on (R183, R184). -/
def vConv (w : Dword) (vd va : BitVec 5) (m : BitVec 3) (src dst : Fmt) (op : Nat → Nat → Nat × Nat) : M Unit := do
  let g ← vGrant w
  let x ← getE
  let rm ← roundMode
  let k := Nat.min (vCount src g) (vCount dst g)
  let rs := ((vElems x src g va).take k).map (op rm)
  let t := blend (getMask x m) 0 ((vElems x dst g vd).take k) rs
  modE (fun y => putV y vd dst t.1)
  raise t.2

/-- A comparison writes a mask: bits of inactive elements and bits from n on are 0 (R180). -/
def vCmp (w : Dword) (md : BitVec 3) (va vb : BitVec 5) (m : BitVec 3) (f : Fmt) (op : Nat → Nat → Bool × Nat) : M Unit := do
  let g ← vGrant w
  let x ← getE
  let mk := getMask x m
  let rs := List.zipWith op (vElems x f g va) (vElems x f g vb)
  let t := blend mk 0 (rs.map (fun _ => 0)) (rs.map (fun r => (bnat r.1, r.2)))
  modE (fun y => putMask y md (BitVec.ofNat 2048 (packElems 1 t.1)))
  raise t.2

/-! ## Reductions (R104) -/

/-- OP on elements that may be absent. -/
def optOp (op : Nat → Nat → Nat × Nat) (a b : Option Nat) : Option Nat × Nat :=
  match a, b with
  | some x, some y => let r := op x y; (some r.1, r.2)
  | some x, none => (some x, 0)
  | none, some y => (some y, 0)
  | none, none => (none, 0)

/-- The steps of the tree on 2^k elements. -/
def treeSteps (op : Nat → Nat → Nat × Nat) : Nat → List (Option Nat) → Nat → Option Nat × Nat
  | 0, l, fl => (l.headD none, fl)
  | k + 1, l, fl =>
    let rs := List.zipWith (optOp op) (l.take (2 ^ k)) (l.drop (2 ^ k))
    treeSteps op k (rs.map (·.1)) (rs.foldl (fun a r => a ||| r.2) fl)

/-- The least k with n at most 2^k. -/
def log2Up (n : Nat) : Nat := bitLen (n - 1)

/-- Reduce the active elements of a list by the tree. -/
def treeReduce (op : Nat → Nat → Nat × Nat) (m : BitVec 2048) (l : List Nat) : Option Nat × Nat :=
  let k := log2Up l.length
  let es := (l.zip (span 0 l.length)).map (fun p => if active m p.2 then some p.1 else none)
  treeSteps op k (es ++ List.replicate (2 ^ k - l.length) none) 0

/-- A scalar result as w[d] receives it: floating and unsigned zero-extended, signed integers sign-extended (R185). -/
def vResult (f : Fmt) (v : Nat) : Dword := if isFloat f then dw v else BitVec.ofInt 64 (intVal f v)

/-- A reduction into w[d] (R185); the result of no element is given. -/
def vReduce (w : Dword) (d : Reg) (va : BitVec 5) (m : BitVec 3) (f : Fmt) (op : Nat → Nat → Nat → Nat × Nat) (one : Nat → Nat × Nat)
    (empty : Nat) : M Unit := do
  let g ← vGrant w
  let x ← getE
  let rm ← roundMode
  let r := treeReduce (op rm) (getMask x m) (vElems x f g va)
  match r.1 with
  | none => writeReg w d (vResult f empty)
  | some v => do
    writeReg w d (vResult f (one v).1)
    raise (r.2 ||| (one v).2)

/-! ## Element addresses (R175, R176) -/

/-- Where the elements of an access lie: contiguous from an offset, strided from an offset, or by an index register. -/
inductive VAddr where
  | unit (off : Nat)
  | strided (off : Nat)
  | indexed (idx : List Nat)
  deriving DecidableEq, Repr

/-- The offset of element i from rec.BASE, modulo 2^64. -/
def vOff (a : VAddr) (rec' : BitVec 256) (sz i : Nat) : Nat :=
  let c := 64 / sz
  match a with
  | .unit off => (off + i * sz) % 2 ^ 64
  | .strided off =>
    (((off : Int) + (i % c : Nat) * recStride1 rec' + (i / c : Nat) * recStride2 rec') % (2 ^ 64 : Nat)).toNat
  | .indexed idx => ((BitVec.ofNat 32 (idx.getD i 0)).signExtend 64).toNat

/-- The active elements of an access, ascending. -/
def vActive (x : Elem) (m : BitVec 3) (n : Nat) : List Nat := (span 0 n).filter (active (getMask x m))

/-- The count of elements an access covers. -/
def vAccCount (a : VAddr) (f : Fmt) (g : Nat) : Nat :=
  match a with
  | .unit _ => vCount f g
  | .strided _ => vCount f g
  | .indexed _ => Nat.min (vCount f g) (16 * g)

/-- Check elements in order: their places. -/
def vCheck (w : Dword) (k : AccKind) (bf sz : Nat) (a : VAddr) : List Nat → M (List (Nat × Acc))
  | [] => pure []
  | i :: is => do
    let x ← getE
    let p ← checkAt w k bf (vOff a (bfReg x bf) sz i) sz
    let r ← vCheck w k bf sz a is
    pure ((i, p) :: r)

/-- Load elements from their places, the k-th on, with the values of those before it and the line that this execution has read: each
line outside local store is a LOAD of its own (R277), and a load that comes to another line keeps what it has for the
instruction's next execution. -/
def vLoads (sz : Nat) : List Acc → Nat → List Nat → Option Nat → M (List Nat)
  | [], _, got, _ => do
    modE (fun x => setVgot x 0 [])
    pure got
  | p :: ps, k, got, last => do
    let s ← get
    let x := curElem s
    if k < vdoneOf x then vLoads sz ps (k + 1) (got ++ [(vgotOf x).getD k 0]) last
    else if last.isSome && (accLine p).isSome && last != accLine p then throw (.wait (modCur s (fun y => setVgot y k got)))
    else do
      let l ← loadAcc p sz
      vLoads sz ps (k + 1) (got ++ [leNat l]) (if (accLine p).isSome then accLine p else last)

/-- A place and a value as numbers, as a stalled store keeps them. -/
def storeNats (p : Acc × Nat) : List Nat :=
  match p.1 with
  | .zero => [0, 0, 0, 0, 0, p.2]
  | .loc off => [1, off, 0, 0, 0, p.2]
  | .phys pa va codec untr => [2, pa, va, codec, bnat untr, p.2]

/-- The place and the value that numbers stand for. -/
def natsStore (l : List Nat) : Acc × Nat :=
  let n (i : Nat) : Nat := l.getD i 0
  (match n 0 with | 0 => .zero | 1 => .loc (n 1) | _ => .phys (n 1) (n 2) (n 3) (n 4 == 1), n 5)

/-- What a stalled store still has to write. -/
def heldStores (l : List Nat) : List (Acc × Nat) := (pieces 6 l).map natsStore

/-- Store elements at their places, of which k have been stored before; a serial run of device or system scope that finds a buffer full
keeps the rest for the instruction's next execution (R133, R282), or all of it anew where nothing is stored yet. -/
def vStores (sz : Nat) : List (Acc × Nat) → Nat → M Unit
  | [], _ => modE (fun x => setVgot x 0 [])
  | (p, v) :: ps, k => do
    let s ← get
    match storeAcc p (leBytes sz v) s with
    | .ok (_, t) => do set t; vStores sz ps (k + 1)
    | .error (.full m) =>
      let rest := if k == 0 then [] else ((p, v) :: ps).flatMap storeNats
      throw (.wait (modCur (keepMarks s m) (fun x => { setVgot x k rest with stall := .full })))
    | .error e => throw e

/-- A vector load (R177). -/
def vLoad (w : Dword) (vd : BitVec 5) (bf : BitVec 4) (m : BitVec 3) (f0 : Fmt) (g : Nat) (a : VAddr) : M Unit := do
  let f := rawFmt f0
  let x ← getE
  let sz := fmtBytes f
  let ps ← vCheck w .load bf.toNat sz a (vActive x m (vAccCount a f g))
  let vs ← vLoads sz (ps.map (·.2)) 0 [] none
  modE (fun y => putV y vd f (((ps.map (·.1)).zip vs).foldl (fun l v => l.set v.1 v.2) (vElems x f g vd)))

/-- A vector store that has stalled goes on with what it has read and checked: it reads no source and checks no element again (R169,
R176, R282). -/
def vStoreOn (f : Fmt) : M Unit := do
  let x ← getE
  vStores (fmtBytes (rawFmt f)) (heldStores (vgotOf x)) (vdoneOf x)

/-- A vector store (R177). -/
def vStore (w : Dword) (vd : BitVec 5) (bf : BitVec 4) (m : BitVec 3) (f0 : Fmt) (g : Nat) (a : VAddr) : M Unit := do
  let f := rawFmt f0
  let x ← getE
  let sz := fmtBytes f
  let es := vElems x f g vd
  let ps ← vCheck w .store bf.toNat sz a (vActive x m (vAccCount a f g))
  vStores sz (ps.map (fun p => (p.2, es.getD p.1 0))) 0

/-! ## The lane pool (R163) -/

/-- The lane groups of a cluster in a state, ascending. -/
def lanesIn (x : Cluster) (l : Lane) : List Nat := (span 0 8).filter (fun i => x.lanes.getD i .free == l)

/-- Put lane groups into a state. -/
def setLanes (x : Cluster) (is : List Nat) (l : Lane) : Cluster := { x with lanes := is.foldl (fun t i => t.set i l) x.lanes }

/-- The launch of the run that holds an element's grant: the interrupted one where an urgent task runs. -/
def grantLid (x : Elem) : BitVec 32 :=
  match x.under with
  | some u => u.run.ev.lid
  | none => match x.run with | some r => r.ev.lid | none => 0

/-- Groups held in a cluster by other tasks of a launch. -/
def othersHold (s : State) (e : Nat) (lid : BitVec 32) : Nat :=
  let x := clus s (clOf e)
  ((span (8 * clOf e) 8).filter (fun k => k != e && grantLid (elem s k) == lid)).foldl
    (fun n k => n + (lanesIn x (.held k)).length) 0

/-- cap: the lane quota of a launch less what its other tasks hold (R164); 0 in the record means 8. A task of no active launch has no
record to take a quota from: 8 (DESIGN CHOICE, log 49). -/
def laneCap (s : State) (e : Nat) (lid : BitVec 32) : Nat :=
  let q := match launchOf s lid with | some l => if recLanes l.rcd == 0 then 8 else recLanes l.rcd | none => 8
  q - othersHold s e lid

/-- VGRANT for held groups. -/
def grantOf (held : List Nat) : BitVec 12 := BitVec.ofNat 12 (held.length + held.foldl (fun v i => v + 2 ^ i) 0 * 16)

/-- A grant: VGRANT, the registers zeroed and the masks cleared (R28). -/
def setGrant (x : Elem) (held : List Nat) : Elem := { x with csr := { x.csr with vgrant := grantOf held }, v := [], m := [] }

/-- An element's request is waiting: its want, min, priority (R165). -/
def waitingReq (s : State) (e : Nat) : Option LaneReq :=
  match (elem s e).req with
  | some r => if (lanesIn (clus s (clOf e)) (.held e)).length < r.want then some r else none
  | none => none

/-- The waiting requests of the other elements of a cluster, ascending. -/
def othersWaiting (s : State) (e : Nat) : List (Nat × LaneReq) :=
  ((span (8 * clOf e) 8).filter (· != e)).filterMap (fun k => (waitingReq s k).map (fun r => (k, r)))

/-- The request of highest priority, ties to the lowest element. -/
def bestReq : List (Nat × LaneReq) → Option (Nat × LaneReq)
  | [] => none
  | r :: l =>
    match bestReq l with
    | none => some r
    | some t => if r.2.prio < t.2.prio then some t else some r

end Sys2Proof.Machine
end

