-- ==== Sys2Proof/Machine/Vector.lean ====
section
/-! DEFINITION. The vector pool instructions: VCTL, VLS, VARITH, VSFU, VCVT and VRED (R163 to R188, R244, R245). -/

namespace Sys2Proof.Machine

/-! ## VCTL: claims (R164, R166, R167) -/

/-- The grant of R164, and the state with it. A request that a full grant ends leaves no group reserved (DESIGN CHOICE, log 49: the spec does
not say what becomes of groups that the request had reserved beyond the grant). -/
def claimLanes (s : State) (want min : Nat) : Nat × State :=
  let e := s.cur
  let x := curElem s
  let c := clus s (clOf e)
  let avail := lanesIn c (.reserved e) ++ lanesIn c .free
  let g0 := Nat.min want (Nat.min avail.length (laneCap s e x.csr.lid))
  let g := if g0 < min then 0 else g0
  let s1 := modClus s (clOf e) (fun y => setLanes y (avail.take g) (.held e))
  let q : LaneReq := { want := want, min := min, prio := stPrio x.csr.status, num := match x.run with | some r => r.ev.num | none => 0,
                       lid := x.csr.lid }
  let s2 := modCur s1 (fun y =>
    { (if g == 0 then y else setGrant y (lanesIn (clus s1 (clOf e)) (.held e))) with req := some q })
  (g, if g == want then freeReserved s2 e else s2)

/-- VCLAIM (R164). -/
def execVclaim (d a b : Reg) (s : State) : Host.Outcome State Fault Refusal :=
  perform (do
    let w := instrWord (.vclaim d a b)
    let x ← getE
    if x.csr.g != 0 then trap cILLOP w
    else do
      let want := (← readReg w a).toNat
      let min := (← readReg w b).toNat
      if want < 1 ∨ 8 < want ∨ min < 1 ∨ want < min then writeReg w d minus2
      else if isUrgent x then writeReg w d 0
      else do
        let r := claimLanes (← get) want min
        set r.2
        writeReg w d (dw r.1)) s

/-- What VSYNC does to the lanes of the cluster (R166): groups given away, or groups taken. Groups still reserved for the element once it
holds all it wants stay reserved (DESIGN CHOICE, log 49: the spec does not say). -/
def syncLanes (s : State) : State :=
  let e := s.cur
  let x := curElem s
  let c := clus s (clOf e)
  let g := x.csr.g
  let prio := stPrio x.csr.status
  let others := othersWaiting s e
  let free := lanesIn c .free
  match x.req with
  | none => s
  | some q =>
    match bestReq (others.filter (fun o => prio < o.2.prio)) with
    | some o =>
      let short := o.2.want - ((lanesIn c (.held o.1)).length + (lanesIn c (.reserved o.1)).length + free.length)
      let give := Nat.min short (g - q.min)
      modClus s (clOf e) (fun y => setLanes y ((lanesIn c (.held e)).drop (g - give)) (.reserved o.1))
    | none =>
      if g < q.want && others.all (fun o => o.2.prio < prio) then
        let n := Nat.min (q.want - g) (Nat.min free.length (laneCap s e x.csr.lid - g))
        modClus s (clOf e) (fun y => setLanes y (free.take n) (.held e))
      else s

/-- VSYNC (R166). -/
def execVsync (d : Reg) (s : State) : Host.Outcome State Fault Refusal :=
  perform (do
    let w := instrWord (.vsync d)
    let _ ← vGrant w
    let t ← get
    let before := lanesIn (clus t (clOf t.cur)) (.held t.cur)
    let u := syncLanes t
    let after := lanesIn (clus u (clOf u.cur)) (.held u.cur)
    let changed := before != after
    set u
    modE (fun x => if changed then setGrant x after else x)
    let x ← getE
    writeReg w d (dw (x.csr.g + bnat changed * 256))) s

/-- VFREE (R167). -/
def execVfree (s : State) : Host.Outcome State Fault Refusal :=
  perform (do
    let _ ← vGrant (instrWord .vfree)
    modify (fun t => freeReserved (freeLanes t t.cur) t.cur)
    modE (fun x => { x with csr := { x.csr with vgrant := 0 }, req := none, v := [], m := [] })) s

/-! ## VCTL: masks and index vectors (R171 to R173) -/

/-- An operation on whole masks (R171). -/
def maskLogic (w : Dword) (md : BitVec 3) (f : Elem → BitVec 2048) : M Unit := do
  let _ ← vGrant w
  modE (fun x => putMask x md (f x))

/-- VMLOGIC.AND (R171). -/
def execVmlogicAnd (md ma mb : BitVec 3) (s : State) : Host.Outcome State Fault Refusal :=
  perform (maskLogic (instrWord (.vmlogicAnd md ma mb)) md (fun x => getMask x ma &&& getMask x mb)) s

/-- VMLOGIC.OR (R171). -/
def execVmlogicOr (md ma mb : BitVec 3) (s : State) : Host.Outcome State Fault Refusal :=
  perform (maskLogic (instrWord (.vmlogicOr md ma mb)) md (fun x => getMask x ma ||| getMask x mb)) s

/-- VMLOGIC.XOR (R171). -/
def execVmlogicXor (md ma mb : BitVec 3) (s : State) : Host.Outcome State Fault Refusal :=
  perform (maskLogic (instrWord (.vmlogicXor md ma mb)) md (fun x => getMask x ma ^^^ getMask x mb)) s

/-- VMLOGIC.ANDN (R171). -/
def execVmlogicAndn (md ma mb : BitVec 3) (s : State) : Host.Outcome State Fault Refusal :=
  perform (maskLogic (instrWord (.vmlogicAndn md ma mb)) md (fun x => getMask x ma &&& ~~~(getMask x mb))) s

/-- VMLOGIC.NOT (R171). -/
def execVmlogicNot (md ma : BitVec 3) (s : State) : Host.Outcome State Fault Refusal :=
  perform (maskLogic (instrWord (.vmlogicNot md ma)) md (fun x => ~~~(getMask x ma))) s

/-- VMLOGIC.MOV (R171). -/
def execVmlogicMov (md ma : BitVec 3) (s : State) : Host.Outcome State Fault Refusal :=
  perform (maskLogic (instrWord (.vmlogicMov md ma)) md (fun x => getMask x ma)) s

/-- VMLOGIC.SET (R171). -/
def execVmlogicSet (md : BitVec 3) (s : State) : Host.Outcome State Fault Refusal :=
  perform (maskLogic (instrWord (.vmlogicSet md)) md (fun _ => BitVec.allOnes 2048)) s

/-- VMLOGIC.CLR (R171). -/
def execVmlogicClr (md : BitVec 3) (s : State) : Host.Outcome State Fault Refusal :=
  perform (maskLogic (instrWord (.vmlogicClr md)) md (fun _ => 0)) s

/-- VMPOP (R172): the number of one bits of a mask. -/
def execVmpop (d : Reg) (ma : BitVec 3) (s : State) : Host.Outcome State Fault Refusal :=
  perform (do
    let w := instrWord (.vmpop d ma)
    let _ ← vGrant w
    let x ← getE
    writeReg w d (dw (popCount (getMask x ma).toNat 2048))) s

/-- VIOTA (R173): (w[a] + i × w[b]) mod 2^b. -/
def execViota (vd : BitVec 5) (a b : Reg) (m : BitVec 3) (f : Fmt) (s : State) : Host.Outcome State Fault Refusal :=
  perform (do
    let w := instrWord (.viota vd a b m f)
    let g ← vGrant w
    let x ← readReg w a
    let y ← readReg w b
    writeV vd m f g ((span 0 (vCount f g)).map (fun i => ((x.toNat + i * y.toNat) % 2 ^ fmtBits f, 0)))) s

/-! ## VLS (R174 to R178) -/

/-- PRIV of an access with an active element, which comes before w[x] is read (R117, R176). -/
def vPriv (w : Dword) (bf : BitVec 4) (m : BitVec 3) (f : Fmt) (g : Nat) : M Unit := do
  let x ← getE
  if (vActive x m (vCount (rawFmt f) g)).isEmpty then pure () else bfPriv w bf.toNat

/-- A contiguous access with its offset in a workspace register (R175). -/
def vlsUnit (w : Dword) (store : Bool) (vd : BitVec 5) (bf : BitVec 4) (x : Reg) (m : BitVec 3) (f : Fmt) : M Unit := do
  let e ← getE
  if store && vdoneOf e != 0 then vStoreOn f
  else do
    let g ← vGrant w
    vPriv w bf m f g
    let off ← readReg w x
    if store then vStore w vd bf m f g (.unit off.toNat) else vLoad w vd bf m f g (.unit off.toNat)

/-- A strided access (R175). -/
def vlsStrided (w : Dword) (store : Bool) (vd : BitVec 5) (bf : BitVec 4) (x : Reg) (m : BitVec 3) (f : Fmt) : M Unit := do
  let e ← getE
  if store && vdoneOf e != 0 then vStoreOn f
  else do
    let g ← vGrant w
    vPriv w bf m f g
    let off ← readReg w x
    if store then vStore w vd bf m f g (.strided off.toNat) else vLoad w vd bf m f g (.strided off.toNat)

/-- An access by an index register (R175). -/
def vlsIndexed (w : Dword) (store : Bool) (vd : BitVec 5) (bf : BitVec 4) (vi : BitVec 5) (m : BitVec 3) (f : Fmt) : M Unit := do
  let e ← getE
  if store && vdoneOf e != 0 then vStoreOn f
  else do
    let g ← vGrant w
    let y ← getE
    let idx := elemsOf 32 (16 * g) (getV y vi).toNat
    if store then vStore w vd bf m f g (.indexed idx) else vLoad w vd bf m f g (.indexed idx)

/-- VLD (R175, R177). -/
def execVld (vd : BitVec 5) (bf : BitVec 4) (x : Reg) (m : BitVec 3) (f : Fmt) (s : State) : Host.Outcome State Fault Refusal :=
  perform (vlsUnit (instrWord (.vld vd bf x m f)) false vd bf x m f) s

/-- VST (R175, R177). -/
def execVst (vd : BitVec 5) (bf : BitVec 4) (x : Reg) (m : BitVec 3) (f : Fmt) (s : State) : Host.Outcome State Fault Refusal :=
  perform (vlsUnit (instrWord (.vst vd bf x m f)) true vd bf x m f) s

/-- VLDS (R175, R177). -/
def execVlds (vd : BitVec 5) (bf : BitVec 4) (x : Reg) (m : BitVec 3) (f : Fmt) (s : State) : Host.Outcome State Fault Refusal :=
  perform (vlsStrided (instrWord (.vlds vd bf x m f)) false vd bf x m f) s

/-- VSTS (R175, R177). -/
def execVsts (vd : BitVec 5) (bf : BitVec 4) (x : Reg) (m : BitVec 3) (f : Fmt) (s : State) : Host.Outcome State Fault Refusal :=
  perform (vlsStrided (instrWord (.vsts vd bf x m f)) true vd bf x m f) s

/-- VLDX (R175, R177). -/
def execVldx (vd : BitVec 5) (bf : BitVec 4) (vi : BitVec 5) (m : BitVec 3) (f : Fmt) (s : State) : Host.Outcome State Fault Refusal :=
  perform (vlsIndexed (instrWord (.vldx vd bf vi m f)) false vd bf vi m f) s

/-- VSTX (R175, R177). -/
def execVstx (vd : BitVec 5) (bf : BitVec 4) (vi : BitVec 5) (m : BitVec 3) (f : Fmt) (s : State) : Host.Outcome State Fault Refusal :=
  perform (vlsIndexed (instrWord (.vstx vd bf vi m f)) true vd bf vi m f) s

/-- VBCAST (R178): the low bits of w[a] to every active element. -/
def execVbcast (vd : BitVec 5) (a : Reg) (m : BitVec 3) (f : Fmt) (s : State) : Host.Outcome State Fault Refusal :=
  perform (do
    let w := instrWord (.vbcast vd a m f)
    let g ← vGrant w
    let v ← readReg w a
    let r := rawFmt f
    writeV vd m r g (List.replicate (vCount r g) (v.toNat % 2 ^ fmtBits r, 0))) s

/-- VEXTR (R178): element w[b], 0 beyond the last. -/
def execVextr (d : Reg) (va : BitVec 5) (b : Reg) (f : Fmt) (s : State) : Host.Outcome State Fault Refusal :=
  perform (do
    let w := instrWord (.vextr d va b f)
    let g ← vGrant w
    let i ← readReg w b
    let x ← getE
    let r := rawFmt f
    writeReg w d (vResult r ((vElems x r g va).getD i.toNat 0))) s

/-- VINS (R178): the low bits of w[a] to element w[b]; nothing beyond the last. -/
def execVins (vd : BitVec 5) (a b : Reg) (f : Fmt) (s : State) : Host.Outcome State Fault Refusal :=
  perform (do
    let w := instrWord (.vins vd a b f)
    let g ← vGrant w
    let v ← readReg w a
    let i ← readReg w b
    let r := rawFmt f
    modE (fun x =>
      if i.toNat < vCount r g then putV x vd r ((vElems x r g vd).set i.toNat (v.toNat % 2 ^ fmtBits r)) else x)) s

/-! ## VARITH (R179 to R181) -/

/-- An operation that is floating in the floating formats and on integers in the others. -/
def vArith (w : Dword) (vd va vb : BitVec 5) (m : BitVec 3) (f : Fmt) (fp : Nat → Nat → Nat → Nat → Nat × Nat)
    (int : Nat → Nat → Nat → Nat) : M Unit :=
  vOp w vd va vb m f (fun rm o a b => if isFloat f then fp rm o a b else (int o a b % 2 ^ fmtBits f, 0))

/-- The lesser of two integers of a format. -/
def intMin (f : Fmt) (a b : Nat) : Nat := if intVal f a ≤ intVal f b then a else b
/-- The greater of two integers of a format. -/
def intMax (f : Fmt) (a b : Nat) : Nat := if intVal f a ≤ intVal f b then b else a
/-- The bits that negate an integer. -/
def intNeg (f : Fmt) (a : Nat) : Nat := 2 ^ fmtBits f - a

/-- VADD (R179). -/
def execVadd (vd va vb : BitVec 5) (m : BitVec 3) (f : Fmt) (s : State) : Host.Outcome State Fault Refusal :=
  perform (vArith (instrWord (.vadd vd va vb m f)) vd va vb m f (fun rm _ a b => fpAdd f rm a b) (fun _ a b => a + b)) s

/-- VSUB (R179). -/
def execVsub (vd va vb : BitVec 5) (m : BitVec 3) (f : Fmt) (s : State) : Host.Outcome State Fault Refusal :=
  perform (vArith (instrWord (.vsub vd va vb m f)) vd va vb m f (fun rm _ a b => fpSub f rm a b)
    (fun _ a b => a + intNeg f b)) s

/-- VMUL (R179). -/
def execVmul (vd va vb : BitVec 5) (m : BitVec 3) (f : Fmt) (s : State) : Host.Outcome State Fault Refusal :=
  perform (vArith (instrWord (.vmul vd va vb m f)) vd va vb m f (fun rm _ a b => fpMul f rm a b) (fun _ a b => a * b)) s

/-- VFMA (R179): d := a × b + d. -/
def execVfma (vd va vb : BitVec 5) (m : BitVec 3) (f : Fmt) (s : State) : Host.Outcome State Fault Refusal :=
  perform (vArith (instrWord (.vfma vd va vb m f)) vd va vb m f (fun rm o a b => fpFma f rm a b o) (fun o a b => a * b + o)) s

/-- VMIN (R179). -/
def execVmin (vd va vb : BitVec 5) (m : BitVec 3) (f : Fmt) (s : State) : Host.Outcome State Fault Refusal :=
  perform (vArith (instrWord (.vmin vd va vb m f)) vd va vb m f (fun _ _ a b => fpMin f a b) (fun _ a b => intMin f a b)) s

/-- VMAX (R179). -/
def execVmax (vd va vb : BitVec 5) (m : BitVec 3) (f : Fmt) (s : State) : Host.Outcome State Fault Refusal :=
  perform (vArith (instrWord (.vmax vd va vb m f)) vd va vb m f (fun _ _ a b => fpMax f a b) (fun _ a b => intMax f a b)) s

/-- VABS (R179). -/
def execVabs (vd va : BitVec 5) (m : BitVec 3) (f : Fmt) (s : State) : Host.Outcome State Fault Refusal :=
  perform (vBits (instrWord (.vabs vd va m f)) vd va va m f (fun a _ =>
    if isFloat f then fpAbsBits f a else if intVal f a < 0 then intNeg f a else a)) s

/-- VNEG (R179). -/
def execVneg (vd va : BitVec 5) (m : BitVec 3) (f : Fmt) (s : State) : Host.Outcome State Fault Refusal :=
  perform (vBits (instrWord (.vneg vd va m f)) vd va va m f (fun a _ => if isFloat f then fpFlip f a else intNeg f a)) s

/-- VAND (R179). -/
def execVand (vd va vb : BitVec 5) (m : BitVec 3) (f : Fmt) (s : State) : Host.Outcome State Fault Refusal :=
  perform (vBits (instrWord (.vand vd va vb m f)) vd va vb m f (fun a b => a &&& b)) s

/-- VOR (R179). -/
def execVor (vd va vb : BitVec 5) (m : BitVec 3) (f : Fmt) (s : State) : Host.Outcome State Fault Refusal :=
  perform (vBits (instrWord (.vor vd va vb m f)) vd va vb m f (fun a b => a ||| b)) s

/-- VXOR (R179). -/
def execVxor (vd va vb : BitVec 5) (m : BitVec 3) (f : Fmt) (s : State) : Host.Outcome State Fault Refusal :=
  perform (vBits (instrWord (.vxor vd va vb m f)) vd va vb m f (fun a b => a ^^^ b)) s

/-- VSHL (R179): a << (b mod width). -/
def execVshl (vd va vb : BitVec 5) (m : BitVec 3) (f : Fmt) (s : State) : Host.Outcome State Fault Refusal :=
  perform (vBits (instrWord (.vshl vd va vb m f)) vd va vb m f (fun a b => a * 2 ^ (b % fmtBits f))) s

/-- VSHR (R179): a >> (b mod width), arithmetic in the signed formats. -/
def execVshr (vd va vb : BitVec 5) (m : BitVec 3) (f : Fmt) (s : State) : Host.Outcome State Fault Refusal :=
  perform (vBits (instrWord (.vshr vd va vb m f)) vd va vb m f (fun a b =>
    intBits (fmtBits f) (intVal f a / ((2 ^ (b % fmtBits f) : Nat) : Int)))) s

/-- VCMPEQ (R180). -/
def execVcmpeq (md : BitVec 3) (va vb : BitVec 5) (m : BitVec 3) (f : Fmt) (s : State) : Host.Outcome State Fault Refusal :=
  perform (vCmp (instrWord (.vcmpeq md va vb m f)) md va vb m f (fun a b => if isFloat f then fpEq f a b else (a == b, 0))) s

/-- VCMPLT (R180). -/
def execVcmplt (md : BitVec 3) (va vb : BitVec 5) (m : BitVec 3) (f : Fmt) (s : State) : Host.Outcome State Fault Refusal :=
  perform (vCmp (instrWord (.vcmplt md va vb m f)) md va vb m f (fun a b =>
    if isFloat f then fpLt f a b else (decide (intVal f a < intVal f b), 0))) s

/-- VSEL (R181): every element, by the selector. -/
def execVsel (vd va vb : BitVec 5) (m : BitVec 3) (f : Fmt) (s : State) : Host.Outcome State Fault Refusal :=
  perform (do
    let g ← vGrant (instrWord (.vsel vd va vb m f))
    modE (fun x =>
      let a := (vElems x f g va).map (fun v => (v, 0))
      putV x vd f (blend (getMask x m) 0 (vElems x f g vb) a).1)) s

/-! ## VSFU (R182) -/

/-- VEXP2 (R182). -/
def execVexp2 (vd va : BitVec 5) (m : BitVec 3) (f : Fmt) (s : State) : Host.Outcome State Fault Refusal :=
  perform (vOp1 (instrWord (.vexp2 vd va m f)) vd va m f (fun rm a => fpExp2 f rm a)) s

/-- VLOG2 (R182). -/
def execVlog2 (vd va : BitVec 5) (m : BitVec 3) (f : Fmt) (s : State) : Host.Outcome State Fault Refusal :=
  perform (vOp1 (instrWord (.vlog2 vd va m f)) vd va m f (fun rm a => fpLog2 f rm a)) s

/-- VRCP (R182). -/
def execVrcp (vd va : BitVec 5) (m : BitVec 3) (f : Fmt) (s : State) : Host.Outcome State Fault Refusal :=
  perform (vOp1 (instrWord (.vrcp vd va m f)) vd va m f (fun rm a => fpRcp f rm a)) s

/-- VRSQRT (R182). -/
def execVrsqrt (vd va : BitVec 5) (m : BitVec 3) (f : Fmt) (s : State) : Host.Outcome State Fault Refusal :=
  perform (vOp1 (instrWord (.vrsqrt vd va m f)) vd va m f (fun rm a => fpRsqrt f rm a)) s

/-- VSQRT (R182). -/
def execVsqrt (vd va : BitVec 5) (m : BitVec 3) (f : Fmt) (s : State) : Host.Outcome State Fault Refusal :=
  perform (vOp1 (instrWord (.vsqrt vd va m f)) vd va m f (fun rm a => fpSqrt f rm a)) s

/-! ## VCVT (R183, R184) -/

/-- VCVT (R183). -/
def execVcvt (vd va : BitVec 5) (src : Fmt) (sat : Bool) (m : BitVec 3) (dst : Fmt) (s : State) : Host.Outcome State Fault Refusal :=
  perform (vConv (instrWord (.vcvt vd va src sat m dst)) vd va m src dst (fun rm a => fpConvert src dst rm sat a)) s

/-- The other format that a parameter word names, when the word is one that R184 accepts. -/
def paramFmt (p : Dword) (ok : Fmt → Bool) : Option Fmt :=
  if fld p 63 36 != 0 then none
  else match fmtOfCode (BitVec.ofNat 4 (fld p 35 32)) with | some f => if ok f then some f else none | none => none

/-- FP32 or BF16. -/
def fmtWide (f : Fmt) : Bool := f == .fp32 || f == .bf16
/-- The quantised formats of R184. -/
def fmtQuant (f : Fmt) : Bool := f == .e4m3 || f == .e5m2 || f == .int8 || f == .int16 || f == .uint8

/-- VTERN on one element (R184): t is the threshold. -/
def ternOf (src : Fmt) (t x : Nat) : Nat × Nat :=
  let v := fpDecode src x
  let c := fpDecode .fp32 t
  if v.isNan || c.isNan then (0, flNV)
  else if valCmp v c == .gt then (1, 0)
  else if valCmp v (fpDecode .fp32 (fpFlip .fp32 t)) == .lt then (3, 0)
  else (0, 0)

/-- A conversion with a parameter word (R184): op gets the other format, the scale, the rounding mode and the element. -/
def vParam (w : Dword) (vd va : BitVec 5) (b : Reg) (m : BitVec 3) (f : Fmt) (ok : Fmt → Bool)
    (op : Fmt → Nat → Nat → Nat → Nat × Nat) : M Unit := do
  let _ ← vGrant w
  let p ← readReg w b
  match paramFmt p ok with
  | none => trap cILLOP w
  | some g => vConv w vd va m g f (op g (fld p 31 0))

/-- VQNT (R184). -/
def execVqnt (vd va : BitVec 5) (b : Reg) (m : BitVec 3) (f : Fmt) (s : State) : Host.Outcome State Fault Refusal :=
  perform (vParam (instrWord (.vqnt vd va b m f)) vd va b m f fmtWide (fun g sc rm x => fpScale g f rm true x sc)) s

/-- VDQNT (R184). -/
def execVdqnt (vd va : BitVec 5) (b : Reg) (m : BitVec 3) (f : Fmt) (s : State) : Host.Outcome State Fault Refusal :=
  perform (vParam (instrWord (.vdqnt vd va b m f)) vd va b m f fmtQuant (fun g sc rm x => fpScale g f rm false x sc)) s

/-- VTERN (R184). -/
def execVtern (vd va : BitVec 5) (b : Reg) (m : BitVec 3) (f : Fmt) (s : State) : Host.Outcome State Fault Refusal :=
  perform (vParam (instrWord (.vtern vd va b m f)) vd va b m f fmtWide (fun g t _ x => ternOf g t x)) s

/-! ## VRED (R185 to R187) -/

/-- The sum of two elements. -/
def sumOp (f : Fmt) (rm a b : Nat) : Nat × Nat := if isFloat f then fpAdd f rm a b else ((a + b) % 2 ^ fmtBits f, 0)

/-- VREDSUM (R104, R185). -/
def execVredsum (d : Reg) (va : BitVec 5) (m : BitVec 3) (f : Fmt) (s : State) : Host.Outcome State Fault Refusal :=
  perform (vReduce (instrWord (.vredsum d va m f)) d va m f (sumOp f) (fun v => (v, 0)) 0) s

/-- VREDMAX (R104, R185). -/
def execVredmax (d : Reg) (va : BitVec 5) (m : BitVec 3) (f : Fmt) (s : State) : Host.Outcome State Fault Refusal :=
  perform (vReduce (instrWord (.vredmax d va m f)) d va m f (fun _ a b => if isFloat f then fpMax f a b else (intMax f a b, 0))
    (fun v => (v, 0)) (if isFloat f then withSign f true (fpInfBits f) else intBits (fmtBits f) (intRange f).1)) s

/-- VREDMIN (R104, R185). -/
def execVredmin (d : Reg) (va : BitVec 5) (m : BitVec 3) (f : Fmt) (s : State) : Host.Outcome State Fault Refusal :=
  perform (vReduce (instrWord (.vredmin d va m f)) d va m f (fun _ a b => if isFloat f then fpMin f a b else (intMin f a b, 0))
    (fun v => (v, 0)) (if isFloat f then fpInfBits f else intBits (fmtBits f) (intRange f).2)) s

/-- VREDAMAX (R104, R106, R185). -/
def execVredamax (d : Reg) (va : BitVec 5) (m : BitVec 3) (f : Fmt) (s : State) : Host.Outcome State Fault Refusal :=
  perform (vReduce (instrWord (.vredamax d va m f)) d va m f (fun _ a b => fpAmax f a b) (fpAmax1 f) 0) s

/-- The running sums from an element on (R105): the sum so far, or none before the first element. -/
def scanFrom (f : Fmt) (rm : Nat) (m : BitVec 2048) : Nat → Option Nat → List Nat → List Nat × Nat
  | _, _, [] => ([], 0)
  | i, acc, x :: xs =>
    let r : Nat × Nat :=
      match acc with
      | none => (if active m i then x else 0, 0)
      | some y => if active m i then sumOp f rm y x else (y, 0)
    let t := scanFrom f rm m (i + 1) (some r.1) xs
    (r.1 :: t.1, r.2 ||| t.2)

/-- VSCAN (R105, R186). -/
def execVscan (vd va : BitVec 5) (m : BitVec 3) (f : Fmt) (s : State) : Host.Outcome State Fault Refusal :=
  perform (do
    let g ← vGrant (instrWord (.vscan vd va m f))
    let x ← getE
    let rm ← roundMode
    let r := scanFrom f rm (getMask x m) 0 none (vElems x f g va)
    modE (fun y => putV y vd f r.1)
    raise r.2) s

/-- VPERM (R187). -/
def execVperm (vd va vb : BitVec 5) (m : BitVec 3) (f : Fmt) (s : State) : Host.Outcome State Fault Refusal :=
  perform (do
    let g ← vGrant (instrWord (.vperm vd va vb m f))
    let x ← getE
    let l := vElems x f g va
    writeV vd m f g ((vElems x f g vb).map (fun j => (l.getD j 0, 0)))) s

/-- VSLIDE (R187). -/
def execVslide (vd va : BitVec 5) (b : Reg) (m : BitVec 3) (f : Fmt) (s : State) : Host.Outcome State Fault Refusal :=
  perform (do
    let w := instrWord (.vslide vd va b m f)
    let g ← vGrant w
    let k ← readReg w b
    let x ← getE
    let l := vElems x f g va
    writeV vd m f g ((span 0 l.length).map (fun (i : Nat) =>
      let j := (i : Int) + k.toInt
      (if j < 0 then 0 else l.getD j.toNat 0, 0)))) s

/-! ## The skip bound (R244, R245) -/

/-- p of one element: the greater of the exact products, rounded up. -/
def boundTerm (q hi lo : Nat) : Nat × Nat :=
  let x := fpMul .fp32 3 q hi
  let y := fpMul .fp32 3 q lo
  let r := fpMax .fp32 x.1 y.1
  (r.1, x.2 ||| y.2 ||| r.2)

/-- The hash of R244. -/
def boundHash (lid : BitVec 32) (t : Nat) : Nat := (lid.toNat * 2 ^ 32 + t) * 0x9E3779B97F4A7C15 % 2 ^ 64

/-- e of R244: exp of b − M, which is formed exactly, rounded once to FP64. -/
def boundExp (b mx : Nat) : Nat :=
  match fpDecode .fp32 b, fpDecode .fp32 mx with
  | .fin s m e, .fin t n g => let d := dyAdd 0 s m e (!t) n g; (expExact .fp64 0 d.1 d.2.1 d.2.2).1
  | _, _ => (fpExp .fp64 0 (fpSub .fp64 0 (fpConvert .fp32 .fp64 0 false b).1 (fpConvert .fp32 .fp64 0 false mx).1).1).1

/-- AXWSUM after a skipped block, with the flags of the sum (R244). -/
def boundSum (old : Nat) (b mx : Nat) : Nat × Nat := fpAdd .fp64 0 old (fpMul .fp64 0 0x4030000000000000 (boundExp b mx)).1

/-- The bound of the active elements, with its flags: no element gives +0. -/
def boundOf (m : BitVec 2048) (q hi lo : List Nat) : Nat × Nat :=
  let ps := List.zipWith (fun (a : Nat) (p : Nat × Nat) => boundTerm a p.1 p.2) q (hi.zip lo)
  let fl := (blend m 0 (ps.map (fun _ => 0)) ps).2
  let r := treeReduce (fpAdd .fp32 3) m (ps.map (·.1))
  (r.1.getD 0, fl ||| r.2)

/-- ABOUND (R244). -/
def execAbound (d : Reg) (va vb : BitVec 5) (m : BitVec 3) (s : State) : Host.Outcome State Fault Refusal :=
  perform (do
    let w := instrWord (.abound d va vb m)
    let g ← vGrant w
    let x ← getE
    if vb == 31 then trap cILLOP w
    else if x.csr.axmode.getLsbD 1 then writeReg w d 0x7F800000
    else do
      let v ← readReg w d
      let mx := fld v 31 0
      let b := boundOf (getMask x m) (vElems x .fp32 g va) (vElems x .fp32 g vb) (vElems x .fp32 g (vb + 1))
      let marked := x.csr.axmode.getLsbD 0 && boundHash x.csr.lid (fld v 63 32) / 2 ^ (64 - x.csr.audrate.toNat) == 0
      let lim := fpSub .fp32 0 mx x.csr.axtau.toNat
      let lt := fpLt .fp32 b.1 lim.1
      let skip := !marked && lt.1
      modE (fun y => if skip then { y with csr := { y.csr with axwsum := dw (boundSum x.csr.axwsum.toNat b.1 mx).1 } } else y)
      raise ((b.2 ||| lim.2 ||| lt.2 ||| (if skip then (boundSum x.csr.axwsum.toNat b.1 mx).2 else 0)) &&& flNV)
      writeReg w d (dw (b.1 + bnat skip * 2 ^ 32 + bnat marked * 2 ^ 33))) s

/-- AUDCHK (R245). -/
def execAudchk (d a b : Reg) (s : State) : Host.Outcome State Fault Refusal :=
  perform (do
    let w := instrWord (.audchk d a b)
    let _ ← vGrant w
    let x ← readReg w a
    let y ← readReg w b
    let r := fpLt .fp32 (fpSrc .fp32 y) (fpSrc .fp32 x)
    raise r.2
    if r.1 || anyNan .fp32 (fpSrc .fp32 x) (fpSrc .fp32 y) then do
      let t ← get
      outbox (.audit (x.setWidth 32) (y.setWidth 32) (originOf t t.cur))
      writeReg w d 1
    else writeReg w d 0) s

end Sys2Proof.Machine
end

