-- ==== Sys2Proof/Machine/Dispatch.lean ====
section
/-! DEFINITION. What every instruction, engine command and event does: one arm for each constructor of Instr, each one direct call
of its meaning. -/

namespace Sys2Proof.Machine

/-- The meaning of an instruction. -/
def exec (i : Instr) (s : State) : Host.Outcome State Fault Refusal :=
  match i with
  | .add d a b => Sys2Proof.Machine.execAdd d a b s
  | .sub d a b => Sys2Proof.Machine.execSub d a b s
  | .and d a b => Sys2Proof.Machine.execAnd d a b s
  | .or d a b => Sys2Proof.Machine.execOr d a b s
  | .xor d a b => Sys2Proof.Machine.execXor d a b s
  | .andn d a b => Sys2Proof.Machine.execAndn d a b s
  | .sll d a b => Sys2Proof.Machine.execSll d a b s
  | .srl d a b => Sys2Proof.Machine.execSrl d a b s
  | .sra d a b => Sys2Proof.Machine.execSra d a b s
  | .slt d a b => Sys2Proof.Machine.execSlt d a b s
  | .sltu d a b => Sys2Proof.Machine.execSltu d a b s
  | .min d a b => Sys2Proof.Machine.execMin d a b s
  | .max d a b => Sys2Proof.Machine.execMax d a b s
  | .minu d a b => Sys2Proof.Machine.execMinu d a b s
  | .maxu d a b => Sys2Proof.Machine.execMaxu d a b s
  | .mul d a b => Sys2Proof.Machine.execMul d a b s
  | .mulh d a b => Sys2Proof.Machine.execMulh d a b s
  | .mulhu d a b => Sys2Proof.Machine.execMulhu d a b s
  | .div d a b => Sys2Proof.Machine.execDiv d a b s
  | .divu d a b => Sys2Proof.Machine.execDivu d a b s
  | .rem d a b => Sys2Proof.Machine.execRem d a b s
  | .remu d a b => Sys2Proof.Machine.execRemu d a b s
  | .clz d a => Sys2Proof.Machine.execClz d a s
  | .ctz d a => Sys2Proof.Machine.execCtz d a s
  | .popc d a => Sys2Proof.Machine.execPopc d a s
  | .lea d a b sh => Sys2Proof.Machine.execLea d a b sh s
  | .cmovz d a b => Sys2Proof.Machine.execCmovz d a b s
  | .cmovnz d a b => Sys2Proof.Machine.execCmovnz d a b s
  | .exts d a sh => Sys2Proof.Machine.execExts d a sh s
  | .extz d a sh => Sys2Proof.Machine.execExtz d a sh s
  | .addi d a imm => Sys2Proof.Machine.execAddi d a imm s
  | .andi d a imm => Sys2Proof.Machine.execAndi d a imm s
  | .ori d a imm => Sys2Proof.Machine.execOri d a imm s
  | .xori d a imm => Sys2Proof.Machine.execXori d a imm s
  | .slti d a imm => Sys2Proof.Machine.execSlti d a imm s
  | .sltiu d a imm => Sys2Proof.Machine.execSltiu d a imm s
  | .lui d imm => Sys2Proof.Machine.execLui d imm s
  | .slli d a amt => Sys2Proof.Machine.execSlli d a amt s
  | .srli d a amt => Sys2Proof.Machine.execSrli d a amt s
  | .srai d a amt => Sys2Proof.Machine.execSrai d a amt s
  | .orih d a imm => Sys2Proof.Machine.execOrih d a imm s
  | .orit d a imm => Sys2Proof.Machine.execOrit d a imm s
  | .fadd d a b f => Sys2Proof.Machine.execFadd d a b f s
  | .fsub d a b f => Sys2Proof.Machine.execFsub d a b f s
  | .fmul d a b f => Sys2Proof.Machine.execFmul d a b f s
  | .ffma d a b f => Sys2Proof.Machine.execFfma d a b f s
  | .fdiv d a b f => Sys2Proof.Machine.execFdiv d a b f s
  | .fsqrt d a f => Sys2Proof.Machine.execFsqrt d a f s
  | .fmin d a b f => Sys2Proof.Machine.execFmin d a b f s
  | .fmax d a b f => Sys2Proof.Machine.execFmax d a b f s
  | .fcmpeq d a b f => Sys2Proof.Machine.execFcmpeq d a b f s
  | .fcmplt d a b f => Sys2Proof.Machine.execFcmplt d a b f s
  | .fcmple d a b f => Sys2Proof.Machine.execFcmple d a b f s
  | .fcvt d a src dst sat => Sys2Proof.Machine.execFcvt d a src dst sat s
  | .fclass d a f => Sys2Proof.Machine.execFclass d a f s
  | .fneg d a f => Sys2Proof.Machine.execFneg d a f s
  | .fabs d a f => Sys2Proof.Machine.execFabs d a f s
  | .ldb d bf x disp => Sys2Proof.Machine.execLdb d bf x disp s
  | .ldbu d bf x disp => Sys2Proof.Machine.execLdbu d bf x disp s
  | .ldh d bf x disp => Sys2Proof.Machine.execLdh d bf x disp s
  | .ldhu d bf x disp => Sys2Proof.Machine.execLdhu d bf x disp s
  | .ldw d bf x disp => Sys2Proof.Machine.execLdw d bf x disp s
  | .ldwu d bf x disp => Sys2Proof.Machine.execLdwu d bf x disp s
  | .ldd d bf x disp => Sys2Proof.Machine.execLdd d bf x disp s
  | .stb d bf x disp => Sys2Proof.Machine.execStb d bf x disp s
  | .sth d bf x disp => Sys2Proof.Machine.execSth d bf x disp s
  | .stw d bf x disp => Sys2Proof.Machine.execStw d bf x disp s
  | .std d bf x disp => Sys2Proof.Machine.execStd d bf x disp s
  | .ldm d bf cnt disp => Sys2Proof.Machine.execLdm d bf cnt disp s
  | .stm d bf cnt disp => Sys2Proof.Machine.execStm d bf cnt disp s
  | .amoAdd d bf x b use => Sys2Proof.Machine.execAmoAdd d bf x b use s
  | .amoAnd d bf x b use => Sys2Proof.Machine.execAmoAnd d bf x b use s
  | .amoOr d bf x b use => Sys2Proof.Machine.execAmoOr d bf x b use s
  | .amoXor d bf x b use => Sys2Proof.Machine.execAmoXor d bf x b use s
  | .amoMax d bf x b use => Sys2Proof.Machine.execAmoMax d bf x b use s
  | .amoMin d bf x b use => Sys2Proof.Machine.execAmoMin d bf x b use s
  | .amoMaxu d bf x b use => Sys2Proof.Machine.execAmoMaxu d bf x b use s
  | .amoMinu d bf x b use => Sys2Proof.Machine.execAmoMinu d bf x b use s
  | .amoSwap d bf x b use => Sys2Proof.Machine.execAmoSwap d bf x b use s
  | .amoCas d bf x b use => Sys2Proof.Machine.execAmoCas d bf x b use s
  | .amoLoad d bf x use => Sys2Proof.Machine.execAmoLoad d bf x use s
  | .amoStore bf x b use => Sys2Proof.Machine.execAmoStore bf x b use s
  | .fence scope => Sys2Proof.Machine.execFence scope s
  | .beq a b n disp => Sys2Proof.Machine.execBeq a b n disp s
  | .bne a b n disp => Sys2Proof.Machine.execBne a b n disp s
  | .blt a b n disp => Sys2Proof.Machine.execBlt a b n disp s
  | .bge a b n disp => Sys2Proof.Machine.execBge a b n disp s
  | .bltu a b n disp => Sys2Proof.Machine.execBltu a b n disp s
  | .bgeu a b n disp => Sys2Proof.Machine.execBgeu a b n disp s
  | .j disp => Sys2Proof.Machine.execJ disp s
  | .jal disp => Sys2Proof.Machine.execJal disp s
  | .jr a imm => Sys2Proof.Machine.execJr a imm s
  | .jalr d a imm => Sys2Proof.Machine.execJalr d a imm s
  | .csrrd d csr => Sys2Proof.Machine.execCsrrd d csr s
  | .csrwr d a csr => Sys2Proof.Machine.execCsrwr d a csr s
  | .csrset d a csr => Sys2Proof.Machine.execCsrset d a csr s
  | .csrclr d a csr => Sys2Proof.Machine.execCsrclr d a csr s
  | .trap code => Sys2Proof.Machine.execTrap code s
  | .eret => Sys2Proof.Machine.execEret s
  | .tlbinv a b kind => Sys2Proof.Machine.execTlbinv a b kind s
  | .iflush => Sys2Proof.Machine.execIflush s
  | .bfld a n => Sys2Proof.Machine.execBfld a n s
  | .bfst a n => Sys2Proof.Machine.execBfst a n s
  | .nop => Sys2Proof.Machine.execNop s
  | .halt => Sys2Proof.Machine.execHalt s
  | .send d a b len1 => Sys2Proof.Machine.execSend d a b len1 s
  | .sendm d a b len1 => Sys2Proof.Machine.execSendm d a b len1 s
  | .tend => Sys2Proof.Machine.execTend s
  | .tabort defer => Sys2Proof.Machine.execTabort defer s
  | .chcfg a b => Sys2Proof.Machine.execChcfg a b s
  | .chmask a => Sys2Proof.Machine.execChmask a s
  | .chunmask a => Sys2Proof.Machine.execChunmask a s
  | .tsset a => Sys2Proof.Machine.execTsset a s
  | .launch d a n => Sys2Proof.Machine.execLaunch d a n s
  | .scread d sc => Sys2Proof.Machine.execScread d sc s
  | .scinc a sc => Sys2Proof.Machine.execScinc a sc s
  | .scarm d a sc => Sys2Proof.Machine.execScarm d a sc s
  | .scexpect d a sc => Sys2Proof.Machine.execScexpect d a sc s
  | .scmode a sc => Sys2Proof.Machine.execScmode a sc s
  | .barv a tag => Sys2Proof.Machine.execBarv a tag s
  | .barcfg a tag => Sys2Proof.Machine.execBarcfg a tag s
  | .enq d a eng => Sys2Proof.Machine.execEnq d a eng s
  | .jobst d a => Sys2Proof.Machine.execJobst d a s
  | .jobarm a b => Sys2Proof.Machine.execJobarm a b s
  | .osclaim d a => Sys2Proof.Machine.execOsclaim d a s
  | .osfree a b => Sys2Proof.Machine.execOsfree a b s
  | .jobresume d a => Sys2Proof.Machine.execJobresume d a s
  | .jobcancel d a => Sys2Proof.Machine.execJobcancel d a s
  | .cfopen d a => Sys2Proof.Machine.execCfopen d a s
  | .cfnext d a => Sys2Proof.Machine.execCfnext d a s
  | .cfexpect d a => Sys2Proof.Machine.execCfexpect d a s
  | .cfpost d a => Sys2Proof.Machine.execCfpost d a s
  | .cfread d a => Sys2Proof.Machine.execCfread d a s
  | .cfseal d a => Sys2Proof.Machine.execCfseal d a s
  | .cfstat d a sel => Sys2Proof.Machine.execCfstat d a sel s
  | .exitmark d a => Sys2Proof.Machine.execExitmark d a s
  | .confx d a b => Sys2Proof.Machine.execConfx d a b s
  | .gstore d a b => Sys2Proof.Machine.execGstore d a b s
  | .grdy d a => Sys2Proof.Machine.execGrdy d a s
  | .gpull d a => Sys2Proof.Machine.execGpull d a s
  | .gcnt d a sel => Sys2Proof.Machine.execGcnt d a sel s
  | .gcfg d a => Sys2Proof.Machine.execGcfg d a s
  | .hsift d a b => Sys2Proof.Machine.execHsift d a b s
  | .htopk d a b renorm => Sys2Proof.Machine.execHtopk d a b renorm s
  | .rcupd d a del => Sys2Proof.Machine.execRcupd d a del s
  | .kvfork d a => Sys2Proof.Machine.execKvfork d a s
  | .kvput d a => Sys2Proof.Machine.execKvput d a s
  | .kvpub d a => Sys2Proof.Machine.execKvpub d a s
  | .kvstat d a => Sys2Proof.Machine.execKvstat d a s
  | .kvfree d a => Sys2Proof.Machine.execKvfree d a s
  | .vclaim d a b => Sys2Proof.Machine.execVclaim d a b s
  | .vsync d => Sys2Proof.Machine.execVsync d s
  | .vfree => Sys2Proof.Machine.execVfree s
  | .vmlogicAnd md ma mb => Sys2Proof.Machine.execVmlogicAnd md ma mb s
  | .vmlogicOr md ma mb => Sys2Proof.Machine.execVmlogicOr md ma mb s
  | .vmlogicXor md ma mb => Sys2Proof.Machine.execVmlogicXor md ma mb s
  | .vmlogicAndn md ma mb => Sys2Proof.Machine.execVmlogicAndn md ma mb s
  | .vmlogicNot md ma => Sys2Proof.Machine.execVmlogicNot md ma s
  | .vmlogicMov md ma => Sys2Proof.Machine.execVmlogicMov md ma s
  | .vmlogicSet md => Sys2Proof.Machine.execVmlogicSet md s
  | .vmlogicClr md => Sys2Proof.Machine.execVmlogicClr md s
  | .vmpop d ma => Sys2Proof.Machine.execVmpop d ma s
  | .viota vd a b m f => Sys2Proof.Machine.execViota vd a b m f s
  | .vld vd bf x m f => Sys2Proof.Machine.execVld vd bf x m f s
  | .vst vd bf x m f => Sys2Proof.Machine.execVst vd bf x m f s
  | .vlds vd bf x m f => Sys2Proof.Machine.execVlds vd bf x m f s
  | .vsts vd bf x m f => Sys2Proof.Machine.execVsts vd bf x m f s
  | .vldx vd bf vi m f => Sys2Proof.Machine.execVldx vd bf vi m f s
  | .vstx vd bf vi m f => Sys2Proof.Machine.execVstx vd bf vi m f s
  | .vbcast vd a m f => Sys2Proof.Machine.execVbcast vd a m f s
  | .vextr d va b f => Sys2Proof.Machine.execVextr d va b f s
  | .vins vd a b f => Sys2Proof.Machine.execVins vd a b f s
  | .vadd vd va vb m f => Sys2Proof.Machine.execVadd vd va vb m f s
  | .vsub vd va vb m f => Sys2Proof.Machine.execVsub vd va vb m f s
  | .vmul vd va vb m f => Sys2Proof.Machine.execVmul vd va vb m f s
  | .vfma vd va vb m f => Sys2Proof.Machine.execVfma vd va vb m f s
  | .vmin vd va vb m f => Sys2Proof.Machine.execVmin vd va vb m f s
  | .vmax vd va vb m f => Sys2Proof.Machine.execVmax vd va vb m f s
  | .vabs vd va m f => Sys2Proof.Machine.execVabs vd va m f s
  | .vneg vd va m f => Sys2Proof.Machine.execVneg vd va m f s
  | .vand vd va vb m f => Sys2Proof.Machine.execVand vd va vb m f s
  | .vor vd va vb m f => Sys2Proof.Machine.execVor vd va vb m f s
  | .vxor vd va vb m f => Sys2Proof.Machine.execVxor vd va vb m f s
  | .vshl vd va vb m f => Sys2Proof.Machine.execVshl vd va vb m f s
  | .vshr vd va vb m f => Sys2Proof.Machine.execVshr vd va vb m f s
  | .vcmpeq md va vb m f => Sys2Proof.Machine.execVcmpeq md va vb m f s
  | .vcmplt md va vb m f => Sys2Proof.Machine.execVcmplt md va vb m f s
  | .vsel vd va vb m f => Sys2Proof.Machine.execVsel vd va vb m f s
  | .vexp2 vd va m f => Sys2Proof.Machine.execVexp2 vd va m f s
  | .vlog2 vd va m f => Sys2Proof.Machine.execVlog2 vd va m f s
  | .vrcp vd va m f => Sys2Proof.Machine.execVrcp vd va m f s
  | .vrsqrt vd va m f => Sys2Proof.Machine.execVrsqrt vd va m f s
  | .vsqrt vd va m f => Sys2Proof.Machine.execVsqrt vd va m f s
  | .vcvt vd va src sat m dst => Sys2Proof.Machine.execVcvt vd va src sat m dst s
  | .vqnt vd va b m f => Sys2Proof.Machine.execVqnt vd va b m f s
  | .vdqnt vd va b m f => Sys2Proof.Machine.execVdqnt vd va b m f s
  | .vtern vd va b m f => Sys2Proof.Machine.execVtern vd va b m f s
  | .vredsum d va m f => Sys2Proof.Machine.execVredsum d va m f s
  | .vredmax d va m f => Sys2Proof.Machine.execVredmax d va m f s
  | .vredmin d va m f => Sys2Proof.Machine.execVredmin d va m f s
  | .vredamax d va m f => Sys2Proof.Machine.execVredamax d va m f s
  | .vscan vd va m f => Sys2Proof.Machine.execVscan vd va m f s
  | .vperm vd va vb m f => Sys2Proof.Machine.execVperm vd va vb m f s
  | .vslide vd va b m f => Sys2Proof.Machine.execVslide vd va b m f s
  | .abound d va vb m => Sys2Proof.Machine.execAbound d va vb m s
  | .audchk d a b => Sys2Proof.Machine.execAudchk d a b s
  | .mfill h slot nslot1 src => Sys2Proof.Machine.execMfill h slot nslot1 src s
  | .mwload h slot wfmt => Sys2Proof.Machine.execMwload h slot wfmt s
  | .mstream h srcShape ovw cn1 sfmt slot row0 nrow1 shape => Sys2Proof.Machine.execMstream h srcShape ovw cn1 sfmt slot row0 nrow1 shape s
  | .mzero h cn1 row0 nrow1 => Sys2Proof.Machine.execMzero h cn1 row0 nrow1 s
  | .mstore h scm cn1 afmt rm sat scale row0 nrow1 dst => Sys2Proof.Machine.execMstore h scm cn1 afmt rm sat scale row0 nrow1 dst s
  | .mloadacc h cn1 afmt row0 nrow1 src => Sys2Proof.Machine.execMloadacc h cn1 afmt row0 nrow1 src s
  | .msave h pre cap hw lid img => Sys2Proof.Machine.execMsave h pre cap hw lid img s
  | .mrestore h img => Sys2Proof.Machine.execMrestore h img s
  | .cpy h icnt far src dst => Sys2Proof.Machine.execCpy h icnt far src dst s
  | .cpym h rowm colm die dkind dsig far slot src doff => Sys2Proof.Machine.execCpym h rowm colm die dkind dsig far slot src doff s
  | .cpyg h ifmt far src dst => Sys2Proof.Machine.execCpyg h ifmt far src dst s
  | .cpys h ifmt far src dst => Sys2Proof.Machine.execCpys h ifmt far src dst s
  | .cpypg h npg1 tier va grant => Sys2Proof.Machine.execCpypg h npg1 tier va grant s
  | .cpyfill h dst val => Sys2Proof.Machine.execCpyfill h dst val s
  | .cpymsg h far src q => Sys2Proof.Machine.execCpymsg h far src q s
  | .kvgather h pol far part rec' dst => Sys2Proof.Machine.execKvgather h pol far part rec' dst s
  | .bfill h gexit last perl rec' => Sys2Proof.Machine.execBfill h gexit last perl rec' s
  | .bfcancel h job => Sys2Proof.Machine.execBfcancel h job s
  | .rcsnap h rec' epoch => Sys2Proof.Machine.execRcsnap h rec' epoch s
  | .rcxchg h rec' b wait => Sys2Proof.Machine.execRcxchg h rec' b wait s
  | .rcpeel h rec' => Sys2Proof.Machine.execRcpeel h rec' s
  | .rcfetch h rec' => Sys2Proof.Machine.execRcfetch h rec' s
  | .rcround h rec' wait => Sys2Proof.Machine.execRcround h rec' wait s
  | .gallred h group cctr nch seq nb1 dst => Sys2Proof.Machine.execGallred h group cctr nch seq nb1 dst s
  | .gallgath h group cctr nch seq nb1 dst => Sys2Proof.Machine.execGallgath h group cctr nch seq nb1 dst s
  | .gbcast h group cctr nch root seq nb1 dst => Sys2Proof.Machine.execGbcast h group cctr nch root seq nb1 dst s
  | .matrixStepEnd cl => Sys2Proof.Machine.execMatrixStepEnd cl s
  | .copyBurst cl => Sys2Proof.Machine.execCopyBurst cl s
  | .engineAgeing q jid => Sys2Proof.Machine.execEngineAgeing q jid s
  | .engineDone q jid => Sys2Proof.Machine.execEngineDone q jid s
  | .kvgatherDeferResume cl jid => Sys2Proof.Machine.execKvgatherDeferResume cl jid s
  | .messageArrival n => Sys2Proof.Machine.execMessageArrival n s
  | .portWordArrival n => Sys2Proof.Machine.execPortWordArrival n s
  | .creditReturn n => Sys2Proof.Machine.execCreditReturn n s
  | .handlerSelection el => Sys2Proof.Machine.execHandlerSelection el s
  | .urgentInterruption el => Sys2Proof.Machine.execUrgentInterruption el s
  | .serialAdmission el ch => Sys2Proof.Machine.execSerialAdmission el ch s
  | .commit el k => Sys2Proof.Machine.execCommit el k s
  | .iatom el k => Sys2Proof.Machine.execIatom el k s
  | .roundMarkerInjection => Sys2Proof.Machine.execRoundMarkerInjection s
  | .roundEdge => Sys2Proof.Machine.execRoundEdge s
  | .slotQuantumExpiry slot => Sys2Proof.Machine.execSlotQuantumExpiry slot s
  | .horizonReport slid j peer l part => Sys2Proof.Machine.execHorizonReport slid j peer l part s
  | .launchPacket n => Sys2Proof.Machine.execLaunchPacket n s
  | .launchAdmission die => Sys2Proof.Machine.execLaunchAdmission die s
  | .slotTakeRecord slot => Sys2Proof.Machine.execSlotTakeRecord slot s
  | .cfopenHome n => Sys2Proof.Machine.execCfopenHome n s
  | .cfnextHome n => Sys2Proof.Machine.execCfnextHome n s
  | .cfexpectHome n => Sys2Proof.Machine.execCfexpectHome n s
  | .cfsealHome n => Sys2Proof.Machine.execCfsealHome n s
  | .exitmarkHome n => Sys2Proof.Machine.execExitmarkHome n s
  | .cfpostHome n => Sys2Proof.Machine.execCfpostHome n s
  | .cfreadHome n => Sys2Proof.Machine.execCfreadHome n s
  | .cfreadLateness die obj k => Sys2Proof.Machine.execCfreadLateness die obj k s
  | .barrierArrival n => Sys2Proof.Machine.execBarrierArrival n s
  | .barcfgApply n => Sys2Proof.Machine.execBarcfgApply n s
  | .groupContribution n => Sys2Proof.Machine.execGroupContribution n s
  | .groupResult n => Sys2Proof.Machine.execGroupResult n s
  | .groupTimeout g sq => Sys2Proof.Machine.execGroupTimeout g sq s
  | .groupSlotFree g sq => Sys2Proof.Machine.execGroupSlotFree g sq s
  | .grdyAnnounce n => Sys2Proof.Machine.execGrdyAnnounce n s
  | .gpullRequest n => Sys2Proof.Machine.execGpullRequest n s
  | .gpullTimeout k => Sys2Proof.Machine.execGpullTimeout k s
  | .chunkDelivery q jid => Sys2Proof.Machine.execChunkDelivery q jid s
  | .chunkTimeout q jid => Sys2Proof.Machine.execChunkTimeout q jid s
  | .cellUpdate n => Sys2Proof.Machine.execCellUpdate n s
  | .foldRequest idie peer rec' epoch b seeds => Sys2Proof.Machine.execFoldRequest idie peer rec' epoch b seeds s
  | .rcxchgWaitExpiry q jid => Sys2Proof.Machine.execRcxchgWaitExpiry q jid s
  | .fabricForward port p => Sys2Proof.Machine.execFabricForward port p s
  | .remoteRequest peer pa op => Sys2Proof.Machine.execRemoteRequest peer pa op s
  | .flitCrcFailure l flit => Sys2Proof.Machine.execFlitCrcFailure l flit s
  | .cxlDeviceRemoval port => Sys2Proof.Machine.execCxlDeviceRemoval port s
  | .hostBar2Write off bytes => Sys2Proof.Machine.execHostBar2Write off bytes s
  | .hostBar2Read off n => Sys2Proof.Machine.execHostBar2Read off n s
  | .qdb q => Sys2Proof.Machine.execQdb q s
  | .registerWrite off v => Sys2Proof.Machine.execRegisterWrite off v s
  | .hostCompletionTimeout el => Sys2Proof.Machine.execHostCompletionTimeout el s
  | .patrolScrub at' uncorrectable => Sys2Proof.Machine.execPatrolScrub at' uncorrectable s
  | .wake n => Sys2Proof.Machine.execWake n s
  | .stop n => Sys2Proof.Machine.execStop n s
  | .preempt n => Sys2Proof.Machine.execPreempt n s
  | .resume n => Sys2Proof.Machine.execResume n s
  | .discard n => Sys2Proof.Machine.execDiscard n s
  | .preemptRequest n => Sys2Proof.Machine.execPreemptRequest n s
  | .preemptStop => Sys2Proof.Machine.execPreemptStop s
  | .preemptCapture => Sys2Proof.Machine.execPreemptCapture s
  | .mread addr auth => Sys2Proof.Machine.execMread addr auth s
  | .mwrite addr v auth => Sys2Proof.Machine.execMwrite addr v auth s
  | .attest nonce => Sys2Proof.Machine.execAttest nonce s
  | .mclear addr auth => Sys2Proof.Machine.execMclear addr auth s
  | .powerOnReset r => Sys2Proof.Machine.execPowerOnReset r s
  | .unassignedOpcode w => Sys2Proof.Machine.execUnassignedOpcode w s
  | .linkUp port => Sys2Proof.Machine.execLinkUp port s
  | .capabilityRefresh r => Sys2Proof.Machine.execCapabilityRefresh r s
  | .measurementRequest img digest => Sys2Proof.Machine.execMeasurementRequest img digest s

end Sys2Proof.Machine
end

