-- ==== Sys2Proof/Machine/Turn.lean ====
section
/-! DEFINITION. What a step of the package is made of: an element's step with its fetch (R76, R124, R126), an engine's step (R333 to
R337), an event; and the choice of the next turn where none is planned (R277; log 2). -/

namespace Sys2Proof.Machine

/-! ## Elements -/

/-- Fetch the word at P (R126, R302, R315). -/
def fetch : M (BitVec 32) := do
  let s ← get
  let x := curElem s
  let p := x.seq.p.toNat
  if inLs p then trap cPROT (dw p)
  else
    match ← xlatAcc .fetch (lidAsid s x.csr.lid) p false with
    | .phys pa _ _ _ =>
      match physRead (← get) pa 4 with
      | some l => pure (BitVec.ofNat 32 (leNat l))
      | none => do
        modify (fun t => noteLost t (idieOf (dieOf t.cur)) pa)
        trap cMCHECK (dw p)
    | .zero => trap cPROT (dw p)
    | .loc _ => trap cPROT (dw p)

/-- A register field of n bits from a place on names a port. -/
def portField (w : BitVec 32) (lo : Nat) : Bool := decide (28 ≤ w.toNat / 2 ^ lo % 32)

/-- An accepted word names a port: in d, a or b of the INT and FPU groups, of which FCVT's b is no register; in d or a of the immediate
group; in d of a single load or store (R63). -/
def namesPort (w : BitVec 32) : Bool :=
  let op := w.toNat / 2 ^ 26
  if op == 0 || op == 0x0A then
    portField w 21 || portField w 16 || (portField w 11 && !(op == 0x0A && w.toNat % 64 == 11))
  else if op < 0x0C then portField w 21 || portField w 16
  else decide (0x10 ≤ op ∧ op ≤ 0x1B) && portField w 21

/-- A fetched word is executed: the instruction the decoder reads, or the trap of a word that it refuses, or of a port that an urgent
task names (R63, R76). -/
def execWord (w : BitVec 32) (s : State) : Host.Outcome State Fault Refusal :=
  match decodeWord w with
  | .ok i => if namesPort w && isUrgent (curElem s) then .next (stopState s (.trap cILLOP (w.setWidth 64) s.marks)) else exec i s
  | .error _ => execUnassignedOpcode w s

/-- The element moves: it is running a run, waits for nothing, and is out of reset (R277, R383). -/
def canMove (s : State) (e : Nat) : Bool := s.regs.run && (elem s e).run.isSome && (elem s e).stall == .none

/-- One step of the element whose turn it is (R124): an annulled step passes, and any other fetches, decodes and executes. -/
def elementStep (s : State) : Host.Outcome State Fault Refusal :=
  if (curElem s).seq.ap then .next (skip s)
  else
    match fetch s with
    | .ok (w, t) => execWord w t
    | .error e => .next (stopState s e)

/-- A host request that has timed out concerns one step only (R359). -/
def clearLost : Host.Outcome State Fault Refusal → Host.Outcome State Fault Refusal
  | .next t => .next { t with hostLost := none }
  | .fault f => .fault f
  | .refused r => .refused r

/-- The asynchronous machine check that the running run takes now: it stands between two instructions (R371). -/
def dueCheck (x : Elem) : Option Dword := x.run.bind (fun r => if r.vdone == 0 then r.mc else none)

/-- The run takes its asynchronous machine check, before its next step executes (R371); where its entry stalls for a full undo log
(R282), the check is still due. -/
def takeCheck (s : State) (a : Dword) : State :=
  let t := takeTrap (modCur s (fun x => { x with run := x.run.map (fun r => { r with mc := none }) })) cMCHECK a
  if (curElem t).stall == .full then modCur s (fun x => { x with stall := .full }) else t

/-- An element's turn. -/
def elementTurn (e : Nat) (s : State) : Host.Outcome State Fault Refusal :=
  let t := { s with cur := e }
  if !canMove s e then .next { t with hostLost := none }
  else if (dueCheck (elem s e)).isSome then .next (takeCheck t ((dueCheck (elem s e)).getD 0))
  else if s.hostLost.isSome then clearLost (elementStep t) else elementStep t

/-! ## Engines and events -/

/-- An engine's turn: the command it works on takes a step, unless a boundary is due first. -/
def engineTurn (q : QueueId) (fill : Bool) (s : State) : Host.Outcome State Fault Refusal :=
  if (queue s q).edge.isSome then .next s
  else
    match chooseJob s q fill with
    | none => .next s
    | some j =>
      match decodeCmd j.cmd with
      | some i => exec i (takeJob s q fill j)
      | none => .next s

/-- The constructors that are events, which are neither fetched nor pushed: no word encodes them. -/
def isEvent (i : Instr) : Bool := (encodeWord i).isNone && (encodeCmd i).isNone

/-- ENQUEUE (R277, R287): the push in flight at n enters its queue. -/
def pushArrives (n : Nat) (s : State) : Host.Outcome State Fault Refusal :=
  match takePacket s n with
  | some (p, t) =>
    match p.body with
    | .push q jid cmd now o blocks fail => .next (enqueue t q jid cmd now o blocks fail)
    | _ => .next s
  | none => .next s

/-- A turn. -/
def takeTurn (t : Turn) (s : State) : Host.Outcome State Fault Refusal :=
  match t with
  | .element e => elementTurn e s
  | .engine q fill => engineTurn q fill s
  | .event i => if isEvent i then exec i s else .next s
  | .push n => pushArrives n s
  | .fold i => .next (if s.regs.recovery then s else foldTurn s i)
  | .barRead off => .next (barReadTurn s off)
  | .held a => .next (takeArrival s a)
  | .linkReset l => .next (linkReset s l)

/-! ## Which turns are open (log 2)

An open turn is given by what it does. -/

/-- What a turn does. -/
abbrev Act := State → Host.Outcome State Fault Refusal

/-- The event by which the n-th act in flight arrives. -/
def arrival (s : State) (n : Nat) : Body → Act
  | .ev e v =>
    if v.chan == 0 && v.kind == .msg then
      match controlOp s e v with
      | some 0 => execWake n
      | some 1 => execStop n
      | some 2 => execPreempt n
      | some 3 => execResume n
      | some _ => execDiscard n
      | none => execMessageArrival n
    else execMessageArrival n
  | .word _ _ _ => execPortWordArrival n
  | .credit _ _ => execCreditReturn n
  | .cf op =>
    match op.sub with
    | 0 => execCfopenHome n
    | 1 => execCfnextHome n
    | 2 => execCfexpectHome n
    | 3 => execCfpostHome n
    | 4 => execCfreadHome n
    | 5 => execCfsealHome n
    | _ => execExitmarkHome n
  | .group _ _ _ => execGroupContribution n
  | .result _ _ _ _ _ _ _ => execGroupResult n
  | .barv _ _ _ => execBarrierArrival n
  | .barcfg _ _ => execBarcfgApply n
  | .grdy _ _ => execGrdyAnnounce n
  | .gpull _ _ => execGpullRequest n
  | .cell _ _ _ _ _ _ _ => execCellUpdate n
  | .launch _ _ => execLaunchPacket n
  | .preempt _ _ => execPreemptRequest n
  | .push _ _ _ _ _ _ _ => pushArrives n

/-- Acts in flight that can arrive. -/
def openArrivals (s : State) : List Act :=
  (span 0 s.net.length).flatMap (fun n =>
    match s.net[n]? with
    | some p => if deliverable s n then [arrival s n p.body] else []
    | none => [])

/-- What an element can do: its next step, its atomics, commits, starts and admissions. -/
def openElem (s : State) (e : Nat) : List Act :=
  let x := elem s e
  (if canMove s e then [elementTurn e] else [])
    ++ (span 0 x.iq.length).map (fun k => execIatom e k)
    ++ (span 0 x.fin.length).flatMap (fun k =>
        match x.fin[k]? with
        | some r => if mayCommit s (e, r) && commitFirst s (e, r) then [execCommit e k] else []
        | none => [])
    ++ (x.inq.filter (fun v => v.serial && !v.admitted && decide (lidScope s v.lid ≤ 1))).map (fun v => execSerialAdmission e v.chan)
    ++ (if (selectable s e).isSome then [execHandlerSelection e] else [])
    ++ (if (urgentReady s e).isSome then [execUrgentInterruption e] else [])

/-- What a job by itself can do: end, resume, give up, or take a chunk. -/
def openJob (s : State) (q : QueueId) (j : Job) : List Act :=
  (if j.fin.isSome then [execEngineDone q j.jid] else [])
    ++ (if q.eng == 1 && j.state == 3 then [execKvgatherDeferResume q.idx j.jid] else [])
    ++ (if q.eng == 3 && xchgExpired s j then [execRcxchgWaitExpiry q j.jid] else [])
    ++ (if q.eng == 4 && j.issued && j.fin.isNone then
          (if (flyingChunk j (chunkReady s j)).isSome then [execChunkDelivery q j.jid] else [])
            ++ (if (flyingChunk j (chunkLate s j)).isSome then [execChunkTimeout q j.jid] else [])
        else [])

/-- What an engine can do. -/
def openQueue (s : State) (q : QueueId) : List Act :=
  (if (queue s q).edge.isSome then (if q.eng == 0 then [execMatrixStepEnd q.idx] else [execCopyBurst q.idx])
   else (if (chooseJob s q false).isSome then [engineTurn q false] else [])
     ++ (if q.eng == 0 && (chooseJob s q true).isSome then [engineTurn q true] else []))
    ++ (queue s q).jobs.flatMap (openJob s q)

/-- What the launch units, the slots and the pre-emption unit can do. -/
def openUnits (s : State) : List Act :=
  ((span 0 4).filter (fun d => !(die s d).waiting.isEmpty)).map (fun d => execLaunchAdmission d)
    ++ ((span 0 64).filter (fun n => (takeReady s n).isSome)).map (fun n => execSlotTakeRecord n)
    ++ (if s.pre.stage == 2 then [execPreemptStop] else [])
    ++ (if captureReady s then [execPreemptCapture] else [])
    ++ (([0, 1] : List Nat).filter (fun i => idiePowered s i && !(die s (4 + i)).folds.isEmpty)).map (fun i t => .next (foldTurn t i))

/-- The round generator's next act: the markers, or the edge once everything before them has arrived. -/
def openRound (s : State) : List Act :=
  if s.roundGen == s.roundNo then [execRoundMarkerInjection] else if allArrived s then [execRoundEdge] else []

/-- Every turn that is open. -/
def openTurns (s : State) : List Act :=
  openArrivals s ++ s.elems.flatMap (fun x => openElem s x.1) ++ s.queues.flatMap (fun q => openQueue s (qOfKey q.1)) ++ openUnits s
    ++ openRound s

/-- The flash image that a boot which step itself begins finds. -/
def flashImage (i : Nat) : Image := { bytes := Config.flashImage i, sig := Config.flashSig i }

/-- What a boot that step itself begins finds: free images, and every resource usable (DESIGN CHOICE, log 28). -/
def cleanBoot : BootReport :=
  { fwA := flashImage 1, fwB := flashImage 2, cfgImg := flashImage 3, trained := [], supImg := some (flashImage 4), fails := [], deadEl := [], lsBanks := [], spBanks := [],
    meRows := [], nearBig := false, farCap := [] }

/-- What is done where no turn is planned: boot while the device has not booted, and then one of the open turns, each in its
place as the counter goes round. A device in recovery stops. -/
def chooseTurn (s : State) : Host.Outcome State Fault Refusal :=
  if s.regs.recovery then .fault .recovery
  else if !s.regs.run then execPowerOnReset cleanBoot s
  else
    let l := openTurns s
    match l[s.tick % Nat.max 1 l.length]? with
    | some act => act s
    | none => execRoundMarkerInjection s

/-- A step: the first planned turn, or one that is open. -/
def nextTurn (s : State) : Host.Outcome State Fault Refusal :=
  match s.agenda with
  | t :: l => takeTurn t { s with agenda := l, tick := s.tick + 1, marks := [] }
  | [] => chooseTurn { s with tick := s.tick + 1, marks := [] }

/-! ## Placing an instruction -/

/-- A run of channel 8 with nothing in it, in supervisor mode. -/
def freshRun : Run :=
  { ev := { kind := .msg, chan := 8, payload := [], sender := 0, ts := 0, lid := 0, xfer := 0, num := 0, trun := 0, serial := false,
            admitted := false, deferred := false, port := none },
    entry := ChEntry.reset, urgent := false, serial := false, wb := [], rs := [], ob := [], undo := [], pre := [], began := 0, taken := [], claims := [],
    vdone := 0, vgot := [], lids := [], jobs := [], mc := none, start := Csrs.reset, off := 0 }

/-- Where a placed instruction lies. -/
def placePc : Nat := 0x300000
/-- The root table of the placed address space, and its level-0 table. -/
def placeRoot : Nat := 0x100000
/-- The level-0 table: one leaf maps the first 4 TiB onto near memory. -/
def placeTable : Nat := 0x200000

/-- Memory with a root entry, one supervisor leaf that may be read, written and executed (V, R, W, X, A, D), and bytes at the place of an
instruction. -/
def placeMem (m : Mem) (l : List Byte) : Mem :=
  memWrite (memPutNat (memPutNat m placeRoot 8 (placeTable + 1)) placeTable 8 0xCF) placePc l

/-- The element that runs a placed instruction: a running run at its place. -/
def placeElem (x : Elem) : Elem :=
  { x with run := some freshRun, stall := .none, seq := seqStart (BitVec.ofNat 55 placePc), tlb := [],
           csr := { x.csr with status := setMode x.csr.status 1, launchid := 0 } }

/-- The state in which an element's next turn fetches and runs the bytes l. -/
def placeWord (s : State) (l : List Byte) : State :=
  { s with agenda := [.element s.cur], regs := { s.regs with run := true, xroot := dw placeRoot, mdlim := [] },
           elems := tput s.elems s.cur (placeElem (elem s s.cur)),
           clusters := tput s.clusters (clOf s.cur) { clus s (clOf s.cur) with tlb := [] },
           dies := s.dies.map (fun d => (d.1, { d.2 with ptrs := [] })),
           mem := placeMem s.mem l, memBad := [], nearDown := [], nearCap := 6 * 2 ^ 40, hostLost := none }

/-- A job of a command word, pushed by an element's task in supervisor mode. -/
def placeJob (w : BitVec 256) : Job :=
  { jid := 0, cmd := w, o := { el := 0, chan := 8, mode := 1, ts := 1, lid := 0, asid := 0 }, state := 2, code := 0, flags := 0,
    aux := 0, issued := false, fin := none, prog := 0, data := [], age := 0, effp := 0, now := 1, cancel := false, phase := 0, buf := [] }

/-- The engine that takes a command word, by its opcode. -/
def placeQueue (w : BitVec 256) : QueueId := { eng := (Decode.engineOf (w.toNat % 256)).getD 0, idx := 0 }

/-- The state in which an engine's next turn runs a command word. -/
def placeCmd (s : State) (w : BitVec 256) : State :=
  { s with agenda := [.engine (placeQueue w) (isFill (placeJob w))], regs := { s.regs with run := true },
           queues := tput s.queues (qKey (placeQueue w)) { EQueue.reset with jobs := [placeJob w] } }

end Sys2Proof.Machine
end

