-- ==== Sys2Proof/Machine/Step.lean ====
section
/-! DEFINITION. The step of the package, and the state that runs a given instruction next. What a step does stands in
Machine/Turn.lean. -/

namespace Sys2Proof.Machine

/-- One step of the package. -/
def step (s : State) : Host.Outcome State Fault Refusal := nextTurn s

/-- s with an instruction, its bits numbered as spec/opcode_table.json numbers them, placed where the next step runs it (log 2). -/
def State.withFetchWord (s : State) (nbits w : Nat) : State :=
  if nbits ≤ 32 then placeWord s (wordBytes (w % 2 ^ nbits)) else placeCmd s (BitVec.ofNat 256 (w % 2 ^ nbits))

end Sys2Proof.Machine
end

