-- ==== Sys2Proof/Safety.lean ====
section
/-! DEFINITION. What a safe run is, and the terms in which statements say what an instruction does: operands that can be read and
written, and the state that reading and writing them leaves. -/

namespace Sys2Proof.Machine

/-- The step answers a next state. -/
def State.steps (s : State) : Prop := ∃ t, step s = .next t

/-- Every memory has its canonical form: physical memory, as it stands and as the last edge left it, every element's local store, every
cluster's operand memory, and every latched tile. -/
def State.memOk (s : State) : Prop :=
  Memory.wf s.mem = true ∧ Memory.wf s.memEdge = true ∧ (∀ p ∈ s.elems, Memory.wf p.2.ls = true) ∧
    ∀ p ∈ s.clusters, Memory.wf p.2.opm = true ∧ ∀ t ∈ p.2.tiles, Memory.wf t.data = true

/-- No element holds more than the eight lane groups of its cluster, nor does the task that an urgent one interrupted; and no run has more
to go back to when it aborts (R28, R163, R281). -/
def State.grantsOk (s : State) : Prop :=
  ∀ p ∈ s.elems, p.2.csr.g ≤ 8 ∧ (∀ r : Run, p.2.run = some r → r.start.g ≤ 8) ∧
    ∀ u : Saved, p.2.under = some u → u.csr.g ≤ 8 ∧ u.run.start.g ≤ 8

/-! ## Source registers (R9, R11) -/

/-- A source register can be read: w0; a workspace register whose dword holds no poison; or a port with a neighbour and a word, in a
task that is not urgent. -/
def State.canRead (s : State) (r : Reg) : Bool :=
  let x := curElem s
  if r.toNat ≤ 27 then r == 0 || !x.lsBad.contains (wOff x r.toNat / 8)
  else !isUrgent x && (neighbour s s.cur (portOf r)).isSome && !(tget x.fifo (portOf r) []).isEmpty

/-- The value of a source register, and the state after reading it: a port has given its head word, which the run has taken. -/
def State.fetchReg (s : State) (r : Reg) : Dword × State :=
  let x := curElem s
  if r.toNat ≤ 27 then (getW x r, s)
  else
    match tget x.fifo (portOf r) [] with
    | [] => (0, s)
    | p :: l =>
      (p.word.setWidth 64, modCur s (fun y =>
        { y with fifo := tput y.fifo (portOf r) l, run := y.run.map (fun q => { q with taken := q.taken ++ [(portOf r, p)] }) }))

/-- The value of a source. -/
def State.src1 (s : State) (a : Reg) : Dword := (s.fetchReg a).1
/-- The state after reading a source. -/
def State.after1 (s : State) (a : Reg) : State := (s.fetchReg a).2
/-- Two source registers can be read, the first before the second. -/
def State.canRead2 (s : State) (a b : Reg) : Bool := s.canRead a && (s.after1 a).canRead b

/-- The second of two source values. -/
def State.src2 (s : State) (a b : Reg) : Dword := (s.after1 a).src1 b
/-- The state after reading two sources. -/
def State.after2 (s : State) (a b : Reg) : State := (s.after1 a).after1 b

/-! ## Local store and the outbox (R8, R21) -/

/-- The undo log of the running run has the old value of a dword, or room for it. -/
def State.canLog (s : State) (d : Nat) : Bool :=
  match (curElem s).run with
  | some r => (tfind r.undo d).isSome || decide (r.undo.length < undoCap)
  | none => false

/-- The state with the old value of a dword in the undo log. -/
def State.logged (s : State) (d : Nat) : State :=
  match (curElem s).run with
  | some r =>
    if (tfind r.undo d).isSome then s
    else modCur s (fun y => { y with run := some { r with undo := tput r.undo d (startDword (curElem s) r d) } })
  | none => s

/-- The state with n bytes of local store, within one dword, written and their dword logged. -/
def State.putLs (s : State) (off n v : Nat) : State := modCur (s.logged (off / 8)) (fun y => lsWrite y off n v)

/-- The outbox of the running run has room. -/
def State.canQueue (s : State) : Bool :=
  match (curElem s).run with
  | some r => decide (r.ob.length < obCap)
  | none => false

/-- The state with an entry at the end of the outbox of the running run. -/
def State.queued (s : State) (o : OutEntry) : State :=
  modCur s (fun y => { y with run := y.run.map (fun r => { r with ob := r.ob ++ [o] }) })

/-! ## The destination register (R9, R11, R108) -/

/-- A destination register can be written: w0; a workspace register whose dword can be logged; or a port with a neighbour, a credit and
room in the outbox, in a task that is not urgent and whose timestamp plus child offset stays below 2^64. -/
def State.canWrite (s : State) (r : Reg) : Bool :=
  let x := curElem s
  if r == 0 then true
  else if r.toNat ≤ 27 then s.canLog (wOff x r.toNat / 8)
  else
    !isUrgent x && (neighbour s s.cur (portOf r)).isSome && decide (childTs x.csr < 2 ^ 64) && tget x.credit (portOf r) 16 != 0
      && s.canQueue

/-- The state with a destination register written: w0 discards; a workspace register is a dword of local store; a port takes one credit
and puts the low word in the outbox. -/
def State.putReg (s : State) (r : Reg) (v : Dword) : State :=
  let x := curElem s
  if r == 0 then s
  else if r.toNat ≤ 27 then s.putLs (wOff x r.toNat) 8 v.toNat
  else
    modCur (s.queued (.port (portOf r) { word := v.setWidth 32, ts := dw (childTs x.csr), lid := x.csr.lid }))
      (fun y => { y with credit := tput y.credit (portOf r) (tget x.credit (portOf r) 16 - 1) })

/-- The state with a register written and flags raised. -/
def State.putFp (s : State) (r : Reg) (v : Dword) (fl : Nat) : State :=
  modCur (s.putReg r v) (fun x => { x with csr := { x.csr with fpflags := x.csr.fpflags ||| BitVec.ofNat 7 fl } })

/-! ## Parameter blocks (R131) -/

/-- A block of n dwords lies in local store, aligned to 8 and without poison. -/
def State.canBlock (s : State) (va : Dword) (n : Nat) : Bool :=
  let x := curElem s
  va.toNat % 8 == 0 && inLs va.toNat && decide (va.toNat - lsBase + 8 * n ≤ lsSize x) && !lsPoisoned x (va.toNat - lsBase) (8 * n)

/-- The dwords of a block. -/
def State.blockAt (s : State) (va : Dword) (n : Nat) : List Dword :=
  bytesDwords (memRead (curElem s).ls (va.toNat - lsBase) (8 * n))

/-! ## Accesses (R117, R118, R278) -/

/-- The virtual address of an access of sz bytes at an offset of a buffer record, where the checks of R117 that need no translation
pass. -/
def State.accessVa (s : State) (bf off sz : Nat) : Option Nat :=
  let x := curElem s
  if bf = 0 ∧ modeOf x = 0 then none
  else
    match boundOff (bfReg x bf) (bf == 0) off sz with
    | some (o, true) =>
      let va := (recBase (bfReg x bf) + o) % 2 ^ 64
      if 2 ^ 55 ≤ va ∨ va % sz ≠ 0 then none else some va
    | _ => none

/-- An access lies beyond its record's extent under BMODE ZERO: a load gives 0, a store does nothing (R117). -/
def State.zeroAt (s : State) (bf off sz : Nat) : Bool :=
  let x := curElem s
  !(bf == 0 && modeOf x == 0) && boundOff (bfReg x bf) (bf == 0) off sz == some (off, false)

/-- The local-store offset of an access that passes the checks of R117 and lies in local store. -/
def State.localAt (s : State) (bf off sz : Nat) : Option Nat :=
  match s.accessVa bf off sz with
  | some va => if inLs va = true ∧ va - lsBase + sz ≤ lsSize (curElem s) then some (va - lsBase) else none
  | none => none

/-- The translation of an access outside local store, with the state that holds its accessed and dirty bits and TLB entries. -/
def State.mappedAt (s : State) (k : AccKind) (bf off sz : Nat) : Option (Xlat × State) :=
  let x := curElem s
  match s.accessVa bf off sz with
  | some va =>
    if inLs va = true then none
    else
      match translate s (.element s.cur) (asidOf s x (recAsid (bfReg x bf))) va (modeOf x) k with
      | .ok (t, u) =>
        if t.beyond then none
        else some ({ t with untr := recUntr (bfReg x bf) || t.untr }, u)
      | .error _ => none
  | none => none

/-- The read set of the running run has a line, or room for it; an untracked read needs neither. -/
def State.canTrack (s : State) (line : Nat) (untr : Bool) : Bool :=
  untr ||
    match (curElem s).run with
    | some r => r.rs.contains line || decide (r.rs.length < rsCap)
    | none => false

/-- The state with a line in the read set. -/
def State.tracked (s : State) (line : Nat) (untr : Bool) : State :=
  match (curElem s).run with
  | some r => if untr || r.rs.contains line then s else modCur s (fun y => { y with run := some { r with rs := line :: r.rs } })
  | none => s

/-- What a run reads at a physical address, where the bytes are reachable: its own buffered writes over the release set of its domain
over memory (R278). -/
def State.seen (s : State) (pa n : Nat) : Option (List Byte) :=
  let x := curElem s
  if covers (wbOf x) (rlSeen s x) pa n then some (overlay (wbOf x) pa (overlay (rlSeen s x) pa (List.replicate n 0)))
  else (physRead s pa n).map (fun l => overlay (wbOf x) pa (overlay (rlSeen s x) pa l))

/-- The write buffer of the running run has a line, or room for it. -/
def State.canBuffer (s : State) (pa : Nat) : Bool :=
  match (curElem s).run with
  | some r => (wbLines r.wb).contains (pa / 64) || decide ((wbLines r.wb).length < wbCap)
  | none => false

/-- The state with bytes in the write buffer of the running run. -/
def State.buffered (s : State) (pa codec : Nat) (l : List Byte) : State :=
  modCur s (fun y =>
    { y with run := y.run.map (fun r => { r with wb := ((span pa l.length).zip l).foldl (fun t x => tput t x.1 (x.2, codec)) r.wb }) })

/-! ## Multiple accesses (R119, R277) -/

/-- One dword loaded into a register: from local store, from memory as R278 sources it, or 0 beyond the extent under ZERO. -/
def State.loadsDword (s t : State) (bf off : Nat) (d : Reg) : Prop :=
  (∃ o : Nat, s.localAt bf off 8 = some o ∧ lsPoisoned (curElem s) o 8 = false ∧ s.canWrite d = true ∧
    t = s.putReg d (dw (leNat (memRead (curElem s).ls o 8)))) ∨
  (∃ (r : Xlat) (u : State) (l : List Byte), s.mappedAt .load bf off 8 = some (r, u) ∧ u.canTrack (r.pa / 64) r.untr = true ∧
    (u.tracked (r.pa / 64) r.untr).seen r.pa 8 = some l ∧ (u.tracked (r.pa / 64) r.untr).canWrite d = true ∧
    t = (u.tracked (r.pa / 64) r.untr).putReg d (dw (leNat l))) ∨
  (s.zeroAt bf off 8 = true ∧ s.canWrite d = true ∧ t = s.putReg d 0)

/-- One dword stored from a register: into local store, into the write buffer, or nowhere beyond the extent under ZERO. -/
def State.storesDword (s t : State) (bf off : Nat) (d : Reg) : Prop :=
  (∃ o : Nat, s.localAt bf off 8 = some o ∧ s.canRead d = true ∧ (s.after1 d).canLog (o / 8) = true ∧
    t = (s.after1 d).putLs o 8 (s.src1 d).toNat) ∨
  (∃ (r : Xlat) (u : State), s.mappedAt .store bf off 8 = some (r, u) ∧ u.canRead d = true ∧ (u.after1 d).canBuffer r.pa = true ∧
    t = (u.after1 d).buffered r.pa r.codec (leBytes 8 (u.src1 d).toNat)) ∨
  (s.zeroAt bf off 8 = true ∧ t = s)

/-- The physical line of a load outside local store. -/
def State.lineAt (s : State) (bf off sz : Nat) : Option Nat := (s.mappedAt .load bf off sz).map (fun p => p.1.pa / 64)

/-- The dword that an LDM or STM goes on at: where its last execution left off, EPROG when it is the first after ERET, or the first. -/
def State.firstDword (s : State) : Nat :=
  let x := curElem s
  if vdoneOf x ≠ 0 then vdoneOf x else if x.afterEret = true then x.x.eprog.toNat else 0

/-! ## The vector unit (R169, R183) -/

/-- Lane groups granted to the running task (R28). -/
def State.grant (s : State) : Nat := (curElem s).csr.g

/-- The elements of a vector register in a format. -/
def State.lanes (s : State) (f : Fmt) (r : BitVec 5) : List Nat := vElems (curElem s) f s.grant r

/-- The state with flags ORed into FPFLAGS. -/
def State.raised (s : State) (fl : Nat) : State :=
  modCur s (fun x => { x with csr := { x.csr with fpflags := x.csr.fpflags ||| BitVec.ofNat 7 fl } })

/-- The state with results in the active elements of a vector register and their flags in FPFLAGS: inactive elements keep their values
and raise nothing (R169). -/
def State.putLanes (s : State) (vd : BitVec 5) (m : BitVec 3) (f : Fmt) (rs : List (Nat × Nat)) : State :=
  let t := blend (getMask (curElem s) m) 0 (s.lanes f vd) rs
  (modCur s (fun y => putV y vd f t.1)).raised t.2

/-- The state with converted elements: those below the counts of both formats, the others of the destination 0 (R183). -/
def State.putConverted (s : State) (vd va : BitVec 5) (m : BitVec 3) (src dst : Fmt) (op : Nat → Nat × Nat) : State :=
  let k := Nat.min (vCount src s.grant) (vCount dst s.grant)
  let t := blend (getMask (curElem s) m) 0 ((s.lanes dst vd).take k) (((s.lanes src va).take k).map op)
  (modCur s (fun y => putV y vd dst t.1)).raised t.2

/-- The mode of the running task: 0 user, 1 supervisor, 2 machine (R34). -/
def State.mode (s : State) : Nat := modeOf (curElem s)

/-- The current task has a child timestamp below 2^64 (R24). -/
def State.tsOk (s : State) : Bool := decide (childTs (curElem s).csr < 2 ^ 64)

end Sys2Proof.Machine
end

