-- ==== Sys2Proof/Certificates/Slice0/Obligations.lean ====
section
/-! DEFINITION. The statements about the model, for the provers. OBLIGATIONS.json lists them with the rules of spec/ that they state. -/

open Sys2Proof Sys2Proof.Machine

/-! ## Encoding -/

/-- R62 to R76: decoding the word of a well-formed element instruction gives it back, with every operand at every value, and the decoder
accepts no other word: every rsv bit is 0 and every field lies within its limits. -/
def Obligations.DecodeEncodeWord : Prop :=
  ∀ (i : Instr) (w : BitVec 32), decodeWord w = .ok i ↔ i.wf = true ∧ encodeWord i = some w

/-- R78 to R80: decoding the command word of a well-formed engine command gives it back, with every operand at every value. -/
def Obligations.DecodeEncodeCommand : Prop :=
  ∀ (i : Instr) (w : BitVec 256), i.wf = true → encodeCmd i = some w → decodeCmd w = some i

/-- Words written out from the spec's tables decode to their instructions: the three worked encodings of R73, that of R74, the word of
R64, and words of other families put together from R62 to R74. -/
def Obligations.DecodeSampleWords : Prop :=
  decodeWord 0xC0000140 = .ok .nop ∧
  decodeWord 0xC0E00010 = .ok (.csrrd 7 0x010) ∧
  decodeWord 0xCCAA0001 = .ok (.enq 5 10 1) ∧
  decodeWord 0xE8642A13 = .ok (.vfma 3 4 5 2 .fp32) ∧
  decodeWord 0x00000000 = .ok (.add 0 0 0) ∧
  decodeWord (0b000001_00101_00010_1111111111111111 : BitVec 32) = .ok (.addi 5 2 0xFFFF) ∧
  decodeWord (0b001010_00011_00100_00101_00001_000010 : BitVec 32) = .ok (.fmul 3 4 5 .fp64) ∧
  decodeWord (0b010110_01001_0010_00110_111111111000 : BitVec 32) = .ok (.ldd 9 2 6 0xFF8) ∧
  decodeWord (0b011110_00111_0011_00101_00110_0000_011 : BitVec 32) = .ok (.amoAdd 7 3 5 6 .nord) ∧
  decodeWord (0b100001_00001_00010_1_111111111111110 : BitVec 32) = .ok (.bne 1 2 true 0x7FFE) ∧
  decodeWord (0b101001_0_0000000000000000000010000 : BitVec 32) = .ok (.jal 16) ∧
  decodeWord (0b110001_00101_00110_00111_000000_00011 : BitVec 32) = .ok (.send 5 6 7 3)

/-! ## Steps -/

/-- R124, R126, R277: an element's turn fetches the word at P and executes the instruction that the decoder reads; an annulled step does
nothing but move on, and is not the first instruction after an ERET (R119). No asynchronous machine check is due (R371), and the planned turn is the model's (log 2). -/
def Sys2Proof.Machine.ElementStepRunsDecoded : Prop :=
  ∀ (s : State) (e : Nat) (l : List Turn) (w : BitVec 32) (i : Instr) (t : State),
    s.agenda = .element e :: l → canMove s e = true → s.hostLost = none →
    let s1 : State := { s with agenda := l, tick := s.tick + 1, marks := [], cur := e }
    dueCheck (curElem s1) = none →
    ((curElem s1).seq.ap = true → step s = .next (modCur s1 (fun x => { x with seq := seqNext x.seq }))) ∧
    ((curElem s1).seq.ap = false → fetch s1 = .ok (w, t) → decodeWord w = .ok i →
      (namesPort w && isUrgent (curElem t)) = false → step s = exec i t)

/-- R333: an engine's turn executes the command that its queue has chosen (the planned turn is the model's: log 2). -/
def Sys2Proof.Machine.EngineStepRunsDecoded : Prop :=
  ∀ (s : State) (q : QueueId) (fill : Bool) (l : List Turn) (j : Job) (i : Instr),
    s.agenda = .engine q fill :: l →
    let s1 : State := { s with agenda := l, tick := s.tick + 1, marks := [] }
    (queue s1 q).edge = none → chooseJob s1 q fill = some j → decodeCmd j.cmd = some i →
      step s = exec i (takeJob s1 q fill j)

/-- R124, R126, R277, R333: a step fetches or takes, decodes and executes: an element's turn, and an engine's (which turn is planned is the
model's: log 2). -/
def Obligations.StepRunsDecoded : Prop := ElementStepRunsDecoded ∧ EngineStepRunsDecoded

/-- R64, R76: a word that the decoder refuses, and a port that an urgent task names, trap ILLOP with the word in EVAL. -/
def Obligations.RefusedWordsTrap : Prop :=
  ∀ (s : State) (w : BitVec 32),
    (∀ e, decodeWord w = .error e → execWord w s = .next (takeTrap s cILLOP (w.setWidth 64))) ∧
    (∀ i, decodeWord w = .ok i → namesPort w = true → isUrgent (curElem s) = true →
      execWord w s = .next (takeTrap s cILLOP (w.setWidth 64))) ∧
    (∀ e, decodeWord w = .error e → exec (.unassignedOpcode w) s = .next (takeTrap s cILLOP (w.setWidth 64)))

/-- Every memory keeps its canonical form through every step: physical memory, every element's local store, every cluster's operand
memory and every latched tile. So does the bound on grants: no element ever holds more than the eight lane groups of its cluster (R28, R163),
nor does a task that an urgent one interrupted, and no run has more to go back to when it aborts (R281). -/
def Obligations.StepKeepsMemoryForm : Prop :=
  (∀ s t : State, s.memOk → step s = .next t → t.memOk) ∧ (∀ s t : State, s.grantsOk → step s = .next t → t.grantsOk)

/-- The memories have their canonical form after reset, and no element holds a lane group. That an unlisted byte reads as 0 is the model's
choice (log 6). -/
def Obligations.ResetMemoryForm : Prop := State.reset.memOk ∧ State.reset.grantsOk

/-- R13, R29, R33, R265: what reset leaves: every CSR whose value does not come from boot is 0 but STATUS, 0x1_0000_0000, and RPERIOD, 10;
every channel entry is 0 but its MASK, 1; every counter is 0; RCB is 6 and RCMAXR 4. -/
def Obligations.ResetValues : Prop :=
  (∀ e n : Nat, (csrKind n).isSome = true → n ∉ [0x006, 0x200, 0x201, 0x202] →
    csrGet { State.reset with cur := e } n = if n = 0 then 0x100000000 else if n = 5 then 10 else 0) ∧
  (∀ e ch : Nat, let c := chEntry (elem State.reset e) ch
    c.mask = true ∧ c.pc = 0 ∧ c.mbx = 0 ∧ c.wpo = 0 ∧ c.tcnt = 0 ∧ c.tport = 0 ∧ c.lid = 0 ∧ c.rm = 0 ∧ c.trig = 0 ∧ c.mode = 0 ∧ c.prio = 0) ∧
  (∀ c n : Nat, (counter State.reset c n).value = 0) ∧
  ∀ i : Nat, i < 2 → (die State.reset (4 + i)).rcb = 6 ∧ (die State.reset (4 + i)).rcmaxr = 4

/-! ## Shapes of statements -/

/-- The instruction completes: the element is left in t and moves on to its next instruction (R124). -/
def Sys2Proof.Machine.Does (i : Instr) (s t : State) : Prop := exec i s = .next (advance t)

/-- The instruction traps with a cause and EVAL, and has no other effect (R363, R367). -/
def Sys2Proof.Machine.Traps (i : Instr) (s : State) (cause : Nat) (ev : Dword) : Prop :=
  exec i s = .next (takeTrap (noteMcheck s cause ev) cause ev)

/-- The instruction traps, and of what it did before keeps only what has reached memory: the accessed and dirty bits of its translations,
and the drops that it counted (R304, R348). -/
def Sys2Proof.Machine.TrapsKeeping (i : Instr) (s : State) (l : List Kept) (cause : Nat) (ev : Dword) : Prop :=
  exec i s = .next (takeTrap (noteMcheck (keepMarks s l) cause ev) cause ev)

/-- From two sources: w[d] := f(w[a], w[b]). -/
def Sys2Proof.Machine.Computes2 (i : Reg → Reg → Reg → Instr) (f : Dword → Dword → Dword) : Prop :=
  ∀ (s : State) (d a b : Reg), s.canRead2 a b = true → (s.after2 a b).canWrite d = true →
    Does (i d a b) s ((s.after2 a b).putReg d (f (s.src1 a) (s.src2 a b)))

/-- From one source: w[d] := f(w[a]). -/
def Sys2Proof.Machine.Computes1 (i : Reg → Reg → Instr) (f : Dword → Dword) : Prop :=
  ∀ (s : State) (d a : Reg), s.canRead a = true → (s.after1 a).canWrite d = true →
    Does (i d a) s ((s.after1 a).putReg d (f (s.src1 a)))

/-- From two floating sources, under the rounding mode in force: w[d] and FPFLAGS (R92, R113). -/
def Sys2Proof.Machine.ComputesFp2 (i : Reg → Reg → Reg → FpFmt → Instr) (op : Fmt → Nat → Nat → Nat → Nat × Nat) : Prop :=
  ∀ (s : State) (d a b : Reg) (f : FpFmt), s.canRead2 a b = true → (s.after2 a b).canWrite d = true →
    let r := op (fpFmt f) (curElem s).csr.fprm.toNat (fpSrc (fpFmt f) (s.src1 a)) (fpSrc (fpFmt f) (s.src2 a b))
    Does (i d a b f) s ((s.after2 a b).putFp d (dw r.1) r.2)

/-! ## INT and immediates (R109 to R112) -/

/-- R109: the two-source operations of the INT group, ADD, SUB, AND, OR, XOR, ANDN, SLL, SRL, SRA, SLT, SLTU, MIN, MAX, MINU, MAXU, MUL,
MULH, MULHU, DIV, DIVU, REM, REMU and LEA, complete with these results. -/
def Sys2Proof.Machine.TwoSourceResults : Prop :=
  Computes2 .add (fun x y => BitVec.ofNat 64 (x.toNat + y.toNat)) ∧
  Computes2 .sub (fun x y => BitVec.ofInt 64 ((x.toNat : Int) - y.toNat)) ∧
  Computes2 .and (fun x y => x &&& y) ∧ Computes2 .or (fun x y => x ||| y) ∧ Computes2 .xor (fun x y => x ^^^ y) ∧
  Computes2 .andn (fun x y => x &&& ~~~y) ∧
  Computes2 .sll (fun x y => x <<< (y.toNat % 64)) ∧ Computes2 .srl (fun x y => x >>> (y.toNat % 64)) ∧
  Computes2 .sra (fun x y => x.sshiftRight (y.toNat % 64)) ∧
  Computes2 .slt (fun x y => if x.toInt < y.toInt then 1 else 0) ∧ Computes2 .sltu (fun x y => if x.toNat < y.toNat then 1 else 0) ∧
  Computes2 .min (fun x y => if x.toInt < y.toInt then x else y) ∧ Computes2 .max (fun x y => if x.toInt < y.toInt then y else x) ∧
  Computes2 .minu (fun x y => if x.toNat < y.toNat then x else y) ∧ Computes2 .maxu (fun x y => if x.toNat < y.toNat then y else x) ∧
  Computes2 .mul (fun x y => BitVec.ofNat 64 (x.toNat * y.toNat)) ∧
  Computes2 .mulh (fun x y => BitVec.ofInt 64 (x.toInt * y.toInt / 2 ^ 64)) ∧
  Computes2 .mulhu (fun x y => BitVec.ofNat 64 (x.toNat * y.toNat / 2 ^ 64)) ∧
  Computes2 .div (divQ true) ∧ Computes2 .divu (divQ false) ∧ Computes2 .rem (divR true) ∧ Computes2 .remu (divR false) ∧
  ∀ sh : BitVec 5, Computes2 (fun d a b => .lea d a b sh) (fun x y => BitVec.ofNat 64 (x.toNat + y.toNat * 2 ^ sh.toNat))

/-- R110: quotients and remainders, which never trap. A divisor of 0 gives all ones and the dividend; the most negative number over −1 gives itself and 0;
otherwise the quotient truncates toward zero and the remainder has the sign of the dividend. -/
def Obligations.DivisionCorners : Prop :=
  (Computes2 .div (divQ true) ∧ Computes2 .divu (divQ false) ∧ Computes2 .rem (divR true) ∧ Computes2 .remu (divR false)) ∧
  ∀ x y : Dword,
    (y = 0 → divQ true x y = BitVec.allOnes 64 ∧ divQ false x y = BitVec.allOnes 64 ∧ divR true x y = x ∧ divR false x y = x) ∧
    (x = 0x8000000000000000 → y = BitVec.allOnes 64 → divQ true x y = x ∧ divR true x y = 0) ∧
    (y ≠ 0 → ¬ (x = 0x8000000000000000 ∧ y = BitVec.allOnes 64) →
      (divQ true x y).toInt = x.toInt.tdiv y.toInt ∧ (divR true x y).toInt = x.toInt.tmod y.toInt) ∧
    (y ≠ 0 → (divQ false x y).toNat = x.toNat / y.toNat ∧ (divR false x y).toNat = x.toNat % y.toNat)

/-- R109: the one-source operations of the INT group, CLZ, CTZ, POPC, EXTS and EXTZ, complete with these results. -/
def Sys2Proof.Machine.OneSourceResults : Prop :=
  Computes1 .clz (fun x => if x = 0 then 64 else BitVec.ofNat 64 (63 - x.toNat.log2)) ∧
  Computes1 .ctz (fun x => dw (ctz64 x)) ∧
  Computes1 .popc (fun x => dw (countIf (fun i => x.getLsbD i) (List.range 64))) ∧
  (∀ sh : BitVec 5, Computes1 (fun d a => .exts d a sh) (fun x => (x.setWidth (sh.toNat + 1)).signExtend 64)) ∧
  (∀ sh : BitVec 5, Computes1 (fun d a => .extz d a sh) (fun x => (x.setWidth (sh.toNat + 1)).setWidth 64))

/-- R112: the immediates, ADDI, ANDI, ORI, XORI, SLTI, SLTIU, ORIH, ORIT, SLLI, SRLI, SRAI and LUI, complete with these results. -/
def Obligations.ImmediateGroup : Prop :=
  (∀ k : BitVec 16, Computes1 (fun d a => .addi d a k) (fun x => x + k.signExtend 64)) ∧
  (∀ k : BitVec 16, Computes1 (fun d a => .andi d a k) (fun x => x &&& k.setWidth 64)) ∧
  (∀ k : BitVec 16, Computes1 (fun d a => .ori d a k) (fun x => x ||| k.setWidth 64)) ∧
  (∀ k : BitVec 16, Computes1 (fun d a => .xori d a k) (fun x => x ^^^ k.setWidth 64)) ∧
  (∀ k : BitVec 16, Computes1 (fun d a => .slti d a k) (fun x => if x.toInt < k.toInt then 1 else 0)) ∧
  (∀ k : BitVec 16, Computes1 (fun d a => .sltiu d a k) (fun x => if x.toNat < (k.signExtend 64).toNat then 1 else 0)) ∧
  (∀ k : BitVec 16, Computes1 (fun d a => .orih d a k) (fun x => x ||| (k.setWidth 64 <<< 32))) ∧
  (∀ k : BitVec 16, Computes1 (fun d a => .orit d a k) (fun x => x ||| (k.setWidth 64 <<< 48))) ∧
  (∀ k : BitVec 6, Computes1 (fun d a => .slli d a k) (fun x => x <<< k.toNat)) ∧
  (∀ k : BitVec 6, Computes1 (fun d a => .srli d a k) (fun x => x >>> k.toNat)) ∧
  (∀ k : BitVec 6, Computes1 (fun d a => .srai d a k) (fun x => x.sshiftRight k.toNat)) ∧
  (∀ (s : State) (d : Reg) (k : BitVec 16), s.canWrite d = true → Does (.lui d k) s (s.putReg d ((k ++ (0 : BitVec 16)).signExtend 64)))

/-- R109, R111: CMOVZ and CMOVNZ read both sources and write w[d] only where the condition on w[b] holds. -/
def Sys2Proof.Machine.ConditionalMoves : Prop :=
  ∀ (s : State) (d a b : Reg), s.canRead2 a b = true →
    (s.src2 a b = 0 → (s.after2 a b).canWrite d = true → Does (.cmovz d a b) s ((s.after2 a b).putReg d (s.src1 a))) ∧
    (s.src2 a b ≠ 0 → Does (.cmovz d a b) s (s.after2 a b)) ∧
    (s.src2 a b ≠ 0 → (s.after2 a b).canWrite d = true → Does (.cmovnz d a b) s ((s.after2 a b).putReg d (s.src1 a))) ∧
    (s.src2 a b = 0 → Does (.cmovnz d a b) s (s.after2 a b))

/-- R109, R111: the INT group. -/
def Obligations.IntGroup : Prop := TwoSourceResults ∧ OneSourceResults ∧ ConditionalMoves

/-- R11: a port without a neighbour, or in an urgent task, traps ILLOP with the instruction word in EVAL; an empty port aborts the run
until a word arrives; a port without credits aborts it until one returns. Said of ADD's first source and of LUI's destination. -/
def Obligations.PortStops : Prop :=
  ∀ (s : State) (d a b : Reg) (k : BitVec 16), 28 ≤ a.toNat → 28 ≤ d.toNat →
    (isUrgent (curElem s) = true ∨ neighbour s s.cur (portOf a) = none → Traps (.add d a b) s cILLOP (instrWord (.add d a b))) ∧
    (isUrgent (curElem s) = false → (neighbour s s.cur (portOf a)).isSome = true → tget (curElem s).fifo (portOf a) [] = [] →
      exec (.add d a b) s = .next (abortRunning s s.cur (.port (portOf a) true))) ∧
    (isUrgent (curElem s) = true ∨ neighbour s s.cur (portOf d) = none → Traps (.lui d k) s cILLOP (instrWord (.lui d k))) ∧
    (isUrgent (curElem s) = false → (neighbour s s.cur (portOf d)).isSome = true → s.tsOk = true →
      tget (curElem s).credit (portOf d) 16 = 0 → exec (.lui d k) s = .next (abortRunning s s.cur (.port (portOf d) false)))

/-! ## FPU (R113 to R116) -/

/-- R113 to R116: the FPU group, FADD, FSUB, FMUL, FDIV, FMIN, FMAX, FCMPEQ, FCMPLT, FCMPLE, FFMA, FSQRT, FCLASS, FNEG, FABS and FCVT,
completes with the results of the number formats' operations, rounded once by FPRM, and with their flags ORed into FPFLAGS. -/
def Obligations.FpuResults : Prop :=
  ComputesFp2 .fadd fpAdd ∧ ComputesFp2 .fsub fpSub ∧ ComputesFp2 .fmul fpMul ∧ ComputesFp2 .fdiv fpDiv ∧
  ComputesFp2 .fmin (fun f _ x y => fpMin f x y) ∧ ComputesFp2 .fmax (fun f _ x y => fpMax f x y) ∧
  ComputesFp2 .fcmpeq (fun f _ x y => (if (fpEq f x y).1 then 1 else 0, (fpEq f x y).2)) ∧
  ComputesFp2 .fcmplt (fun f _ x y => (if (fpLt f x y).1 then 1 else 0, (fpLt f x y).2)) ∧
  ComputesFp2 .fcmple (fun f _ x y => (if (fpLe f x y).1 then 1 else 0, (fpLe f x y).2)) ∧
  (∀ (s : State) (d a b : Reg) (f : FpFmt), s.canRead2 a b = true → (s.after2 a b).canRead d = true →
    ((s.after2 a b).after1 d).canWrite d = true →
    let r := fpFma (fpFmt f) (curElem s).csr.fprm.toNat (fpSrc (fpFmt f) (s.src1 a)) (fpSrc (fpFmt f) (s.src2 a b))
      (fpSrc (fpFmt f) ((s.after2 a b).src1 d))
    Does (.ffma d a b f) s (((s.after2 a b).after1 d).putFp d (dw r.1) r.2)) ∧
  (∀ (s : State) (d a : Reg) (f : FpFmt), s.canRead a = true → (s.after1 a).canWrite d = true →
    let v := fpSrc (fpFmt f) (s.src1 a)
    let r := fpSqrt (fpFmt f) (curElem s).csr.fprm.toNat v
    Does (.fsqrt d a f) s ((s.after1 a).putFp d (dw r.1) r.2) ∧
    Does (.fclass d a f) s ((s.after1 a).putReg d (dw (fpClass (fpFmt f) v))) ∧
    Does (.fneg d a f) s ((s.after1 a).putReg d (dw (fpFlip (fpFmt f) v))) ∧
    Does (.fabs d a f) s ((s.after1 a).putReg d (dw (fpAbsBits (fpFmt f) v)))) ∧
  (∀ (s : State) (d a : Reg) (src : CvtSrc) (dst : Fmt) (sat : Bool), s.canRead a = true → (s.after1 a).canWrite d = true →
    let r := fpConvert (cvtFmt src) dst (curElem s).csr.fprm.toNat sat (fpSrc (cvtFmt src) (s.src1 a))
    Does (.fcvt d a src dst sat) s ((s.after1 a).putFp d (if dst = .int32 then (BitVec.ofNat 32 r.1).signExtend 64 else dw r.1) r.2))

/-! ## Frames -/

/-- What a register write leaves unchanged: everything of the machine but the element, and of the element everything but the bytes of
local store outside the destination, the sequencing state and FPFLAGS. -/
def Sys2Proof.Machine.RegisterFrame (s t : State) (d : Reg) : Prop :=
  { t with elems := s.elems } = s ∧ (∀ e, e ≠ s.cur → elem t e = elem s e) ∧
  (let x := curElem s
   let y := curElem t
   { y with ls := x.ls, lsBad := x.lsBad, lsTodo := x.lsTodo, seq := x.seq, afterEret := x.afterEret, run := x.run,
            csr := { y.csr with fpflags := x.csr.fpflags } } = x ∧
   (∀ r : Reg, r ≠ d → r.toNat ≤ 27 → getW y r = getW x r) ∧
   (∀ a : Nat, (d = 0 ∨ a < wOff x d.toNat ∨ wOff x d.toNat + 8 ≤ a) → memGet y.ls a = memGet x.ls a) ∧
   (∀ u v : Run, x.run = some u → y.run = some v → { v with undo := u.undo } = u))

/-- The instruction form that writes one workspace register from the given sources and does nothing else. -/
def Sys2Proof.Machine.registerForm : Instr → Option (Reg × List Reg)
  | .add d a b | .sub d a b | .and d a b | .or d a b | .xor d a b | .andn d a b | .sll d a b | .srl d a b | .sra d a b
  | .slt d a b | .sltu d a b | .min d a b | .max d a b | .minu d a b | .maxu d a b | .mul d a b | .mulh d a b | .mulhu d a b
  | .div d a b | .divu d a b | .rem d a b | .remu d a b | .lea d a b _ | .cmovz d a b | .cmovnz d a b => some (d, [a, b])
  | .clz d a | .ctz d a | .popc d a | .exts d a _ | .extz d a _ | .addi d a _ | .andi d a _ | .ori d a _ | .xori d a _
  | .slti d a _ | .sltiu d a _ | .orih d a _ | .orit d a _ | .slli d a _ | .srli d a _ | .srai d a _ => some (d, [a])
  | .lui d _ => some (d, [])
  | .fadd d a b _ | .fsub d a b _ | .fmul d a b _ | .fdiv d a b _ | .fmin d a b _ | .fmax d a b _
  | .fcmpeq d a b _ | .fcmplt d a b _ | .fcmple d a b _ => some (d, [a, b])
  | .ffma d a b _ => some (d, [a, b, d])
  | .fsqrt d a _ | .fclass d a _ | .fneg d a _ | .fabs d a _ | .fcvt d a _ _ _ => some (d, [a])
  | _ => none

/-- R36, R108, R109, R112, R113: an instruction of the INT, immediate or FPU groups that names workspace registers changes no register
but its destination, no byte of memory or local store but the destination's, no special register but FPFLAGS, where it only sets
bits, and nothing of any other element; the element moves on by R124. -/
def Obligations.RegisterInstructionFrame : Prop :=
  ∀ (i : Instr) (s t : State) (d : Reg) (l : List Reg), registerForm i = some (d, l) → d.toNat ≤ 27 → s.canWrite d = true →
    (∀ r ∈ l, r.toNat ≤ 27 ∧ s.canRead r = true) → exec i s = .next t →
    RegisterFrame s t d ∧ (curElem t).seq = seqNext (curElem s).seq ∧
    (curElem s).csr.fpflags ||| (curElem t).csr.fpflags = (curElem t).csr.fpflags

/-! ## Loads and stores (R117 to R119) -/

/-- A single load of sz bytes: from local store, from memory as R278 sources it, or 0 beyond the extent under ZERO. -/
def Sys2Proof.Machine.Loads (i : Reg → BitVec 4 → Reg → BitVec 12 → Instr) (sz : Nat) (ext : Nat → Dword) : Prop :=
  ∀ (s : State) (d : Reg) (bf : BitVec 4) (x : Reg) (disp : BitVec 12), s.canRead x = true →
    let u := s.after1 x
    let off := memOff (s.src1 x) disp sz
    (∀ o : Nat, u.localAt bf.toNat off sz = some o → lsPoisoned (curElem u) o sz = false → u.canWrite d = true →
      Does (i d bf x disp) s (u.putReg d (ext (leNat (memRead (curElem u).ls o sz))))) ∧
    (∀ (r : Xlat) (t : State) (l : List Byte), u.mappedAt .load bf.toNat off sz = some (r, t) → t.canTrack (r.pa / 64) r.untr = true →
      (t.tracked (r.pa / 64) r.untr).seen r.pa sz = some l → (t.tracked (r.pa / 64) r.untr).canWrite d = true →
      Does (i d bf x disp) s ((t.tracked (r.pa / 64) r.untr).putReg d (ext (leNat l)))) ∧
    (u.zeroAt bf.toNat off sz = true → u.canWrite d = true → Does (i d bf x disp) s (u.putReg d 0))

/-- R117, R118, R278: LDB, LDBU, LDH, LDHU, LDW, LDWU and LDD load 1, 1, 2, 2, 4, 4 and 8 bytes, sign-extended or zero-extended. -/
def Sys2Proof.Machine.SingleLoads : Prop :=
  Loads .ldb 1 (fun v => (BitVec.ofNat 8 v).signExtend 64) ∧ Loads .ldbu 1 (fun v => BitVec.ofNat 64 v) ∧
  Loads .ldh 2 (fun v => (BitVec.ofNat 16 v).signExtend 64) ∧ Loads .ldhu 2 (fun v => BitVec.ofNat 64 v) ∧
  Loads .ldw 4 (fun v => (BitVec.ofNat 32 v).signExtend 64) ∧ Loads .ldwu 4 (fun v => BitVec.ofNat 64 v) ∧
  Loads .ldd 8 (fun v => BitVec.ofNat 64 v)

/-- A single store of sz bytes: into local store, into the write buffer, or nowhere beyond the extent under ZERO. The stored register is
read, or its port's word taken, once the checks have passed; a store that ZERO drops takes the word of a port too (R108), and reads no
workspace register. -/
def Sys2Proof.Machine.Stores (i : Reg → BitVec 4 → Reg → BitVec 12 → Instr) (sz : Nat) : Prop :=
  ∀ (s : State) (d : Reg) (bf : BitVec 4) (x : Reg) (disp : BitVec 12), s.canRead x = true →
    let u := s.after1 x
    let off := memOff (s.src1 x) disp sz
    (∀ o : Nat, u.localAt bf.toNat off sz = some o → u.canRead d = true → (sz = 8 ∨ (curElem u).lsBad.contains (o / 8) = false) →
      (u.after1 d).canLog (o / 8) = true →
      Does (i d bf x disp) s ((u.after1 d).putLs o sz ((u.src1 d).toNat % 2 ^ (8 * sz)))) ∧
    (∀ (r : Xlat) (t : State), u.mappedAt .store bf.toNat off sz = some (r, t) → t.canRead d = true → (t.after1 d).canBuffer r.pa = true →
      Does (i d bf x disp) s ((t.after1 d).buffered r.pa r.codec (leBytes sz (t.src1 d).toNat))) ∧
    (u.zeroAt bf.toNat off sz = true → (d.toNat ≤ 27 → Does (i d bf x disp) s u) ∧
      (28 ≤ d.toNat → u.canRead d = true → Does (i d bf x disp) s (u.after1 d)))

/-- R117, R118: STB, STH, STW and STD store the low 1, 2, 4 and 8 bytes of w[d]. -/
def Sys2Proof.Machine.SingleStores : Prop := Stores .stb 1 ∧ Stores .sth 2 ∧ Stores .stw 4 ∧ Stores .std 8

/-- R108, R117, R118, R278: the single loads and stores. -/
def Obligations.SingleAccesses : Prop := SingleLoads ∧ SingleStores

/-- The single loads and stores, with their sizes and the kind of access. -/
def Sys2Proof.Machine.singleAccesses : List ((Reg → BitVec 4 → Reg → BitVec 12 → Instr) × Nat × AccKind) :=
  [(.ldb, 1, .load), (.ldbu, 1, .load), (.ldh, 2, .load), (.ldhu, 2, .load), (.ldw, 4, .load), (.ldwu, 4, .load), (.ldd, 8, .load),
   (.stb, 1, .store), (.sth, 2, .store), (.stw, 4, .store), (.std, 8, .store)]

/-- R117, R298, R302, R304, R367: the checks of an access, in their order: PRIV for bf0 in user mode; BOUNDS beyond the extent under TRAP, and
under CLAMP where not even one element fits; PROT from 2^55 on; ALIGN; BOUNDS beyond the local store; the page faults and PROT of a
translation, which keep the drops that a walk counted; BOUNDS beyond the usable banks of a scratchpad, which keeps the accessed and dirty
bits that the translation set. Said of every single load and store whose address register is a workspace register; PRIV comes before it is read. -/
def Obligations.AccessTraps : Prop :=
  ∀ p ∈ singleAccesses, ∀ (s : State) (d : Reg) (bf : BitVec 4) (x : Reg) (disp : BitVec 12),
    let i := p.1 d bf x disp
    let sz := p.2.1
    let off := memOff (s.src1 x) disp sz
    let rec' := bfReg (curElem s) bf.toNat
    (bf = 0 → s.mode = 0 → Traps i s cPRIV (instrWord i)) ∧
    (x.toNat ≤ 27 → s.canRead x = true → ¬ (bf = 0 ∧ s.mode = 0) →
      (boundOff rec' (bf == 0) off sz = none → Traps i s cBOUNDS (dw (recBase rec' + off))) ∧
      (∀ o, boundOff rec' (bf == 0) off sz = some (o, true) →
        let va := (recBase rec' + o) % 2 ^ 64
        (2 ^ 55 ≤ va → Traps i s cPROT (dw va)) ∧
        (va < 2 ^ 55 → va % sz ≠ 0 → Traps i s cALIGN (dw va)) ∧
        (va < 2 ^ 55 → va % sz = 0 → lsBase ≤ va → lsSize (curElem s) < va - lsBase + sz → Traps i s cBOUNDS (dw va)) ∧
        (va % sz = 0 → va < lsBase →
          let tr := translate s (.element s.cur) (asidOf s (curElem s) (recAsid rec')) va s.mode p.2.2
          (∀ e, tr = .error e → TrapsKeeping i s (xMarks s (idieOf (dieOf s.cur)) e ++ s.marks) (xCause p.2.2 e) (dw va)) ∧
          (∀ (r : Xlat) (u : State), tr = .ok (r, u) → r.beyond = true → TrapsKeeping i s u.marks cBOUNDS (dw va)))))

/-- What a store leaves unchanged: a store to local store, everything but the bytes it computes the place of (R117), their poison and the
undo log; a store elsewhere, everything as the translation left it, every byte of memory among it, but the stored bytes of the write
buffer, until the run commits (R21, R118); one that ZERO drops, everything. -/
def Obligations.StoreFrame : Prop :=
  ∀ p ∈ [((.stb : Reg → BitVec 4 → Reg → BitVec 12 → Instr), 1), (.sth, 2), (.stw, 4), (.std, 8)],
    ∀ (s t : State) (d : Reg) (bf : BitVec 4) (x : Reg) (disp : BitVec 12),
    d.toNat ≤ 27 → x.toNat ≤ 27 → s.canRead x = true → exec (p.1 d bf x disp) s = .next t →
    let off := memOff (s.src1 x) disp p.2
    let z := curElem t
    (∀ o : Nat, s.localAt bf.toNat off p.2 = some o → s.canRead d = true → s.canLog (o / 8) = true →
      (p.2 = 8 ∨ (curElem s).lsBad.contains (o / 8) = false) →
      { t with elems := s.elems } = s ∧ (∀ e, e ≠ s.cur → elem t e = elem s e) ∧
      (let y := curElem s
       { z with ls := y.ls, lsBad := y.lsBad, lsTodo := y.lsTodo, seq := y.seq, afterEret := y.afterEret, run := y.run } = y ∧ z.seq = seqNext y.seq ∧
       (∀ a : Nat, a < o ∨ o + p.2 ≤ a → memGet z.ls a = memGet y.ls a) ∧
       (∀ n : Nat, n ≠ o / 8 → z.lsBad.contains n = y.lsBad.contains n) ∧
       (∀ u v : Run, y.run = some u → z.run = some v → { v with undo := u.undo } = u))) ∧
    (∀ (r : Xlat) (u : State), s.mappedAt .store bf.toNat off p.2 = some (r, u) → u.canRead d = true → u.canBuffer r.pa = true →
      { t with elems := u.elems } = u ∧ (∀ e, e ≠ s.cur → elem t e = elem u e) ∧
      (let y := curElem u
       { z with seq := y.seq, afterEret := y.afterEret, run := y.run } = y ∧ z.seq = seqNext y.seq ∧
       (∀ v w : Run, y.run = some v → z.run = some w →
         { w with wb := v.wb } = v ∧ ∀ a : Nat, a < r.pa ∨ r.pa + p.2 ≤ a → tfind w.wb a = tfind v.wb a))) ∧
    (s.zeroAt bf.toNat off p.2 = true → t = advance s)

/-- R119: LDM loads consecutive dwords of local store, which do not overlap the destination registers, into consecutive registers;
every other register, every special register but EPROG and every other byte of local store keep their values. -/
def Sys2Proof.Machine.MultipleLoads : Prop :=
  ∀ (s : State) (d : Reg) (bf : BitVec 4) (cnt : Reg) (disp : BitVec 12) (o : Nat) (r : Run),
    multiOk d cnt = true → (curElem s).afterEret = false → (curElem s).run = some r → r.vdone = 0 → r.undo.length + cnt.toNat ≤ undoCap →
    Memory.wf (curElem s).ls = true →
    (∀ i, i < cnt.toNat → s.localAt bf.toNat (multiOff disp i) 8 = some (o + 8 * i)) →
    lsPoisoned (curElem s) o (8 * cnt.toNat) = false →
    (o + 8 * cnt.toNat ≤ wOff (curElem s) d.toNat ∨ wOff (curElem s) (d.toNat + cnt.toNat) ≤ o) →
    ∃ t : State, Does (.ldm d bf cnt disp) s t ∧
      (∀ i, i < cnt.toNat → getW (curElem t) (regPlus d i) = memDword (curElem s).ls (o + 8 * i)) ∧
      (∀ a : Nat, a < wOff (curElem s) d.toNat ∨ wOff (curElem s) (d.toNat + cnt.toNat) ≤ a →
        memGet (curElem t).ls a = memGet (curElem s).ls a) ∧
      (curElem t).csr = (curElem s).csr ∧ (curElem t).x = { (curElem s).x with eprog := 0 } ∧ t.mem = s.mem

/-- R119: STM stores consecutive registers into consecutive dwords of local store, which do not overlap them; every other byte of local
store and every special register but EPROG keep their values. -/
def Sys2Proof.Machine.MultipleStores : Prop :=
  ∀ (s : State) (d : Reg) (bf : BitVec 4) (cnt : Reg) (disp : BitVec 12) (o : Nat) (r : Run),
    multiOk d cnt = true → (curElem s).afterEret = false → (curElem s).run = some r → r.vdone = 0 → r.undo.length + cnt.toNat ≤ undoCap →
    Memory.wf (curElem s).ls = true →
    (∀ i, i < cnt.toNat → s.localAt bf.toNat (multiOff disp i) 8 = some (o + 8 * i)) →
    (∀ i, i < cnt.toNat → s.canRead (regPlus d i) = true) →
    (o + 8 * cnt.toNat ≤ wOff (curElem s) d.toNat ∨ wOff (curElem s) (d.toNat + cnt.toNat) ≤ o) →
    ∃ t : State, Does (.stm d bf cnt disp) s t ∧
      (∀ i, i < cnt.toNat → memDword (curElem t).ls (o + 8 * i) = getW (curElem s) (regPlus d i)) ∧
      (∀ a : Nat, a < o ∨ o + 8 * cnt.toNat ≤ a → memGet (curElem t).ls a = memGet (curElem s).ls a) ∧
      (curElem t).csr = (curElem s).csr ∧ (curElem t).x = { (curElem s).x with eprog := 0 } ∧ t.mem = s.mem

/-- The traps of the k-th dword of an LDM or STM in a state t: BOUNDS beyond the extent, the page faults of its translation, and BOUNDS
beyond the usable banks of a scratchpad. What went before stays done, with the bits and drops of R304 and R348, and EPROG is k (R119). -/
def Sys2Proof.Machine.MultipleTraps (i : Instr) (s t : State) (k : AccKind) (bf : BitVec 4) (off n : Nat) : Prop :=
  let rec' := bfReg (curElem t) bf.toNat
  let u (l : List Kept) : State := modCur (keepMarks t l) (fun y => setEprog y n)
  ¬ (bf = 0 ∧ t.mode = 0) →
    (boundOff rec' (bf == 0) off 8 = none → exec i s = .next (takeTrap (u t.marks) cBOUNDS (dw (recBase rec' + off)))) ∧
    (∀ o, boundOff rec' (bf == 0) off 8 = some (o, true) →
      let va := (recBase rec' + o) % 2 ^ 64
      let tr := translate t (.element t.cur) (asidOf t (curElem t) (recAsid rec')) va t.mode k
      va % 8 = 0 → va < lsBase →
      (∀ e, tr = .error e → exec i s = .next (takeTrap
        (noteMcheck (u (xMarks t (idieOf (dieOf t.cur)) e ++ t.marks)) (xCause k e) (dw va)) (xCause k e) (dw va))) ∧
      (∀ (r : Xlat) (v : State), tr = .ok (r, v) → r.beyond = true → exec i s = .next (takeTrap (u v.marks) cBOUNDS (dw va))))

/-- R119: LDM dword by dword, each in the state that the one before left: from local store, from memory, or 0 under ZERO, and clamped under
CLAMP. It starts at EPROG when it is the first instruction after ERET. When all are done EPROG is 0; a trap leaves EPROG at its dword. A
dword outside local store on another line than those before it is left to the instruction's next execution, which goes on there (R277; the
model's division into steps: log 45). -/
def Sys2Proof.Machine.LoadsByDword : Prop :=
  ∀ (s : State) (d : Reg) (bf : BitVec 4) (cnt : Reg) (disp : BitVec 12) (r : Run) (u : Nat → State) (k : Nat),
    let i : Instr := .ldm d bf cnt disp
    let line (n : Nat) : Option Nat := (u n).lineAt bf.toNat (multiOff disp n) 8
    multiOk d cnt = true → (curElem s).run = some r → s.firstDword ≤ k → k ≤ cnt.toNat → u s.firstDword = s →
    (∀ n, s.firstDword ≤ n → n < k → (u n).loadsDword (u (n + 1)) bf.toNat (multiOff disp n) (regPlus d n)) →
    (∀ m n a b, s.firstDword ≤ m → m < k → s.firstDword ≤ n → n < k → line m = some a → line n = some b → a = b) →
    (k = cnt.toNat → Does i s (modCur (u k) (fun y => setEprog (setVdone y 0) 0))) ∧
    (∀ m a b, s.firstDword ≤ m → m < k → k < cnt.toNat → line m = some a → line k = some b → a ≠ b →
      exec i s = .next (modCur (u k) (fun y => setVdone y k))) ∧
    (k < cnt.toNat → MultipleTraps i s (u k) .load bf (multiOff disp k) k)

/-- R119: STM dword by dword, as LDM: into local store, into the write buffer, or nowhere under ZERO. -/
def Sys2Proof.Machine.StoresByDword : Prop :=
  ∀ (s : State) (d : Reg) (bf : BitVec 4) (cnt : Reg) (disp : BitVec 12) (r : Run) (u : Nat → State) (k : Nat),
    let i : Instr := .stm d bf cnt disp
    multiOk d cnt = true → (curElem s).run = some r → s.firstDword ≤ k → k ≤ cnt.toNat → u s.firstDword = s →
    (∀ n, s.firstDword ≤ n → n < k → (u n).storesDword (u (n + 1)) bf.toNat (multiOff disp n) (regPlus d n)) →
    (k = cnt.toNat → Does i s (modCur (u k) (fun y => setEprog (setVdone y 0) 0))) ∧
    (k < cnt.toNat → MultipleTraps i s (u k) .store bf (multiOff disp k) k)

/-- R119: LDM and STM, on local store and memory, with their traps and their resumption after ERET. -/
def Obligations.MultipleAccesses : Prop := MultipleLoads ∧ MultipleStores ∧ LoadsByDword ∧ StoresByDword

/-! ## Atomics (R120 to R123, R286) -/

/-- An AMO with its operation on old value, operand and comparand; p holds of the register fields it has. -/
def Sys2Proof.Machine.amoTable : List ((Reg → BitVec 4 → Reg → Reg → AmoUse → Instr) × Nat × (Dword → Dword → Dword → Dword)) :=
  [(.amoAdd, 0, fun old v _ => old + v), (.amoAnd, 1, fun old v _ => old &&& v), (.amoOr, 2, fun old v _ => old ||| v),
   (.amoXor, 3, fun old v _ => old ^^^ v), (.amoMax, 4, fun old v _ => if old.toInt < v.toInt then v else old),
   (.amoMin, 5, fun old v _ => if old.toInt < v.toInt then old else v),
   (.amoMaxu, 6, fun old v _ => if old.toNat < v.toNat then v else old),
   (.amoMinu, 7, fun old v _ => if old.toNat < v.toNat then old else v), (.amoSwap, 8, fun _ v _ => v),
   (.amoCas, 9, fun old v c => if old = c then v else old)]

/-- R120, R121: a speculative AMO (ADD, AND, OR, XOR, MAX, MIN, MAXU, MINU, SWAP, CAS) reads the old dword as a load does, writes the
new one as a store does, and puts the old one into w[d]; LOAD only reads, STORE writes no register; only CAS reads w[d]. In local store and
in memory; beyond the extent under ZERO w[d] is 0 and nothing is written, whatever the use. -/
def Obligations.SpeculativeAtomics : Prop :=
  (∀ p ∈ amoTable, ∀ (s : State) (d : Reg) (bf : BitVec 4) (x b : Reg),
    d.toNat ≤ 27 → x.toNat ≤ 27 → b.toNat ≤ 27 → (p.2.1 = 9 → s.canRead d = true) → s.canRead x = true → s.canRead b = true →
    (∀ o, s.localAt bf.toNat (s.src1 x).toNat 8 = some o → lsPoisoned (curElem s) o 8 = false → s.canLog (o / 8) = true →
      let old := memDword (curElem s).ls o
      let t := s.putLs o 8 (p.2.2 old (s.src1 b) (s.src1 d)).toNat
      t.canWrite d = true → Does (p.1 d bf x b .spec) s (t.putReg d old)) ∧
    (∀ (r : Xlat) (t : State) (l : List Byte), s.mappedAt .rmw bf.toNat (s.src1 x).toNat 8 = some (r, t) →
      t.canTrack (r.pa / 64) r.untr = true → (t.tracked (r.pa / 64) r.untr).seen r.pa 8 = some l →
      (t.tracked (r.pa / 64) r.untr).canBuffer r.pa = true →
      let u := (t.tracked (r.pa / 64) r.untr).buffered r.pa r.codec (leBytes 8 (p.2.2 (dw (leNat l)) (s.src1 b) (s.src1 d)).toNat)
      u.canWrite d = true → Does (p.1 d bf x b .spec) s (u.putReg d (dw (leNat l)))) ∧
    (s.zeroAt bf.toNat (s.src1 x).toNat 8 = true → s.canWrite d = true → ∀ use : AmoUse, Does (p.1 d bf x b use) s (s.putReg d 0))) ∧
  (∀ (s : State) (d : Reg) (bf : BitVec 4) (x b : Reg) (o : Nat),
    d.toNat ≤ 27 → x.toNat ≤ 27 → b.toNat ≤ 27 → s.canRead x = true → s.canRead b = true →
    s.localAt bf.toNat (s.src1 x).toNat 8 = some o → lsPoisoned (curElem s) o 8 = false →
    (s.canWrite d = true → Does (.amoLoad d bf x .spec) s (s.putReg d (memDword (curElem s).ls o))) ∧
    (s.canLog (o / 8) = true → Does (.amoStore bf x b .spec) s (s.putLs o 8 (s.src1 b).toNat))) ∧
  (∀ (s t : State) (d : Reg) (bf : BitVec 4) (x b : Reg) (r : Xlat) (l : List Byte),
    d.toNat ≤ 27 → x.toNat ≤ 27 → b.toNat ≤ 27 → s.canRead x = true → s.canRead b = true →
    let u := t.tracked (r.pa / 64) r.untr
    t.canTrack (r.pa / 64) r.untr = true → u.seen r.pa 8 = some l →
    (s.mappedAt .load bf.toNat (s.src1 x).toNat 8 = some (r, t) → u.canWrite d = true →
      Does (.amoLoad d bf x .spec) s (u.putReg d (dw (leNat l)))) ∧
    (s.mappedAt .rmw bf.toNat (s.src1 x).toNat 8 = some (r, t) → u.canBuffer r.pa = true →
      Does (.amoStore bf x b .spec) s (u.buffered r.pa r.codec (leBytes 8 (s.src1 b).toNat)))) ∧
  (∀ (s : State) (d : Reg) (bf : BitVec 4) (x b : Reg) (use : AmoUse), x.toNat ≤ 27 → s.canRead x = true →
    s.zeroAt bf.toNat (s.src1 x).toNat 8 = true →
    (s.canWrite d = true → Does (.amoLoad d bf x use) s (s.putReg d 0)) ∧ Does (.amoStore bf x b use) s s)

/-- The immediate atomics, with their operation codes. -/
def Sys2Proof.Machine.immediateTable : List ((Reg → BitVec 4 → Reg → Reg → AmoUse → Instr) × Nat) :=
  amoTable.map (fun q => (q.1, q.2.1)) ++ [((fun d bf x _ u => .amoLoad d bf x u), 10), ((fun _ bf x b u => .amoStore bf x b u), 11)]

/-- R120: an immediate AMO on an address in local store traps PROT, with the address in EVAL. -/
def Sys2Proof.Machine.ImmediateLocalStops : Prop :=
  ∀ p ∈ immediateTable, ∀ (s : State) (d : Reg) (bf : BitVec 4) (x b : Reg) (use : AmoUse) (o : Nat),
    x.toNat ≤ 27 → s.canRead x = true → use ≠ .spec → s.localAt bf.toNat (s.src1 x).toNat 8 = some o →
    Traps (p.1 d bf x b use) s cPROT (dw (lsBase + o))

/-- R121, R122: an immediate AMO joins the queue of immediate atomics once its home can be reached. One without a destination register then
moves on; one with w[d] to come stays at its instruction until its IATOM returns the old value; one that finds the queue full waits for
its oldest entry to free, and executes again. -/
def Sys2Proof.Machine.ImmediateResults : Prop :=
  ∀ p ∈ immediateTable,
    ∀ (s t : State) (d : Reg) (bf : BitVec 4) (x b : Reg) (use : AmoUse) (r : Xlat),
    d.toNat ≤ 27 → x.toNat ≤ 27 → b.toNat ≤ 27 → (p.2 = 9 → s.canRead d = true) → s.canRead x = true → s.canRead b = true → use ≠ .spec →
    (p.2 = 10 → b = 0) → (p.2 = 11 → d = 0) →
    s.mappedAt (if p.2 = 10 then .load else .rmw) bf.toNat (s.src1 x).toNat 8 = some (r, t) →
    (physDword t r.pa).isSome = true →
    ∃ va : Nat, s.accessVa bf.toNat (s.src1 x).toNat 8 = some va ∧
    let a : Iatom := { pa := r.pa, va := dw va, codec := r.codec, aop := p.2, v := if p.2 = 10 then 0 else s.src1 b,
                       cmp := if p.2 = 9 then s.src1 d else 0, use := use, d := d.toNat, held := false }
    (d = 0 → (curElem t).iq.length < iqCap → Does (p.1 d bf x b use) s (modCur t (fun y => { y with iq := y.iq ++ [a] }))) ∧
    (d ≠ 0 → (curElem t).iq.length < iqCap → t.canLog (wOff (curElem t) d.toNat / 8) = true →
      exec (p.1 d bf x b use) s = .next (modCur (t.logged (wOff (curElem t) d.toNat / 8))
        (fun y => { y with iq := y.iq ++ [a], stall := .value }))) ∧
    ((curElem t).iq.length = iqCap → exec (p.1 d bf x b use) s = .next (modCur t (fun y => { y with stall := .room })))

/-- R120, R286: what an immediate atomic does at its home in a scratchpad: it gives the old dword, writes the new
one, and leaves every other byte of memory unchanged. -/
def Sys2Proof.Machine.HomeResults : Prop :=
  ∀ p ∈ (amoTable ++ [((fun d bf x _ u => .amoLoad d bf x u), 10, fun old _ _ => old), ((fun _ bf x b u => .amoStore bf x b u), 11, fun _ v _ => v)]),
    ∀ (s : State) (e : Nat) (a : Iatom) (old : Dword), a.aop = p.2.1 → a.codec = 0 → a.pa % 8 = 0 → paRegion a.pa = 3 → metaSpace s a.pa = none →
    physDword s a.pa = some old → Memory.wf s.mem = true →
    let r := iatomDo s e a
    r.2 = some old ∧ memDword r.1.mem a.pa = p.2.2 old a.v a.cmp ∧
    ∀ m : Nat, m < a.pa ∨ a.pa + 8 ≤ m → memGet r.1.mem m = memGet s.mem m

/-- R121, R350: an atomic whose home is on another device leaves as a request to it, which names the operation, its use, its operand and its
comparand. The value that comes back is free (log 1); without a route nothing comes, and the drop is counted (R348). -/
def Sys2Proof.Machine.AtomicAway : Prop :=
  ∀ (s : State) (e : Nat) (a : Iatom), paRegion a.pa = 8 →
    let m := sendFab s (idieOf (dieOf e)) (winDev s a.pa) (.atomic (remotePa s a.pa) a.aop a.use a.v a.cmp s.regs.devnum)
    iatomDo s e a = (m.1, if m.2 then physDword s a.pa else none)

/-- R122, R123, R286: IATOM performs an entry of an element's queue, once no earlier entry must precede it: the entry leaves the queue, the
old value goes into w[d] and the element moves on. An element that waits for room executes again when its oldest entry has left; one inside
a FENCE moves on once no entry of the FENCE's scope is left. A quantum entry is held at its home for the edge. -/
def Sys2Proof.Machine.IatomSteps : Prop :=
  ∀ (s : State) (e k : Nat) (a : Iatom),
    (elem s e).iq[k]? = some a → a.held = false → ((elem s e).iq.take k).any (fun b => mustPrecede b a) = false →
    (a.use = .quant → paRegion a.pa ≠ 8 → exec (.iatom e k) s = .next
      { (modElem s e (fun y => { y with iq := y.iq.set k { a with held := true } })) with
        quants := s.quants ++ [{ el := e, a := { a with held := true }, peer := none }] }) ∧
    (a.use ≠ .quant →
      let s1 := modElem s e (fun y => { y with iq := dropAt y.iq k })
      let r := iatomDo s1 e a
      ∀ old : Dword, r.2 = some old →
        (a.d = 0 → exec (.iatom e k) s = .next (modElem r.1 e (fun x =>
          match x.stall with
          | .room => if k = 0 then { x with stall := .none } else x
          | .fence scope =>
            if x.iq.any (fun b => decide (homeScope (clOf e) b.pa ≤ scope)) then x
            else { x with seq := seqNext x.seq, afterEret := false, stall := .none }
          | _ => x))) ∧
        (a.d ≠ 0 → exec (.iatom e k) s = .next (modElem r.1 e (fun x =>
          { lsWrite x (wOff x a.d) 8 old.toNat with seq := seqNext x.seq, afterEret := false, stall := .none }))))

/-- R286, R350: the quantum operations of one address that an edge combines: every one returns the value of the round's beginning, and the
update applies to what the address holds now, in arrival order. Said of one operation of an element in a scratchpad, and of one that
another device has asked for, which is answered with that value. -/
def Sys2Proof.Machine.QuantumResult : Prop :=
  ∀ (s : State) (q : QOp) (before old : Dword),
    physDword { s with mem := s.memEdge } q.a.pa = some before → physDword s q.a.pa = some old →
    q.a.codec = 0 → q.a.pa % 8 = 0 → paRegion q.a.pa = 3 → metaSpace s q.a.pa = none → Memory.wf s.mem = true →
    (∀ p, q.peer = some p → quantOne s q =
      answerPeer (remoteAtomic s q.a.pa q.a.aop q.a.v q.a.cmp).1 p (some (leBytes 8 before.toNat))) ∧
    (q.peer = none → q.a.d ≠ 0 → Memory.wf (elem s q.el).ls = true → (quantOne s q).mem = (iatomDo s q.el { q.a with held := false }).1.mem ∧
      memDword (elem (quantOne s q) q.el).ls (wOff (elem s q.el) q.a.d) = before) ∧
    (q.a.aop ≠ aopLoad → memDword (quantOne s q).mem q.a.pa = amoNew q.a.aop old q.a.v q.a.cmp) ∧
    (quantOne s q).memEdge = s.memEdge

/-- R120 to R123, R286, R350: an immediate atomic at its home, on this device and another (whose value is free: log 1), its IATOM step, and
the edge's combination of quantum operations. -/
def Obligations.AtomicAtHome : Prop := HomeResults ∧ AtomicAway ∧ IatomSteps ∧ QuantumResult

/-- R123: FENCE waits while an immediate atomic of its element whose home lies within its scope is left, and then moves on. -/
def Sys2Proof.Machine.FenceWaits : Prop :=
  ∀ (s : State) (scope : BitVec 2),
    let left : Bool := (curElem s).iq.any (fun a => decide (homeScope (clOf s.cur) a.pa ≤ scope.toNat))
    (left = false → Does (.fence scope) s s) ∧
    (left = true → exec (.fence scope) s = .next (modCur s (fun x => { x with stall := .fence scope.toNat })))

/-- R120 to R123: immediate atomics, which stop on local store, and FENCE. -/
def Obligations.ImmediateAtomics : Prop := ImmediateLocalStops ∧ ImmediateResults ∧ FenceWaits

/-! ## Branches and jumps (R124 to R126) -/

/-- A branch on a condition: taken to its own address plus four times the displacement after the two slots; not taken, the next
instruction follows, with both slots annulled when n is 1. -/
def Sys2Proof.Machine.Branches (i : Reg → Reg → Bool → BitVec 15 → Instr) (c : Dword → Dword → Prop) : Prop :=
  ∀ (s : State) (a b : Reg) (n : Bool) (disp : BitVec 15), s.canRead2 a b = true →
    let q := (curElem s).seq
    let goes (r : Seq) : Host.Outcome State Fault Refusal := .next (modCur (s.after2 a b) (fun x => { x with seq := r, afterEret := false }))
    (c (s.src1 a) (s.src2 a b) → exec (i a b n disp) s =
      goes { p := q.n1, n1 := q.n2, n2 := q.p + disp.signExtend 55 * 4, ap := q.a1, a1 := q.a2, a2 := false }) ∧
    (¬ c (s.src1 a) (s.src2 a b) → n = false → exec (i a b n disp) s =
      goes { p := q.n1, n1 := q.n2, n2 := q.n2 + 4, ap := q.a1, a1 := q.a2, a2 := false }) ∧
    (¬ c (s.src1 a) (s.src2 a b) → n = true → exec (i a b n disp) s =
      goes { p := q.n1, n1 := q.n2, n2 := q.n2 + 4, ap := true, a1 := true, a2 := false })

/-- R124, R125: BEQ, BNE, BLT, BGE, BLTU and BGEU. -/
def Sys2Proof.Machine.ConditionalBranches : Prop :=
  Branches .beq (fun x y => x = y) ∧ Branches .bne (fun x y => x ≠ y) ∧ Branches .blt (fun x y => x.toInt < y.toInt) ∧
  Branches .bge (fun x y => y.toInt ≤ x.toInt) ∧ Branches .bltu (fun x y => x.toNat < y.toNat) ∧
  Branches .bgeu (fun x y => y.toNat ≤ x.toNat)

/-- R126: J, JAL, JR and JALR are taken after their two slots; JAL and JALR put the address after the slots into w27 and w[d]; a register
target that is not a multiple of 4 traps ALIGN with the target in EVAL. -/
def Sys2Proof.Machine.Jumps : Prop :=
  ∀ (s : State) (d a : Reg) (disp : BitVec 25) (k : BitVec 16), a.toNat ≤ 27 → s.canRead a = true →
    let q := (curElem s).seq
    let goes (u : State) (t : Addr) : Host.Outcome State Fault Refusal :=
      .next (modCur u (fun x => { x with seq := { p := q.n1, n1 := q.n2, n2 := t, ap := q.a1, a1 := q.a2, a2 := false }, afterEret := false }))
    let link : Dword := (q.p + 12).setWidth 64
    let target := s.src1 a + k.signExtend 64
    exec (.j disp) s = goes s (q.p + disp.signExtend 55 * 4) ∧
    (s.canWrite 27 = true → exec (.jal disp) s = goes (s.putReg 27 link) (q.p + disp.signExtend 55 * 4)) ∧
    (target.toNat % 4 = 0 → exec (.jr a k) s = goes s (target.setWidth 55) ∧
      (d.toNat ≤ 27 → s.canWrite d = true → exec (.jalr d a k) s = goes (s.putReg d link) (target.setWidth 55))) ∧
    (target.toNat % 4 ≠ 0 → Traps (.jr a k) s cALIGN target ∧ Traps (.jalr d a k) s cALIGN target)

/-- R124 to R126: branches and jumps, with their two slots. -/
def Obligations.BranchesAndJumps : Prop := ConditionalBranches ∧ Jumps

/-! ## System (R31 to R35, R134 to R142, R363 to R367) -/

/-- A task may read a listed CSR: in user mode not those from 0x100 to 0x1FF (R31). -/
def Sys2Proof.Machine.csrReadable (s : State) (n : Nat) : Prop := (csrKind n).isSome = true ∧ ¬ (s.mode = 0 ∧ 0x100 ≤ n ∧ n ≤ 0x1FF)

/-- A task may write a CSR: it is listed, not read-only, and in user mode not a supervisor's (R31). -/
def Sys2Proof.Machine.csrWritable (s : State) (n : Nat) : Prop :=
  csrKind n = some .rw ∧ ¬ (s.mode = 0 ∧ 0x100 ≤ n ∧ n ≤ 0x1FF) ∨ csrKind n = some .sw ∧ s.mode ≠ 0

/-- R31, R135: CSRRD puts a CSR into w[d]; CSRWR, CSRSET and CSRCLR put the old value into w[d] and write w[a], old | w[a], or
old & ~w[a]. -/
def Sys2Proof.Machine.CsrResults : Prop :=
  ∀ (s : State) (d a : Reg) (csr : BitVec 10),
    (csrReadable s csr.toNat → s.canWrite d = true → Does (.csrrd d csr) s (s.putReg d (csrGet s csr.toNat))) ∧
    (a.toNat ≤ 27 → s.canRead a = true → csrWritable s csr.toNat → s.canWrite d = true →
      let old := csrGet s csr.toNat
      let put (v : Dword) : State := modCur (s.putReg d old) (fun x => csrPut x csr.toNat v)
      ((csr = 1 → wpOk (curElem s) (s.src1 a).toNat = true) → Does (.csrwr d a csr) s (put (s.src1 a))) ∧
      ((csr = 1 → wpOk (curElem s) (old ||| s.src1 a).toNat = true) → Does (.csrset d a csr) s (put (old ||| s.src1 a))) ∧
      ((csr = 1 → wpOk (curElem s) (old &&& ~~~(s.src1 a)).toNat = true) → Does (.csrclr d a csr) s (put (old &&& ~~~(s.src1 a)))))

/-- R31, R10: an unlisted CSR and a write to a read-only one trap ILLOP; the supervisor's CSRs in user mode trap PRIV; a workspace
pointer that is not a multiple of 8 or leaves no room for 28 registers traps BOUNDS. -/
def Sys2Proof.Machine.CsrTraps : Prop :=
  ∀ (s : State) (d a : Reg) (csr : BitVec 10), a.toNat ≤ 27 → s.canRead a = true →
    let rd : Instr := .csrrd d csr
    let wr : Instr := .csrwr d a csr
    (csrKind csr.toNat = none → Traps rd s cILLOP (instrWord rd) ∧ Traps wr s cILLOP (instrWord wr)) ∧
    ((csrKind csr.toNat).isSome = true → s.mode = 0 → 0x100 ≤ csr.toNat → csr.toNat ≤ 0x1FF →
      Traps rd s cPRIV (instrWord rd) ∧ Traps wr s cPRIV (instrWord wr)) ∧
    (csrKind csr.toNat = some .ro → Traps wr s cILLOP (instrWord wr)) ∧
    (csr.toNat < 2 → s.mode = 0 → Traps wr s cPRIV (instrWord wr)) ∧
    (csr = 1 → s.mode ≠ 0 → wpOk (curElem s) (s.src1 a).toNat = false →
      Traps wr s cBOUNDS (dw (lsBase + (s.src1 a).toNat)))

/-- R34: a write to STATUS changes IE alone. -/
def Sys2Proof.Machine.StatusWriteOnlyIe : Prop :=
  ∀ (x : Elem) (v : Dword) (i : Nat), i < 64 →
    (csrPut x 0 v).csr.status.getLsbD i = if i = 4 then v.getLsbD 4 else x.csr.status.getLsbD i

/-- The bits of each writable CSR that a write reaches (R31, R33 to R35). -/
def Sys2Proof.Machine.csrMasks : List (Nat × Dword) :=
  [(0x000, 0x10), (0x001, 0x3FFFF), (0x010, 0x7F), (0x011, 3), (0x020, 0xFFFFFFFF), (0x021, 0xFFFFFFFF), (0x022, 3), (0x023, 0xFFFFFFFF),
   (0x024, 0x1F), (0x025, BitVec.allOnes 64), (0x100, 0x7FFFFFFFFFFFFF), (0x101, 0x7FFFFFFFFFFFFF), (0x102, 0x7FFFFFFFFFFFFF),
   (0x103, 7), (0x104, 0x1F), (0x105, BitVec.allOnes 64), (0x106, 0x1F)]

/-- R31, R34, R35, R135: a written CSR reads the bits written, of those that a write reaches; rsv and read-only bits keep what they were,
and every other CSR reads as before. The list names every CSR that is not read-only. -/
def Sys2Proof.Machine.CsrWrites : Prop :=
  (∀ n : Nat, (∃ m, (n, m) ∈ csrMasks) ↔ csrKind n = some .rw ∨ csrKind n = some .sw) ∧
  ∀ p ∈ csrMasks, ∀ (s : State) (v : Dword),
    let t := modCur s (fun x => csrPut x p.1 v)
    csrGet t p.1 = (csrGet s p.1 &&& ~~~p.2) ||| (v &&& p.2) ∧ ∀ n : Nat, n ≠ p.1 → csrGet t n = csrGet s n

/-- R31, R34, R35, R135: the CSR instructions. -/
def Obligations.CsrAccess : Prop := CsrResults ∧ StatusWriteOnlyIe ∧ CsrWrites

/-- R128, R136, R363: TRAP takes a synchronous trap where no handler runs and channel 1 is not masked: EPC0 to EPC2 and EANN hold the
sequencing state, ECAUSE the cause with URG, EVAL the code; TWP, TST and TFP hold WP, STATUS, FPFLAGS and FPRM; STATUS.TRAP is 1 and MODE 1, the
other bits of STATUS as they were; WP is channel 1's; w1 to w4 hold TWP, ECAUSE, EVAL and TST; execution goes on at channel 1's PC, no slot
annulled. Memory and the other elements are unchanged. Channel 1's workspace pointer lies within the limits of R10. -/
def Sys2Proof.Machine.TrapTaken : Prop :=
  ∀ (s : State) (code : BitVec 5) (r : Run), (curElem s).run = some r → stTrap (curElem s).csr.status = false →
    (trapVector (curElem s)).mask = false → r.undo.length + 4 ≤ undoCap → wpOk (curElem s) (trapVector (curElem s)).wpo = true →
    Memory.wf (curElem s).ls = true →
    ∃ t : State, exec (.trap code) s = .next t ∧
      let x := curElem s
      let y := curElem t
      let wpo := (trapVector x).wpo
      let cause : BitVec 5 := BitVec.ofNat 5 ((if r.urgent then 16 else 0) + (if code = 31 then 10 else 9))
      y.x.epc0 = x.seq.p ∧ y.x.epc1 = x.seq.n1 ∧ y.x.epc2 = x.seq.n2 ∧
      (y.x.eann.getLsbD 2 = x.seq.ap ∧ y.x.eann.getLsbD 1 = x.seq.a1 ∧ y.x.eann.getLsbD 0 = x.seq.a2) ∧
      y.x.ecause = cause ∧ y.x.eval = code.setWidth 64 ∧ y.x.eprog = x.x.eprog ∧
      y.twp = x.csr.wp ∧ y.tst = x.csr.status ∧ y.tfpf = x.csr.fpflags ∧ y.tfpr = x.csr.fprm ∧
      stTrap y.csr.status = true ∧ stMode y.csr.status = 1 ∧ y.csr.status &&& ~~~11 = x.csr.status &&& ~~~11 ∧
      y.csr.wp.toNat = wpo ∧
      y.seq = { p := (trapVector x).pc, n1 := (trapVector x).pc + 4, n2 := (trapVector x).pc + 8, ap := false, a1 := false, a2 := false } ∧
      getW y 1 = x.csr.wp.setWidth 64 ∧ getW y 2 = cause.setWidth 64 ∧ getW y 3 = code.setWidth 64 ∧ getW y 4 = x.csr.status ∧
      (∀ a : Nat, a < wpo + 8 ∨ wpo + 40 ≤ a → memGet y.ls a = memGet x.ls a) ∧
      { t with elems := s.elems } = s ∧ (∀ e, e ≠ s.cur → elem t e = elem s e)

/-- R365: a trap while a handler runs, or with channel 1 masked, aborts the run, whose event waits for the next edge; EPC0 to EPC2,
ECAUSE and EVAL are as the second trap wrote them, and a DOUBLETRAP error event is posted. -/
def Sys2Proof.Machine.DoubleTrap : Prop :=
  ∀ (s : State) (code : BitVec 5) (r : Run), (curElem s).run = some r → (curElem s).under = none →
    (stTrap (curElem s).csr.status = true ∨ (trapVector (curElem s)).mask = true) →
    ∃ t : State, exec (.trap code) s = .next t ∧
      let x := curElem s
      let y := elem t s.cur
      y.run = none ∧ y.inq = rerunEv r .defer :: x.inq ∧
      y.x.epc0 = x.seq.p ∧ y.x.epc1 = x.seq.n1 ∧ y.x.epc2 = x.seq.n2 ∧ y.x.eval = code.setWidth 64 ∧
      y.x.ecause = BitVec.ofNat 5 ((if r.urgent then 16 else 0) + (if code = 31 then 10 else 9)) ∧
      ∃ p ∈ t.net, p.dst = s.cur ∧ ∃ ev : Ev, p.body = .ev s.cur ev ∧ ev.chan = 3 ∧ ev.payload.head? = some 10

/-- R128, R136, R363, R365: taking a trap, and a trap while one is handled. -/
def Obligations.TrapEntry : Prop := TrapTaken ∧ DoubleTrap

/-- R137: ERET restores the sequencing state from EPC0 to EPC2 with address bits 1 and 0 taken as 0 and from EANN, clears STATUS.TRAP,
returns MODE to that of the running handler's channel entry, and restores WP, FPFLAGS and FPRM (R363); it traps ILLOP outside a handler. -/
def Obligations.EretReturns : Prop :=
  ∀ (s : State) (r : Run), (curElem s).run = some r → s.mode ≠ 0 →
    (stTrap (curElem s).csr.status = true → ∃ t : State, exec .eret s = .next t ∧
      let x := curElem s
      let y := curElem t
      y.seq.p.toNat = x.x.epc0.toNat / 4 * 4 ∧ y.seq.n1.toNat = x.x.epc1.toNat / 4 * 4 ∧ y.seq.n2.toNat = x.x.epc2.toNat / 4 * 4 ∧
      (y.seq.ap = x.x.eann.getLsbD 2 ∧ y.seq.a1 = x.x.eann.getLsbD 1 ∧ y.seq.a2 = x.x.eann.getLsbD 0) ∧
      stTrap y.csr.status = false ∧ stMode y.csr.status = r.entry.mode ∧ y.csr.status &&& ~~~11 = x.csr.status &&& ~~~11 ∧
      y.csr.wp = x.twp ∧ y.csr.fpflags = x.tfpf ∧ y.csr.fprm = x.tfpr ∧
      { y with seq := x.seq, csr := x.csr, afterEret := x.afterEret } = x ∧ { t with elems := s.elems } = s) ∧
    (stTrap (curElem s).csr.status = false → Traps .eret s cILLOP (instrWord .eret))

/-- R72, R76: the sub-functions marked S, ERET, TLBINV, HALT, BARCFG and GCFG, trap PRIV in user mode, with the word in EVAL. -/
def Sys2Proof.Machine.SupervisorOnly : Prop :=
  ∀ (s : State) (d a b : Reg) (k : BitVec 5), s.mode = 0 →
    Traps .eret s cPRIV (instrWord .eret) ∧ Traps (.tlbinv a b k) s cPRIV (instrWord (.tlbinv a b k)) ∧
    Traps .halt s cPRIV (instrWord .halt) ∧ Traps (.barcfg a k) s cPRIV (instrWord (.barcfg a k)) ∧
    Traps (.gcfg d a) s cPRIV (instrWord (.gcfg d a))

/-- R10, R31, R72, R76: what traps ILLOP, PRIV and BOUNDS among the system instructions. That an unlisted CSR number is ILLOP in user mode too,
and the EVAL of a workspace pointer's BOUNDS, are the model's choices (log 43). -/
def Obligations.PrivilegeTraps : Prop := CsrTraps ∧ SupervisorOnly

/-- What TLBINV leaves of a TLB: kind 0 drops the page of an address under an address space, kind 1 the entries of an address space that are
not global, kind 2 those that are not global, kind 3 all (R139). -/
def Sys2Proof.Machine.tlbKept (kind asid va : Nat) (t : TlbEnt) : Prop :=
  (kind = 0 → tlbHit asid va t = false) ∧ (kind = 1 → t.asid ≠ asid ∨ pteBit t.pte 5 = true) ∧ (kind = 2 → pteBit t.pte 5 = true) ∧ kind ≠ 3

/-- What a package-wide TLBINV leaves of a walker cache, whose entries are never global: kind 0 drops those on the way to the page, kind 1
those of the address space, kinds 2 and 3 all (R139, R305). -/
def Sys2Proof.Machine.ptrKept (kind asid va : Nat) (p : PtrEnt) : Prop :=
  (kind = 0 → ¬ (p.asid = asid ∧ p.vpn = vpnAt va p.level)) ∧ (kind = 1 → p.asid ≠ asid) ∧ kind ≠ 2 ∧ kind ≠ 3

/-- R139: TLBINV drops entries from the TLBs of the element and of its cluster; with bit 2 of the kind from every TLB and walker cache of the
package. Nothing else changes. -/
def Sys2Proof.Machine.TlbinvDrops : Prop :=
  ∀ (s : State) (a b : Reg) (k : BitVec 5), a.toNat ≤ 27 → b.toNat ≤ 27 → s.canRead a = true → s.canRead b = true → s.mode ≠ 0 →
    let kind := k.toNat % 4
    let asid := (s.src1 b).toNat % 65536
    let va := (s.src1 a).toNat
    let all : Prop := k.getLsbD 2 = true
    ∃ t : State, Does (.tlbinv a b k) s t ∧ { t with elems := s.elems, clusters := s.clusters, dies := s.dies } = s ∧
      (∀ e : Nat, { elem t e with tlb := (elem s e).tlb } = elem s e ∧
        ∀ x, x ∈ (elem t e).tlb ↔ x ∈ (elem s e).tlb ∧ (all ∨ e = s.cur → tlbKept kind asid va x)) ∧
      (∀ c : Nat, { clus t c with tlb := (clus s c).tlb } = clus s c ∧
        ∀ x, x ∈ (clus t c).tlb ↔ x ∈ (clus s c).tlb ∧ (all ∨ c = clOf s.cur → tlbKept kind asid va x)) ∧
      (∀ d : Nat, { die t d with ptrs := (die s d).ptrs } = die s d ∧
        ∀ p, p ∈ (die t d).ptrs ↔ p ∈ (die s d).ptrs ∧ (all → ptrKept kind asid va p))

/-- R140 to R142: NOP only moves on, and so does IFLUSH, since the model holds no stale instruction (its choice: log 16); BFLD loads a valid record, in user mode one of the task's own address space; BFST stores one. -/
def Sys2Proof.Machine.SystemEffects : Prop :=
  ∀ (s : State) (a : Reg) (n : BitVec 5), a.toNat ≤ 27 → s.canRead a = true →
    Memory.wf (curElem s).ls = true →
    let va := s.src1 a
    Does .nop s s ∧ Does .iflush s s ∧
    (va.toNat % 32 = 0 → s.canBlock va 4 = true →
      let rec' : BitVec 256 := BitVec.ofNat 256 (leNat (memRead (curElem s).ls (va.toNat - lsBase) 32))
      n ≠ 0 → recOk rec' = true → (s.mode = 0 → recAsid rec' = 0) →
        Does (.bfld a n) s (modCur s (fun y => { y with bf := tput y.bf n.toNat rec' }))) ∧
    (va.toNat % 32 = 0 → s.canBlock va 4 = true → (n = 0 → s.mode ≠ 0) → (∃ r : Run, (curElem s).run = some r ∧ r.undo.length + 4 ≤ undoCap) →
      ∃ t : State, Does (.bfst a n) s t ∧
        BitVec.ofNat 256 (leNat (memRead (curElem t).ls (va.toNat - lsBase) 32)) = bfReg (curElem s) n.toNat ∧
        ∀ m : Nat, m < va.toNat - lsBase ∨ va.toNat - lsBase + 32 ≤ m → memGet (curElem t).ls m = memGet (curElem s).ls m)

/-- R139 to R142: the other system instructions (IFLUSH moves on by the model's choice: log 16). -/
def Obligations.SystemResults : Prop := SystemEffects ∧ TlbinvDrops

/-! ## Tasks (R143 to R149) -/

/-- The task that an urgent one interrupted goes on: its run, as given, its class T registers, its sequencing state and its bound registers are
as they were, and of the registers of the element the values that the urgent task leaves stay (R18, R32). -/
def Sys2Proof.Machine.GoesOn (y : Elem) (u : Saved) (r : Run) (c : Csrs) : Prop :=
  y.run = some r ∧ y.under = none ∧ y.csr = withTaskClass u.csr c ∧ y.seq = u.seq ∧ y.bf = u.bf ∧ y.afterEret = u.afterEret ∧ y.stall = u.stall

/-- R145, R146, R142: TEND and HALT finish the run, with the child offset of STATUS as it stands. It waits for its commit when it has read or
buffered anything in a domain of a launch; one that has read and buffered nothing commits at once, unless its domain holds a serial run
(R293), and so does a run that is a domain of its own (R25), its lanes released. TABORT aborts it, and its event waits, until the next edge
with DEFER. TEND and HALT in a trap handler trap ILLOP. -/
def Sys2Proof.Machine.TaskEnds : Prop :=
  ∀ (s : State) (q : Run) (defer : Bool), (curElem s).run = some q → (curElem s).under = none →
    let x := curElem s
    let r : Run := { q with off := stChoff x.csr.status }
    (stTrap x.csr.status = false → (r.rs ≠ [] ∨ r.wb ≠ []) → lidScope s r.ev.lid ≠ 0 →
      ∃ t u : State, exec .tend s = .next t ∧ (curElem t).run = none ∧ (curElem t).fin = x.fin ++ [r] ∧
        (curElem t).csr.vgrant = (if r.urgent then x.csr.vgrant else 0) ∧ t.mem = s.mem ∧
        (s.mode ≠ 0 → exec .halt s = .next u ∧ (curElem u).halted = true ∧ (curElem u).run = none ∧ (curElem u).fin = x.fin ++ [r])) ∧
    (stTrap x.csr.status = false →
      (lidScope s r.ev.lid = 0 ∨ r.rs = [] ∧ r.wb = [] ∧ (r.serial = true ∨ serialHeld s r.ev.lid = false)) →
      (r.urgent = true → exec .tend s = .next (commitRun (setElem s s.cur { x with run := none, bf := [], afterEret := false }) s.cur r)) ∧
      (r.urgent = false → exec .tend s = .next (commitRun (setElem (freeLanes s s.cur) s.cur
        { x with run := none, bf := [], afterEret := false, csr := { x.csr with vgrant := 0 } }) s.cur r))) ∧
    (stTrap x.csr.status = true → Traps .tend s cILLOP (instrWord .tend) ∧
      (s.mode ≠ 0 → Traps .halt s cILLOP (instrWord .halt))) ∧
    (∃ t : State, exec (.tabort defer) s = .next t ∧ (curElem t).run = none ∧
      (curElem t).inq = rerunEv q (if defer then .defer else .again) :: x.inq ∧
      (curElem t).ls = undoLs x.ls q.undo ∧ t.mem = s.mem)

/-- R18, R145, R146: an urgent task ends over the task that it interrupted. At TEND and HALT that task goes on, and its run keeps the values at
its own start of what the urgent one has written (R8); the urgent run waits for its commit or commits at once, as any does. TABORT undoes what
the urgent run has written, its event waits, and the interrupted task goes on as it stood. -/
def Sys2Proof.Machine.UrgentEnds : Prop :=
  ∀ (s : State) (q : Run) (u : Saved) (defer : Bool), (curElem s).run = some q → (curElem s).under = some u → q.urgent = true →
    let x := curElem s
    let r : Run := { q with off := stChoff x.csr.status }
    (stTrap x.csr.status = false → (r.rs ≠ [] ∨ r.wb ≠ []) → lidScope s r.ev.lid ≠ 0 →
      ∃ t : State, exec .tend s = .next t ∧ (curElem t).fin = x.fin ++ [r] ∧ (curElem t).ls = x.ls ∧
        GoesOn (curElem t) u (noteUrgent r u.run) x.csr ∧ { t with elems := s.elems } = s ∧
        (s.mode ≠ 0 → ∃ v : State, exec .halt s = .next v ∧ (curElem v).halted = true ∧ (curElem v).fin = x.fin ++ [r] ∧
          GoesOn (curElem v) u (noteUrgent r u.run) x.csr)) ∧
    (stTrap x.csr.status = false →
      (lidScope s r.ev.lid = 0 ∨ r.rs = [] ∧ r.wb = [] ∧ (r.serial = true ∨ serialHeld s r.ev.lid = false)) →
      ∃ y : Elem, GoesOn y u (noteUrgent r u.run) x.csr ∧ y.ls = x.ls ∧ y.fin = x.fin ∧
        exec .tend s = .next (commitRun (setElem s s.cur y) s.cur r)) ∧
    (∃ t : State, exec (.tabort defer) s = .next t ∧ GoesOn (curElem t) u u.run q.start ∧
      (curElem t).inq = rerunEv q (if defer then .defer else .again) :: x.inq ∧
      (curElem t).ls = undoLs x.ls q.undo ∧ t.mem = s.mem)

/-- R18, R142, R145, R146: how a run ends by TEND, HALT and TABORT, alone on its element or over the one that it interrupted. -/
def Obligations.RunEnds : Prop := TaskEnds ∧ UrgentEnds

/-- R144: SEND and SENDM put a message of 1 to 32 dwords into the outbox and 0 into w[d]; −2 goes into w[d] for a wrong destination word
or an element that this device does not have, and −1 for a full outbox. -/
def Obligations.Sends : Prop :=
  ∀ (s : State) (d a b : Reg) (len1 : BitVec 5) (multi : Bool),
    a.toNat ≤ 27 → b.toNat ≤ 27 → d.toNat ≤ 27 → s.canRead a = true → s.canRead b = true → s.tsOk = true →
    let i : Instr := if multi then .sendm d a b len1 else .send d a b len1
    let ca := s.src1 a
    let n := len1.toNat + 1
    (s.mode = 0 → fld ca 32 27 < 8 → Traps i s cPRIV (instrWord i)) ∧
    (¬ (s.mode = 0 ∧ fld ca 32 27 < 8) → s.canBlock (s.src1 b) n = true →
      let ok := sendBitsOk multi ca && destsOk s (sendDests multi ca)
      (ok = true → s.canQueue = true →
        let t := s.queued (.msg (sendDests multi ca) (fld ca 32 27) (s.blockAt (s.src1 b) n) (originOf s s.cur))
        t.canWrite d = true → Does i s (t.putReg d 0)) ∧
      (ok = false → s.canWrite d = true → Does i s (s.putReg d (BitVec.allOnes 64 - 1))) ∧
      (ok = true → obFull (curElem s) = true → s.canWrite d = true → Does i s (s.putReg d (BitVec.allOnes 64))))

/-- An instruction that puts one entry into the outbox and no result into a register, and otherwise traps or moves on: CHCFG, CHMASK,
CHUNMASK, SCINC, SCARM, SCEXPECT, SCMODE, BARV, BARCFG, JOBARM and OSFREE, whose operands w[a] and w[b] pass their checks. -/
def Sys2Proof.Machine.postedForms (s : State) (a b : Reg) (sc : BitVec 8) (tag : BitVec 5) : List (Bool × Instr × OutEntry) :=
  let x := s.src1 a
  let y := s.src1 b
  let user := s.mode == 0
  let o := originOf s s.cur
  let l := s.blockAt x 3
  let c : ChEntry := { d0 := dwAt l 0, d1 := dwAt l 1, d2 := dwAt l 2 }
  [(s.canBlock x 3 && decide (y.toNat < 64) && chEntryOk s s.cur c && !(user && (decide (y.toNat < 8) || c.mode == 1)), .chcfg a b,
      .chcfg y.toNat c),
   (decide (x.toNat < 64) && !(user && decide (x.toNat < 8)), .chmask a, .chmask x.toNat true),
   (decide (x.toNat < 64) && !(user && decide (x.toNat < 8)), .chunmask a, .chmask x.toNat false),
   (true, .scinc a sc, .scinc sc.toNat x),
   (decide (x.toNat < 64) && s.tsOk, .scarm a b sc, .scarm sc.toNat y x.toNat o),
   (decide (x.toNat < 2 ^ 33) && !(user && decide (fld x 32 27 < 8)) && s.tsOk, .scexpect a b sc, .scexpect sc.toNat y x o),
   (decide (x.toNat < 2), .scmode a sc, .scmode sc.toNat (x == 1)),
   (true, .barv a tag, .barv tag.toNat (x.setWidth 32) o),
   (s.canBlock x 33 && !user && barOk s (s.blockAt x 33), .barcfg a tag, .barcfg tag.toNat (s.blockAt x 33)),
   (decide (y.toNat < 64) && !(user && decide (y.toNat < 8)), .jobarm a b, .jobarm x y.toNat o),
   (true, .osfree a b, .osfree x y o)]

/-- R147, R151, R154, R155, R159, R160: CHCFG, CHMASK, CHUNMASK, SCINC, SCARM, SCEXPECT, SCMODE, BARV, BARCFG, JOBARM and OSFREE put
their effect into the outbox, from where the commit applies it (R132), and change nothing else. -/
def Sys2Proof.Machine.PostedForms : Prop :=
  ∀ (s : State) (a b : Reg) (sc : BitVec 8) (tag : BitVec 5), a.toNat ≤ 27 → b.toNat ≤ 27 → s.canRead a = true → s.canRead b = true →
    s.canQueue = true → ∀ p ∈ postedForms s a b sc tag, p.1 = true → Does p.2.1 s (s.queued p.2.2)

/-- R148: TSSET sets the child offset of STATUS, and no other bit; a value beyond 32 bits traps ILLOP. -/
def Sys2Proof.Machine.TssetSetsOffset : Prop :=
  ∀ (s : State) (a : Reg), a.toNat ≤ 27 → s.canRead a = true →
    ((s.src1 a).toNat < 2 ^ 32 → ∃ t : State, Does (.tsset a) s t ∧ stChoff (curElem t).csr.status = (s.src1 a).toNat ∧
      (curElem t).csr.status.setWidth 32 = (curElem s).csr.status.setWidth 32 ∧
      { (curElem t) with csr := (curElem s).csr } = curElem s ∧ t.mem = s.mem) ∧
    (2 ^ 32 ≤ (s.src1 a).toNat → Traps (.tsset a) s cILLOP (instrWord (.tsset a)))

/-- R149, R277: LAUNCH of a record that it accepts reserves a launch identifier, puts the launch into the outbox and the identifier into
w[d]; −2 for a record it does not accept, −1 where no launch or outbox entry is free. That launches and reserved identifiers together stay
below 4096, and that the next identifier skips the reserved ones, are the model's choices (log 29). -/
def Sys2Proof.Machine.LaunchAnswers : Prop :=
  ∀ (s t : State) (d a : Reg) (n : BitVec 5) (r : List Dword),
    a.toNat ≤ 27 → d.toNat ≤ 27 → s.canRead a = true → ¬ (n = 0 ∧ s.mode = 0) →
    (recBase (bfReg (curElem s) n.toNat) + (s.src1 a).toNat) % 64 = 0 →
    recordLoads (instrWord (.launch d a n)) n.toNat (s.src1 a).toNat 32 0 [] none s = .ok (r, t) →
    let y := curElem t
    let ok := recordOk t r (modeOf y == 0) (lidPrio t y.csr.lid)
    let room := decide (t.launches.length + (reservedLids t).length < 4096) && !obFull y
    (ok = false → t.canWrite d = true → Does (.launch d a n) s (t.putReg d (BitVec.allOnes 64 - 1))) ∧
    (ok = true → room = false → t.canWrite d = true → Does (.launch d a n) s (t.putReg d (BitVec.allOnes 64))) ∧
    (ok = true → room = true → t.canQueue = true →
      let used := t.launches.map (·.1) ++ reservedLids t
      let lid := if recSlid r ≠ 0 then recSlid r else nextLid used (used.length + 1) t.lidLast
      let u := t.queued (.launch (BitVec.ofNat 32 lid) r (launchAsid t y r))
      let v := modCur { u with lidLast := if recSlid r ≠ 0 then t.lidLast else lid } (fun z => { z with run := z.run.map (fun q => { q with lids := q.lids ++ [BitVec.ofNat 32 lid] }) })
      v.canWrite d = true → Does (.launch d a n) s (v.putReg d (dw lid)))

/-- R149, R277: each line of the record is a LOAD of its own. The first k dwords lie on one line in memory, after those that earlier
executions have brought, and dword k does not: what has come is kept, and the rest is left to the instruction's next execution (the model's
division into steps: log 45). -/
def Sys2Proof.Machine.LaunchGoesOn : Prop :=
  ∀ (s : State) (d a : Reg) (n : BitVec 5) (q : Run) (u : Nat → State) (c : Nat → Acc) (g : Nat → List Byte) (k line : Nat),
    a.toNat ≤ 27 → s.canRead a = true → ¬ (n = 0 ∧ s.mode = 0) → (curElem s).run = some q → q.vdone < k → k < 32 → u q.vdone = s →
    let off (i : Nat) : Nat := (s.src1 a).toNat + 8 * i
    let check (i : Nat) : Except Stop (Acc × State) := checkAt (instrWord (.launch d a n)) .load n.toNat (off i) 8 (u i)
    let spec (p : Acc) : Acc := match p with | .phys pa va cd _ => .phys pa va cd true | b => b
    (recBase (bfReg (curElem s) n.toNat) + (s.src1 a).toNat) % 64 = 0 →
    (∀ i, q.vdone ≤ i → i < k → ∃ t : State, check i = .ok (c i, t) ∧ accLine (c i) = some line ∧ loadAcc (spec (c i)) 8 t = .ok (g i, u (i + 1)) ∧
      ∀ r : Run, (curElem (u (i + 1))).run = some r → r.vdone = q.vdone ∧ r.vgot = q.vgot) →
    ∀ (t : State) (m : Nat), check k = .ok (c k, t) → accLine (c k) = some m → m ≠ line →
      exec (.launch d a n) s = .next (modCur (u k) (fun y => setVgot y k
        ((List.range k).map (fun i => if i < q.vdone then q.vgot.getD i 0 else leNat (g i)))))

/-- R149, R277: LAUNCH, in its executions line by line and with its answers. -/
def Obligations.LaunchResults : Prop := LaunchAnswers ∧ LaunchGoesOn

/-! ## Counters and engines (R150 to R161) -/

/-- R151, R158: SCREAD puts a counter of the cluster into w[d], and JOBST a job's status. -/
def Sys2Proof.Machine.StatusReads : Prop :=
  ∀ (s : State) (d a : Reg) (sc : BitVec 8), a.toNat ≤ 27 → s.canRead a = true → s.canWrite d = true →
    Does (.scread d sc) s (s.putReg d (counter s (clOf s.cur) sc.toNat).value) ∧
    Does (.jobst d a) s (s.putReg d (statusOfW s (queueOf s.cur (fld (s.src1 a) 31 29)) (s.src1 a)))

/-- R147, R148, R151, R154, R155, R158 to R160: instructions with a posted effect, TSSET, SCREAD and JOBST. That JOBARM completes without
the check of TSORDER is the model's choice (log 31). -/
def Obligations.PostedEffects : Prop := PostedForms ∧ TssetSetsOffset ∧ StatusReads

/-- R157, R80: ENQ of a command that it accepts reserves the next identifier and an entry of the queue, puts the push into the outbox and
the identifier into w[d]; −2 for a command it does not accept, −1 where the queue or the outbox is full. -/
def Sys2Proof.Machine.EnqResults : Prop :=
  ∀ (s : State) (d a : Reg) (eng : BitVec 5), 1 ≤ a.toNat → a.toNat ≤ 24 → d.toNat ≤ 27 →
    s.canRead a = true → s.canRead (a + 1) = true → s.canRead (a + 2) = true → s.canRead (a + 3) = true →
    let cmd : BitVec 256 := s.src1 (a + 3) ++ s.src1 (a + 2) ++ s.src1 (a + 1) ++ s.src1 a
    let q := queueOf s.cur eng.toNat
    let ok := enqOk cmd eng.toNat (s.mode == 0)
    let room := decide (queueUsed q (queue s q) < 64) && !obFull (curElem s)
    (ok = false → s.canWrite d = true → Does (.enq d a eng) s (s.putReg d (BitVec.allOnes 64 - 1))) ∧
    (ok = true → room = false → s.canWrite d = true → Does (.enq d a eng) s (s.putReg d (BitVec.allOnes 64))) ∧
    (ok = true → room = true → s.canQueue = true →
      let jid := nextJid eng.toNat (queue s q)
      let t := modCur (modQueue (s.queued (.push q jid cmd (curElem s).csr.tsnow (originOf s s.cur))) q
          (fun x => { x with seq := (x.seq + 1) % 2 ^ 29, held := x.held ++ [jid] }))
        (fun x => { x with run := x.run.map (fun r => { r with jobs := r.jobs ++ [(q, jid)] }) })
      t.canWrite d = true → Does (.enq d a eng) s (t.putReg d (jid.setWidth 64)))

/-- R161: JOBRESUME accepts a suspended job, JOBCANCEL one that has not ended, of the task's own launch in user mode; the settlement goes
into the outbox and 0 into w[d], and otherwise −1. -/
def Sys2Proof.Machine.JobSettlement : Prop :=
  ∀ (s : State) (d a : Reg), a.toNat ≤ 27 → d.toNat ≤ 27 → s.canRead a = true →
    let w := s.src1 a
    let q := queueOf s.cur (fld w 31 29)
    let st := (statusOfW s q w).toNat % 16
    let may := maySettle s q (w.setWidth 32)
    (s.canQueue = true → may = true →
      (st = 5 → (s.queued (.jobresume (w.setWidth 32))).canWrite d = true →
        Does (.jobresume d a) s ((s.queued (.jobresume (w.setWidth 32))).putReg d 0)) ∧
      (1 ≤ st → st ≤ 5 → (s.queued (.jobcancel (w.setWidth 32))).canWrite d = true →
        Does (.jobcancel d a) s ((s.queued (.jobcancel (w.setWidth 32))).putReg d 0))) ∧
    (s.canWrite d = true →
      ((st ≠ 5 ∨ may = false) → Does (.jobresume d a) s (s.putReg d (BitVec.allOnes 64))) ∧
      ((st = 0 ∨ 5 < st ∨ may = false) → Does (.jobcancel d a) s (s.putReg d (BitVec.allOnes 64))))

/-- R160: OSCLAIM of n slots for a launch takes the lowest run of n free operand slots of the cluster, within the launch's quota, and puts
its first slot into w[d]; −2 for a count of 0 or beyond 256 or a task without a launch, −1 where there is no such run or the quota does not allow it. -/
def Sys2Proof.Machine.OsclaimResults : Prop :=
  ∀ (s : State) (d a : Reg), a.toNat ≤ 27 → d.toNat ≤ 27 → s.canRead a = true →
    let n := (s.src1 a).toNat
    let lid := (curElem s).csr.lid
    let c := clOf s.cur
    (s.canWrite d = true → (n = 0 ∨ 256 < n ∨ lid = 0) → Does (.osclaim d a) s (s.putReg d (BitVec.allOnes 64 - 1))) ∧
    (s.canWrite d = true → 1 ≤ n → n ≤ 256 → lid ≠ 0 → freeSlots (clus s c) n = none → Does (.osclaim d a) s (s.putReg d (BitVec.allOnes 64))) ∧
    (∀ i : Nat, 1 ≤ n → n ≤ 256 → lid ≠ 0 → freeSlots (clus s c) n = some i →
      (quotaOk s c lid n = true →
        let t := modCur (modClus s c (fun x => { x with slotOwn := (span i n).foldl (fun o j => tput o j lid) x.slotOwn }))
          (fun x => { x with run := x.run.map (fun r => { r with claims := r.claims ++ span i n }) })
        t.canWrite d = true → Does (.osclaim d a) s (t.putReg d (dw i))) ∧
      (quotaOk s c lid n = false → s.canWrite d = true → Does (.osclaim d a) s (s.putReg d (BitVec.allOnes 64))) ∧
      (∀ j, j < n → tfind (clus s c).slotOwn (i + j) = none))

/-- R157, R160, R161: ENQ, JOBRESUME, JOBCANCEL and OSCLAIM. That the settlement of a job that is not the task's to settle answers −1 is the
model's choice (log 32), and so is the quota of a launch that is not active (log 30). -/
def Obligations.EngineGroup : Prop := EnqResults ∧ JobSettlement ∧ OsclaimResults

/-! ## Confluence, groups, the cache and routing on the element (R222 to R260) -/

/-- An instruction that puts one entry into the outbox and 0 into w[d] when its block is accepted, and −2 into w[d], with nothing in the
outbox, when it is not. -/
def Sys2Proof.Machine.Requests (s : State) (d : Reg) (i : Instr) (ok : Bool) (o : OutEntry) : Prop :=
  (ok = true → s.canQueue = true → (s.queued o).canWrite d = true → Does i s ((s.queued o).putReg d 0)) ∧
  (ok = false → s.canWrite d = true → Does i s (s.putReg d (BitVec.allOnes 64 - 1)))

/-- R223, R224, R252, R254, R257: CFOPEN, CFNEXT, CFEXPECT, CFSEAL, EXITMARK, GSTORE, GRDY and GPULL request an operation of a home;
GCFG, of a supervisor, requests a group configuration or traps ILLOP. -/
def Sys2Proof.Machine.RequestForms : Prop :=
  ∀ (s : State) (d a b : Reg), a.toNat ≤ 27 → b.toNat ≤ 27 → d.toNat ≤ 27 → s.canRead a = true → s.canRead b = true →
    let va := s.src1 a
    let o := originOf s s.cur
    let cf (sub n : Nat) : OutEntry := .cf { sub := sub, o := o, block := s.blockAt va n, terms := none, pages := [] }
    (s.canBlock va 2 = true →
      Requests s d (.cfopen d a) (cfRsvOk 0 (s.blockAt va 2)) (cf 0 2) ∧ Requests s d (.cfnext d a) (cfRsvOk 1 (s.blockAt va 2)) (cf 1 2) ∧
      Requests s d (.cfseal d a) (cfRsvOk 5 (s.blockAt va 2)) (cf 5 2) ∧ Requests s d (.exitmark d a) (cfRsvOk 7 (s.blockAt va 2)) (cf 7 2)) ∧
    (s.canBlock va 3 = true →
      Requests s d (.cfexpect d a) (cfRsvOk 2 (s.blockAt va 3)) (cf 2 3) ∧
      Requests s d (.grdy d a) (grdyOk (s.blockAt va 3)) (.grdy (s.blockAt va 3) o) ∧
      Requests s d (.gpull d a) (gpullOk (s.blockAt va 3)) (.gpull (s.blockAt va 3) o)) ∧
    Requests s d (.gstore d a b) (gwOk va) (.gstore va (s.src1 b) o) ∧
    (s.canBlock va 2 = true → s.mode ≠ 0 →
      let l := s.blockAt va 2
      (gcfgOk (dwAt l 0) (dwAt l 1) = true → s.canQueue = true → (s.queued (.gcfg l)).canWrite d = true →
        Does (.gcfg d a) s ((s.queued (.gcfg l)).putReg d 0)) ∧
      (gcfgOk (dwAt l 0) (dwAt l 1) = false → Traps (.gcfg d a) s cILLOP (instrWord (.gcfg d a))))

/-- R226, R228: CFPOST captures its source pages where its block is accepted, and CFREAD its destination pages; the operation goes into
the outbox with them and 0 into w[d], or −2 goes into w[d]. -/
def Sys2Proof.Machine.PostsAndReads : Prop :=
  ∀ (s t : State) (d a : Reg) (pages : List (Nat × Nat × Nat)), a.toNat ≤ 27 → d.toNat ≤ 27 → s.canRead a = true →
    let va := s.src1 a
    (s.canBlock va 4 = true →
      let op : CfOp := { sub := 3, o := originOf s s.cur, block := s.blockAt va 4, terms := none, pages := [] }
      (postOk (s.mode == 0) op = true → postPages op s = .ok (pages, t) → t.canQueue = true →
        (t.queued (.cf { op with pages := pages })).canWrite d = true →
          Does (.cfpost d a) s ((t.queued (.cf { op with pages := pages })).putReg d 0)) ∧
      (postOk (s.mode == 0) op = false → s.canWrite d = true → Does (.cfpost d a) s (s.putReg d (BitVec.allOnes 64 - 1)))) ∧
    (s.canBlock va 6 = true →
      let op : CfOp := { sub := 4, o := originOf s s.cur, block := s.blockAt va 6, terms := none, pages := [] }
      (readOk (s.mode == 0) op = true →
        captureRange .store (dwAt op.block 4).toNat (readCnt op * fmtBytes (readFmt op)) s = .ok (pages, t) → t.canQueue = true →
        (t.queued (.cf { op with pages := pages })).canWrite d = true →
          Does (.cfread d a) s ((t.queued (.cf { op with pages := pages })).putReg d 0)) ∧
      (readOk (s.mode == 0) op = false → s.canWrite d = true → Does (.cfread d a) s (s.putReg d (BitVec.allOnes 64 - 1))))

/-- R30, R230, R231, R260: CFSTAT puts a word of an object of this device into w[d], or −2 for a handle that names none; of another device
the word that the device answers, a free value (log 1), or −2 where no route leads to it, with the dropped request counted (R348; DEDUCED, log
49); CONFX its verdict, 0
with AXMODE bit 1 set, and raises its operations' flags; GCNT a count of a group's sequence, or −2 for a bad group word. -/
def Obligations.ImmediateReads : Prop :=
  ∀ (s : State) (d a b : Reg) (sel : BitVec 5), a.toNat ≤ 27 → b.toNat ≤ 27 → d.toNat ≤ 27 → s.canRead a = true → s.canRead b = true →
    s.canWrite d = true →
    let h := s.src1 a
    let y := s.src1 b
    (cfNamed s h = true → Does (.cfstat d a sel) s (s.putReg d (statWord (cfObj s h) sel.toNat))) ∧
    (cfNamed s h = false → (fld h 63 48 = s.regs.devnum.toNat ∨ fld h 28 0 ≠ 0) →
      Does (.cfstat d a sel) s (s.putReg d (BitVec.allOnes 64 - 1))) ∧
    (cfNamed s h = false → fld h 63 48 ≠ s.regs.devnum.toNat → fld h 28 0 = 0 →
      ((routePort s (fld h 63 48)).isSome = true → Does (.cfstat d a sel) s (s.putReg d (Config.remoteStat s.tick h sel.toNat))) ∧
      (let t := bumpTele s (4 + idieOf (dieOf s.cur)) 0x18
       routePort s (fld h 63 48) = none → t.canWrite d = true → Does (.cfstat d a sel) s (t.putReg d (BitVec.allOnes 64 - 1)))) ∧
    ((curElem s).csr.axmode.getLsbD 1 = true → Does (.confx d a b) s (s.putReg d 0)) ∧
    ((curElem s).csr.axmode.getLsbD 1 = false →
      let r := confx (fld h 31 0) (fld h 63 32) (fld y 31 0) (curElem s).csr.cxdelta.toNat (curElem s).csr.cxeps.toNat
      Does (.confx d a b) s (s.putFp d (if r.1 then 1 else 0) r.2)) ∧
    (gwOk h = true → Does (.gcnt d a sel) s (s.putReg d (gcntOf s (gwGroup h) (gwSeq h) sel.toNat))) ∧
    (gwOk h = false → Does (.gcnt d a sel) s (s.putReg d (BitVec.allOnes 64 - 1)))

/-- R234 to R237: KVFORK, KVPUB and KVFREE put an operation of the cache into the outbox where their block and the root it names are
accepted, KVPUT with its rows where no key is a NaN; otherwise, and for a KVSTAT whose block is not accepted, −2 goes into w[d]. -/
def Sys2Proof.Machine.CacheRequests : Prop :=
  ∀ (s t : State) (d a : Reg) (bytes : List Byte), a.toNat ≤ 27 → d.toNat ≤ 27 → s.canRead a = true → s.canBlock (s.src1 a) 8 = true →
    let va := s.src1 a
    let l := s.blockAt va 8
    let root := bytesDwords bytes
    let op (sub : Nat) : KvOp :=
      { sub := sub, addr := va.toNat - lsBase, block := l, root := root, krow := [], vrow := [], o := originOf t t.cur }
    let fields (sub : Nat) : Bool := kvRsvOk sub l && kvFieldsOk sub l
    let no := BitVec.allOnes 64 - 1
    (s.canWrite d = true →
      (fields 0 = false → Does (.kvfork d a) s (s.putReg d no)) ∧ (fields 1 = false → Does (.kvput d a) s (s.putReg d no)) ∧
      (fields 2 = false → Does (.kvpub d a) s (s.putReg d no)) ∧ (fields 3 = false → Does (.kvstat d a) s (s.putReg d no)) ∧
      (fields 4 = false → Does (.kvfree d a) s (s.putReg d no))) ∧
    ((dwAt l 0).toNat % 64 = 0 → taskLoad (dwAt l 0).toNat 64 s = .ok (bytes, t) → kvRootOk root = true →
      (fields 0 = true → t.canQueue = true → (t.queued (.kv (op 0))).canWrite d = true →
        Does (.kvfork d a) s ((t.queued (.kv (op 0))).putReg d 0)) ∧
      (fields 2 = true → t.canQueue = true → (t.queued (.kv (op 2))).canWrite d = true →
        Does (.kvpub d a) s ((t.queued (.kv (op 2))).putReg d 0)) ∧
      (fields 4 = true → t.canQueue = true → (t.queued (.kv (op 4))).canWrite d = true →
        Does (.kvfree d a) s ((t.queued (.kv (op 4))).putReg d 0)) ∧
      (∀ ks vs : List (BitVec 32), fields 1 = true → readRow root (dwAt l 2).toNat t = .ok (ks, t) → readRow root (dwAt l 3).toNat t = .ok (vs, t) →
        (ks.any (fun k => (fpDecode (rootF root) k.toNat).isNan) = false → t.canQueue = true →
          (t.queued (.kv { op 1 with krow := ks, vrow := vs })).canWrite d = true →
            Does (.kvput d a) s ((t.queued (.kv { op 1 with krow := ks, vrow := vs })).putReg d 0)) ∧
        (ks.any (fun k => (fpDecode (rootF root) k.toNat).isNan) = true → t.canWrite d = true → Does (.kvput d a) s (t.putReg d no))))

/-- R234, R236, R277: KVSTAT loads the root, the page of the entry, the entry and the header of its block, each a LOAD of its own that leaves
the rest to the instruction's next execution (the model's division into steps: log 45). w[d] is the header, −1 where the entry is absent, or
−2 where the root names no such entry. -/
def Sys2Proof.Machine.KvstatByLoad : Prop :=
  ∀ (s t : State) (d a : Reg) (bytes : List Byte) (g : List Nat) (page ent : Nat), a.toNat ≤ 27 → d.toNat ≤ 27 → s.canRead a = true →
    s.canBlock (s.src1 a) 8 = true →
    let x := curElem s
    let l := s.blockAt (s.src1 a) 8
    let i : Instr := .kvstat d a
    let waits (u : State) (k : Nat) (got : List Nat) : Prop :=
      exec i s = .next (modCur u (fun y => { y with run := y.run.map (fun r => { r with vdone := k, vgot := got }) }))
    let ends (u : State) (v : Dword) : Prop :=
      let w := modCur u (fun y => { y with run := y.run.map (fun r => { r with vdone := 0, vgot := [] }) })
      w.canWrite d = true → Does i s (w.putReg d v)
    let root := g.map dw
    let inRange := kvInRange root (kvL l) (kvG l) (kvP l)
    let e := kvIndex root (kvL l) (kvG l) (kvP l)
    kvRsvOk 3 l = true → kvFieldsOk 3 l = true → g.length = 8 → (∀ n ∈ g, n < 2 ^ 64) →
    (vdoneOf x = 0 → (dwAt l 0).toNat % 64 = 0 → taskLoad (dwAt l 0).toNat 64 s = .ok (bytes, t) → bytesDwords bytes = root →
      (kvRootOk root = false → t.canWrite d = true → Does i s (t.putReg d (BitVec.allOnes 64 - 1))) ∧
      (kvRootOk root = true → inRange = false → t.canWrite d = true → Does i s (t.putReg d (BitVec.allOnes 64 - 1))) ∧
      (kvRootOk root = true → inRange = true → vdoneOf (curElem t) = 0 → waits t 1 g)) ∧
    (inRange = true →
      (vdoneOf x = 1 → vgotOf x = g → taskLoad ((dwAt root 1).toNat + 8 * (e / 512)) 8 s = .ok (bytes, t) → vdoneOf (curElem t) = 1 →
        waits t 2 (g ++ [leNat bytes])) ∧
      (vdoneOf x = 2 → vgotOf x = g ++ [page] → readTracked (entAt page e) (entAt page e) 8 false s = .ok (bytes, t) →
        vdoneOf (curElem t) = 2 →
        let v := dw (leNat bytes)
        (entPres v = false → ends t (BitVec.allOnes 64)) ∧ (entPres v = true → waits t 3 (g ++ [page, leNat bytes]))) ∧
      (vdoneOf x = 3 → vgotOf x = g ++ [page, ent] → entPres (dw ent) = true →
        readTracked (entPa (dw ent)) (entPa (dw ent)) 8 false s = .ok (bytes, t) → ends t (dw (leNat bytes))))

/-- R234 to R237: the KV group. That KVSTAT's reads are tracked, and that KVPUT's rows are aligned to 8, are the model's choices (log 34). -/
def Obligations.CacheInstructions : Prop := CacheRequests ∧ KvstatByLoad

/-- R95, R246, R247: HSIFT inserts an entry into a heap that has room and sifts it up, replaces the worst of a full heap by a better entry and
sifts it down, and otherwise leaves the heap; w[d] says which; −2 for an invalid header. FPFLAGS gains what its comparisons raise: NV where a
score that the heap holds is a NaN that they meet. -/
def Sys2Proof.Machine.HeapInsertion : Prop :=
  ∀ (s : State) (d a b : Reg) (r : Run), a.toNat ≤ 27 → b.toNat ≤ 27 → d.toNat ≤ 27 → s.canRead a = true → s.canRead b = true →
    (curElem s).run = some r → r.undo.length + 35 ≤ undoCap → Memory.wf (curElem s).ls = true →
    let va := s.src1 a
    let e := s.src1 b
    let h := dwAt (s.blockAt va 1) 0
    let n := fld h 5 0
    let l := s.blockAt (va + 8) n
    let far := d = 0 ∨ lsBase + wOff (curElem s) d.toNat + 8 ≤ va.toNat ∨ va.toNat + 8 * 33 ≤ lsBase + wOff (curElem s) d.toNat
    s.canBlock va 33 = true → far →
    (heapOk h = false → Does (.hsift d a b) s (s.putReg d (BitVec.allOnes 64 - 1))) ∧
    (heapOk h = true → (fpDecode .fp32 (fld e 31 0)).isNan = true → Does (.hsift d a b) s ((s.raised flNV).putReg d (BitVec.allOnes 64 - 1))) ∧
    (heapOk h = true → (fpDecode .fp32 (fld e 31 0)).isNan = false →
      (n < fld h 13 8 → ∃ t : State, Does (.hsift d a b) s t ∧ (d ≠ 0 → getW (curElem t) d = 1) ∧
        (curElem t).csr.fpflags = (curElem s).csr.fpflags ||| BitVec.ofNat 7 (siftUpFlags n n (l ++ [e])) ∧
        dwAt (t.blockAt va 1) 0 = h + 1 ∧ t.blockAt (va + 8) (n + 1) = siftUp n n (l ++ [e])) ∧
      (n = fld h 13 8 → worse (dwAt l 0) e = true → ∃ t : State, Does (.hsift d a b) s t ∧ (d ≠ 0 → getW (curElem t) d = 1) ∧
        (curElem t).csr.fpflags = (curElem s).csr.fpflags ||| BitVec.ofNat 7 (siftDownFlags n 0 (l.set 0 e)) ∧
        dwAt (t.blockAt va 1) 0 = h ∧ t.blockAt (va + 8) n = siftDown n 0 (l.set 0 e)) ∧
      (n = fld h 13 8 → worse (dwAt l 0) e = false →
        Does (.hsift d a b) s ((s.raised (worseFlags (dwAt l 0) e)).putReg d 0)))

/-- R248: HTOPK writes the entries of a heap, best first, with their weights, and their number into w[d]; 0 for an empty heap, −2 for an
invalid header. -/
def Sys2Proof.Machine.HeapOutput : Prop :=
  ∀ (s : State) (d a b : Reg) (renorm : Bool) (r : Run), a.toNat ≤ 27 → b.toNat ≤ 27 → d.toNat ≤ 27 →
    s.canRead a = true → s.canRead b = true → s.canRead d = true → (curElem s).run = some r → r.undo.length + 33 ≤ undoCap → Memory.wf (curElem s).ls = true →
    let va := s.src1 a
    let dst := s.src1 b
    let h := dwAt (s.blockAt va 1) 0
    let n := fld h 5 0
    let l := s.blockAt (va + 8) n
    let best := sortBy (fun x y => worse y x) l
    let w := topkWeights (curElem s).csr.fprm.toNat renorm (fld (s.src1 d) 31 0) (best.map (fun e => fld e 31 0))
    s.canBlock va 33 = true → s.canBlock dst n = true →
    (d = 0 ∨ lsBase + wOff (curElem s) d.toNat + 8 ≤ dst.toNat ∨ dst.toNat + 8 * n ≤ lsBase + wOff (curElem s) d.toNat) →
    (heapOk h = false → Does (.htopk d a b renorm) s (s.putReg d (BitVec.allOnes 64 - 1))) ∧
    (heapOk h = true → n = 0 → Does (.htopk d a b renorm) s (s.putReg d 0)) ∧
    (heapOk h = true → n ≠ 0 → ∃ t : State, Does (.htopk d a b renorm) s t ∧ (d ≠ 0 → getW (curElem t) d = BitVec.ofNat 64 n) ∧
      t.blockAt dst n = List.zipWith (fun e x => dw (x + fld e 63 32 * 2 ^ 32)) best w.1 ∧
      (curElem t).csr.fpflags = (curElem s).csr.fpflags ||| BitVec.ofNat 7 w.2)

/-- R246 to R248: HSIFT and HTOPK. The order of entries whose scores software has made NaN, and that HTOPK raises no flag for them, are the
model's choice (log 54). -/
def Obligations.HeapInstructions : Prop := HeapInsertion ∧ HeapOutput

/-- R266: RCUPD finds the three cells of an item under the seeds of its reconcile engine, puts the update into the outbox and 0 into
w[d]; −2 for a block that it does not accept. -/
def Sys2Proof.Machine.CellUpdateRequests : Prop :=
  ∀ (s t : State) (d a : Reg) (del : Bool) (pages : List (Nat × Nat × Nat)), a.toNat ≤ 27 → d.toNat ≤ 27 → s.canRead a = true →
    s.canBlock (s.src1 a) 4 = true →
    let l := s.blockAt (s.src1 a) 4
    let i := idieOf (dieOf s.cur)
    let seeds := seedsOf s i
    let dig := dw (fld (dwAt l 2) 31 0)
    let o : OutEntry := .rcupd [dwAt l 0, dwAt l 1, dig, dw (rcCheck (dwAt seeds 3) (dwAt l 1) dig)] del (originOf t t.cur) pages
    (rcupdOk l = true → cellPages l seeds i [0, 1, 2] s = .ok (pages, t) → t.canQueue = true → (t.queued o).canWrite d = true →
      Does (.rcupd d a del) s ((t.queued o).putReg d 0)) ∧
    (rcupdOk l = false → s.canWrite d = true → Does (.rcupd d a del) s (s.putReg d (BitVec.allOnes 64 - 1)))

/-- R222 to R228, R252 to R257, R266: instructions that ask something of a home. That RCUPD translates the pages of its cells when it executes
and captures them is the model's choice (log 34). -/
def Obligations.HomeRequests : Prop := RequestForms ∧ PostsAndReads ∧ CellUpdateRequests

/-! ## The vector pool (R163 to R188, R244, R245) -/

/-- R28, R169: every instruction of the vector pool but VCLAIM traps ILLOP while no lane group is granted, before anything else; VCLAIM
traps it while one is. -/
def Obligations.VectorNeedsGrant : Prop :=
  ∀ (s : State) (vd va vb : BitVec 5) (d a b : Reg) (bf : BitVec 4) (m md ma mb : BitVec 3) (f g : Fmt) (sat : Bool),
    (s.grant = 0 → ∀ i ∈ ([.vsync d, .vfree, .vmlogicAnd md ma mb, .vmlogicOr md ma mb, .vmlogicXor md ma mb, .vmlogicAndn md ma mb,
        .vmlogicNot md ma, .vmlogicMov md ma, .vmlogicSet md, .vmlogicClr md, .vmpop d ma, .viota vd a b m f, .vld vd bf a m f,
        .vst vd bf a m f, .vlds vd bf a m f, .vsts vd bf a m f, .vldx vd bf va m f, .vstx vd bf va m f, .vbcast vd a m f, .vextr d va b f,
        .vins vd a b f, .vadd vd va vb m f, .vsub vd va vb m f, .vmul vd va vb m f, .vfma vd va vb m f, .vmin vd va vb m f,
        .vmax vd va vb m f, .vabs vd va m f, .vneg vd va m f, .vand vd va vb m f, .vor vd va vb m f, .vxor vd va vb m f,
        .vshl vd va vb m f, .vshr vd va vb m f, .vcmpeq md va vb m f, .vcmplt md va vb m f, .vsel vd va vb m f, .vexp2 vd va m f,
        .vlog2 vd va m f, .vrcp vd va m f, .vrsqrt vd va m f, .vsqrt vd va m f, .vcvt vd va f sat m g, .vqnt vd va b m f,
        .vdqnt vd va b m f, .vtern vd va b m f, .vredsum d va m f, .vredmax d va m f, .vredmin d va m f, .vredamax d va m f,
        .vscan vd va m f, .vperm vd va vb m f, .vslide vd va b m f, .abound d va vb m, .audchk d a b] : List Instr),
      Traps i s cILLOP (instrWord i)) ∧
    (s.grant ≠ 0 → Traps (.vclaim d a b) s cILLOP (instrWord (.vclaim d a b)))

/-- Lane group i of the running element's cluster. -/
def Sys2Proof.Machine.State.lane (s : State) (i : Nat) : Lane := (clus s (clOf s.cur)).lanes.getD i .free

/-- The lane groups in one state, in ascending number. -/
def Sys2Proof.Machine.State.lanesAs (s : State) (l : Lane) : List Nat := (List.range 8).filter (fun i => decide (s.lane i = l))

/-- From s to t the lane groups of the element's cluster become as given, and nothing else changes but the element's grant, its request,
its vector registers and its masks. -/
def Sys2Proof.Machine.LaneFrame (s t : State) (lanes : Nat → Lane) : Prop :=
  t.cur = s.cur ∧ { t with elems := s.elems, clusters := s.clusters } = s ∧ (∀ e, e ≠ s.cur → elem t e = elem s e) ∧
  (let x := curElem s
   let y := curElem t
   { y with csr := x.csr, req := x.req, v := x.v, m := x.m } = x ∧ { y.csr with vgrant := x.csr.vgrant } = x.csr) ∧
  (∀ c, c ≠ clOf s.cur → clus t c = clus s c) ∧
  { clus t (clOf s.cur) with lanes := (clus s (clOf s.cur)).lanes } = clus s (clOf s.cur) ∧ ∀ i, i < 8 → t.lane i = lanes i

/-- The grant of g groups is in VGRANT, with a bit for each group held; the registers are zero and the masks clear (R28, R35). -/
def Sys2Proof.Machine.Granted (t : State) (g : Nat) : Prop :=
  (curElem t).csr.g = g ∧ (∀ i, i < 8 → (curElem t).csr.vgrant.getLsbD (4 + i) = decide (t.lane i = .held t.cur)) ∧
  (curElem t).v = [] ∧ (curElem t).m = []

/-- R164's cap: the lane quota of the launch, eight where it gives none, less the groups held in this cluster by its other tasks. That it is
eight too for a task without an active launch is the model's choice (log 49). -/
def Sys2Proof.Machine.State.laneRoom (s : State) : Nat :=
  let lid := (curElem s).csr.lid
  (match launchOf s lid with | some l => if recLanes l.rcd = 0 then 8 else recLanes l.rcd | none => 8) - othersHold s s.cur lid

/-- R163, R164: VCLAIM puts −2 into w[d] for bad operands, and 0 in an urgent task. Otherwise it grants the least of what it wants, of the
groups reserved for the element and free ones, and of R164's cap, or none where that is below its minimum: the reserved groups first, then
the lowest free ones. Its request stands. That the groups still reserved are freed when it got all that it wants, and that the quota is eight
for a task without an active launch, are the model's choices (log 49). -/
def Sys2Proof.Machine.ClaimResults : Prop :=
  ∀ (s : State) (d a b : Reg), d.toNat ≤ 27 → a.toNat ≤ 27 → b.toNat ≤ 27 → s.canRead a = true → s.canRead b = true →
    s.grant = 0 → s.canWrite d = true →
    let want := (s.src1 a).toNat
    let min := (s.src1 b).toNat
    let good := 1 ≤ want ∧ want ≤ 8 ∧ 1 ≤ min ∧ min ≤ want
    (¬ good → Does (.vclaim d a b) s (s.putReg d (BitVec.allOnes 64 - 1))) ∧
    (good → isUrgent (curElem s) = true → Does (.vclaim d a b) s (s.putReg d 0)) ∧
    (good → isUrgent (curElem s) = false → (clus s (clOf s.cur)).lanes.length = 8 → s.lanesAs (.held s.cur) = [] →
      let avail := s.lanesAs (.reserved s.cur) ++ s.lanesAs .free
      let most := Nat.min want (Nat.min avail.length s.laneRoom)
      let g := if most < min then 0 else most
      ∃ t : State, Does (.vclaim d a b) s (t.putReg d (dw g)) ∧
        LaneFrame s t (fun i => if i ∈ avail.take g then .held s.cur
          else if g = want ∧ s.lane i = .reserved s.cur then .free else s.lane i) ∧
        (curElem t).req.map (fun q => (q.want, q.min, q.prio)) = some (want, min, stPrio (curElem s).csr.status) ∧
        (g = 0 → (curElem t).csr = (curElem s).csr) ∧ (g ≠ 0 → Granted t g))

/-- R166: VSYNC gives its highest groups, down to its minimum, to the best waiting request of higher priority, as far as that is short of
groups; where none waits with its priority or more, it takes the lowest free groups, up to what it wants and R164's cap. w[d] is the grant,
with bit 8 where the groups have changed, which clears the vector registers. That the groups reserved for it stay reserved when it reaches
what it wants, and the quota of a task without an active launch, are the model's choices (log 49). -/
def Sys2Proof.Machine.SyncResults : Prop :=
  ∀ (s : State) (d : Reg) (q : LaneReq), d.toNat ≤ 27 → s.canWrite d = true → (curElem s).req = some q →
    let g := s.grant
    let mine := s.lanesAs (.held s.cur)
    let others := othersWaiting s s.cur
    let prio := stPrio (curElem s).csr.status
    g ≠ 0 → mine.length = g → (clus s (clOf s.cur)).lanes.length = 8 →
    let becomes (g' : Nat) (lanes : Nat → Lane) : Prop :=
      ∃ t : State, Does (.vsync d) s (t.putReg d (dw (if g' = g then g else g' + 256))) ∧ LaneFrame s t lanes ∧
        (curElem t).req = some q ∧ (g' = g → curElem t = curElem s) ∧ (g' ≠ g → Granted t g')
    (∀ o ∈ others, prio < o.2.prio → (∀ p ∈ others, p.2.prio < o.2.prio ∨ p.2.prio = o.2.prio ∧ o.1 ≤ p.1) →
      let short := o.2.want - ((s.lanesAs (.held o.1)).length + (s.lanesAs (.reserved o.1)).length + (s.lanesAs .free).length)
      let give := Nat.min short (g - q.min)
      becomes (g - give) (fun i => if i ∈ mine.drop (g - give) then .reserved o.1 else s.lane i)) ∧
    ((∀ o ∈ others, o.2.prio < prio) → g < q.want →
      let n := Nat.min (q.want - g) (Nat.min (s.lanesAs .free).length (s.laneRoom - g))
      becomes (g + n) (fun i => if i ∈ (s.lanesAs .free).take n then .held s.cur else s.lane i)) ∧
    ((∀ o ∈ others, o.2.prio ≤ prio) → (q.want ≤ g ∨ ∃ o ∈ others, o.2.prio = prio) → becomes g s.lane)

/-- R167: VFREE frees every group held or reserved, and withdraws the request; nothing is granted any more. -/
def Sys2Proof.Machine.FreeResults : Prop :=
  ∀ s : State, s.grant ≠ 0 → (clus s (clOf s.cur)).lanes.length = 8 →
    ∃ t : State, Does .vfree s t ∧
      LaneFrame s t (fun i => if s.lane i = .held s.cur ∨ s.lane i = .reserved s.cur then .free else s.lane i) ∧
      (curElem t).csr.vgrant = 0 ∧ (curElem t).req = none ∧ (curElem t).v = [] ∧ (curElem t).m = []

/-- R28, R163 to R167: VCLAIM, VSYNC and VFREE. Three points are the model's choices (log 49), which no rule settles: a full grant of VCLAIM
frees the groups that are still reserved, a VSYNC that reaches what it wants keeps them reserved, and the quota is eight for a task whose
launch identifier is 0 or names no active launch. -/
def Obligations.LaneClaims : Prop := ClaimResults ∧ SyncResults ∧ FreeResults

/-- R171 to R173: VMLOGIC works on whole masks, VMPOP counts the one bits of a mask, VIOTA writes w[a] + i·w[b] into the active elements. -/
def Sys2Proof.Machine.MaskResults : Prop :=
  ∀ (s : State) (md ma mb m : BitVec 3) (vd : BitVec 5) (d a b : Reg) (f : Fmt), s.grant ≠ 0 → d.toNat ≤ 27 →
    let x := curElem s
    let put (v : BitVec 2048) : State := modCur s (fun y => putMask y md v)
    Does (.vmlogicAnd md ma mb) s (put (getMask x ma &&& getMask x mb)) ∧ Does (.vmlogicOr md ma mb) s (put (getMask x ma ||| getMask x mb)) ∧
    Does (.vmlogicXor md ma mb) s (put (getMask x ma ^^^ getMask x mb)) ∧
    Does (.vmlogicAndn md ma mb) s (put (getMask x ma &&& ~~~(getMask x mb))) ∧ Does (.vmlogicNot md ma) s (put (~~~(getMask x ma))) ∧
    Does (.vmlogicMov md ma) s (put (getMask x ma)) ∧ Does (.vmlogicSet md) s (put (BitVec.allOnes 2048)) ∧
    Does (.vmlogicClr md) s (put 0) ∧
    (s.canWrite d = true → Does (.vmpop d ma) s (s.putReg d (dw (popCount (getMask x ma).toNat 2048)))) ∧
    (a.toNat ≤ 27 → b.toNat ≤ 27 → s.canRead a = true → s.canRead b = true →
      Does (.viota vd a b m f) s (s.putLanes vd m f ((List.range (vCount f s.grant)).map
        (fun i => (((s.src1 a).toNat + i * (s.src1 b).toNat) % 2 ^ fmtBits f, 0)))))

/-- R28: a write to m0 is discarded and m0 reads as all ones; a write to another mask is what it reads. -/
def Sys2Proof.Machine.MaskRegisters : Prop :=
  ∀ (x : Elem) (m k : BitVec 3) (v : BitVec 2048),
    getMask x 0 = BitVec.allOnes 2048 ∧ putMask x 0 v = x ∧ (m ≠ 0 → getMask (putMask x m v) m = v) ∧
    (k ≠ m → getMask (putMask x m v) k = getMask x k)

/-- R28, R171 to R173: masks. -/
def Obligations.MaskInstructions : Prop := MaskResults ∧ MaskRegisters

/-- R177: VLD, VLDS and VLDX check every active element in ascending order and then load them; inactive elements keep their values. What
lies on a second line outside local store is left to the instruction's next execution (R277; log 45). -/
def Sys2Proof.Machine.VectorLoads : Prop :=
  ∀ (s t : State) (vd vi : BitVec 5) (bf : BitVec 4) (x : Reg) (m : BitVec 3) (f : Fmt) (ps : List (Nat × Acc)),
    s.grant ≠ 0 → x.toNat ≤ 27 → s.canRead x = true →
    let r := rawFmt f
    let loads (i : Instr) (a : VAddr) : Prop :=
      vCheck (instrWord i) .load bf.toNat (fmtBytes r) a (vActive (curElem s) m (vAccCount a r s.grant)) s = .ok (ps, t) →
        (∀ (u : State) (vs : List Nat), vLoads (fmtBytes r) (ps.map (·.2)) 0 [] none t = .ok (vs, u) →
          Does i s (modCur u (fun y => putV y vd r (((ps.map (·.1)).zip vs).foldl (fun l v => l.set v.1 v.2) (s.lanes r vd))))) ∧
        (∀ u : State, vLoads (fmtBytes r) (ps.map (·.2)) 0 [] none t = .error (.wait u) → exec i s = .next u)
    loads (.vld vd bf x m f) (.unit (s.src1 x).toNat) ∧ loads (.vlds vd bf x m f) (.strided (s.src1 x).toNat) ∧
    loads (.vldx vd bf vi m f) (.indexed (elemsOf 32 (16 * s.grant) (getV (curElem s) vi).toNat))

/-- R169, R176, R177: VST, VSTS and VSTX check every active element in ascending order and then store them. A serial run that finds a buffer
full part way keeps the places and values that are left, and its next execution stores those, with no check and no source read anew (R282). -/
def Sys2Proof.Machine.VectorStores : Prop :=
  ∀ (s t : State) (vd vi : BitVec 5) (bf : BitVec 4) (x : Reg) (m : BitVec 3) (f : Fmt) (ps : List (Nat × Acc)),
    s.grant ≠ 0 → x.toNat ≤ 27 → s.canRead x = true →
    let r := rawFmt f
    let ends (i : Instr) (act : Except Stop (Unit × State)) : Prop :=
      (∀ u : State, act = .ok ((), u) → Does i s u) ∧ (∀ u : State, act = .error (.wait u) → exec i s = .next u)
    let stores (i : Instr) (a : VAddr) : Prop :=
      (vdoneOf (curElem s) = 0 →
        vCheck (instrWord i) .store bf.toNat (fmtBytes r) a (vActive (curElem s) m (vAccCount a r s.grant)) s = .ok (ps, t) →
        ends i (vStores (fmtBytes r) (ps.map (fun p => (p.2, (s.lanes r vd).getD p.1 0))) 0 t)) ∧
      (vdoneOf (curElem s) ≠ 0 → ends i (vStores (fmtBytes r) (heldStores (vgotOf (curElem s))) (vdoneOf (curElem s)) s))
    stores (.vst vd bf x m f) (.unit (s.src1 x).toNat) ∧ stores (.vsts vd bf x m f) (.strided (s.src1 x).toNat) ∧
    stores (.vstx vd bf vi m f) (.indexed (elemsOf 32 (16 * s.grant) (getV (curElem s) vi).toNat))

/-- The three ways of R175 to place the elements of a load or of a store. -/
def Sys2Proof.Machine.vectorForms (s : State) (store : Bool) (vd vi : BitVec 5) (bf : BitVec 4) (x : Reg) (m : BitVec 3) (f : Fmt) :
    List (Instr × VAddr) :=
  let v := (s.src1 x).toNat
  let idx := VAddr.indexed (elemsOf 32 (16 * s.grant) (getV (curElem s) vi).toNat)
  if store then [(.vst vd bf x m f, .unit v), (.vsts vd bf x m f, .strided v), (.vstx vd bf vi m f, idx)]
  else [(.vld vd bf x m f, .unit v), (.vlds vd bf x m f, .strided v), (.vldx vd bf vi m f, idx)]

/-- Every active element of an access lies in local store, the i-th at the offset o i, and holds no poison. -/
def Sys2Proof.Machine.placesLocal (s : State) (bf : BitVec 4) (m : BitVec 3) (r : Fmt) (a : VAddr) (o : Nat → Nat) : Prop :=
  ∀ i, i < vAccCount a r s.grant → active (getMask (curElem s) m) i = true →
    s.localAt bf.toNat (vOff a (bfReg (curElem s) bf.toNat) (fmtBytes r) i) (fmtBytes r) = some (o i) ∧
    lsPoisoned (curElem s) (o i) (fmtBytes r) = false

/-- R175, R176, R177: VLD, VLDS and VLDX of elements that lie in local store: active element i comes from the bytes at its place, and every
other element keeps its value. The grant is at most the eight groups of a cluster. -/
def Sys2Proof.Machine.VectorLoadLocal : Prop :=
  ∀ (s : State) (vd vi : BitVec 5) (bf : BitVec 4) (x : Reg) (m : BitVec 3) (f : Fmt) (o : Nat → Nat),
    s.grant ≠ 0 → s.grant ≤ 8 → x.toNat ≤ 27 → s.canRead x = true → vdoneOf (curElem s) = 0 →
    let r := rawFmt f
    ∀ p ∈ vectorForms s false vd vi bf x m f, placesLocal s bf m r p.2 o →
      ∃ t : State, Does p.1 s t ∧ { (curElem t) with v := (curElem s).v, run := (curElem s).run } = curElem s ∧
        { t with elems := s.elems } = s ∧
        ∀ i, i < vCount r s.grant → (t.lanes r vd).getD i 0 =
          if i < vAccCount p.2 r s.grant ∧ active (getMask (curElem s) m) i = true then
            leNat (memRead (curElem s).ls (o i) (fmtBytes r))
          else (s.lanes r vd).getD i 0

/-- R175, R176, R177: VST, VSTS and VSTX of elements that lie in local store, none overlapping another: the bytes at its place become those
of active element i, and every other byte keeps its value. The undo log has room for a dword of each. -/
def Sys2Proof.Machine.VectorStoreLocal : Prop :=
  ∀ (s : State) (vd vi : BitVec 5) (bf : BitVec 4) (x : Reg) (m : BitVec 3) (f : Fmt) (o : Nat → Nat) (q : Run),
    s.grant ≠ 0 → s.grant ≤ 8 → x.toNat ≤ 27 → s.canRead x = true → (curElem s).run = some q → q.vdone = 0 →
    Memory.wf (curElem s).ls = true →
    let r := rawFmt f
    ∀ p ∈ vectorForms s true vd vi bf x m f, placesLocal s bf m r p.2 o →
      let n := vAccCount p.2 r s.grant
      let on (i : Nat) : Prop := i < n ∧ active (getMask (curElem s) m) i = true
      q.undo.length + n ≤ undoCap → (∀ i j, on i → on j → i ≠ j → o i + fmtBytes r ≤ o j ∨ o j + fmtBytes r ≤ o i) →
      ∃ t : State, Does p.1 s t ∧ { (curElem t) with ls := (curElem s).ls, lsBad := (curElem s).lsBad, lsTodo := (curElem s).lsTodo, run := (curElem s).run } = curElem s ∧
        { t with elems := s.elems } = s ∧
        (∀ i, on i → leNat (memRead (curElem t).ls (o i) (fmtBytes r)) = (s.lanes r vd).getD i 0) ∧
        (∀ k : Nat, (∀ i, on i → k < o i ∨ o i + fmtBytes r ≤ k) → memGet (curElem t).ls k = memGet (curElem s).ls k)

/-- R175 to R177: vector loads and stores. -/
def Obligations.VectorMemory : Prop := VectorLoads ∧ VectorStores ∧ VectorLoadLocal ∧ VectorStoreLocal

/-- R178: VBCAST writes the low bits of w[a] into every active element; VEXTR puts one element into w[d], 0 beyond the last; VINS writes
the low bits of w[a] into one element, none beyond the last. -/
def Sys2Proof.Machine.VectorMoves : Prop :=
  ∀ (s : State) (vd va : BitVec 5) (d a b : Reg) (m : BitVec 3) (f : Fmt), s.grant ≠ 0 → d.toNat ≤ 27 → a.toNat ≤ 27 → b.toNat ≤ 27 →
    s.canRead a = true → s.canRead b = true →
    let r := rawFmt f
    let n := vCount r s.grant
    Does (.vbcast vd a m f) s (s.putLanes vd m r (List.replicate n ((s.src1 a).toNat % 2 ^ fmtBits r, 0))) ∧
    (s.canWrite d = true → Does (.vextr d va b f) s (s.putReg d (vResult r ((s.lanes r va).getD (s.src1 b).toNat 0)))) ∧
    ((s.src1 b).toNat < n → Does (.vins vd a b f) s
      (modCur s (fun x => putV x vd r ((s.lanes r vd).set (s.src1 b).toNat ((s.src1 a).toNat % 2 ^ fmtBits r))))) ∧
    (n ≤ (s.src1 b).toNat → Does (.vins vd a b f) s (modCur s id))

/-- An elementwise instruction: op gets the format, the rounding mode, the old destination element and the two source elements. -/
def Sys2Proof.Machine.Elementwise (i : BitVec 5 → BitVec 5 → BitVec 5 → BitVec 3 → Fmt → Instr)
    (op : Fmt → Nat → Nat → Nat → Nat → Nat × Nat) : Prop :=
  ∀ (s : State) (vd va vb : BitVec 5) (m : BitVec 3) (f : Fmt), s.grant ≠ 0 →
    Does (i vd va vb m f) s (s.putLanes vd m f (List.zipWith (fun (o : Nat) (p : Nat × Nat) => op f (curElem s).csr.fprm.toNat o p.1 p.2)
      (s.lanes f vd) ((s.lanes f va).zip (s.lanes f vb))))

/-- An operation that is floating in the floating formats and of integers, modulo the width, in the others. -/
def Sys2Proof.Machine.mixed (fp : Fmt → Nat → Nat → Nat → Nat → Nat × Nat) (int : Fmt → Nat → Nat → Nat → Nat) (f : Fmt) (rm o a b : Nat) :
    Nat × Nat :=
  if isFloat f then fp f rm o a b else (int f o a b % 2 ^ fmtBits f, 0)

/-- R179, R181: VADD, VSUB, VMUL, VFMA, VMIN, VMAX, VABS, VNEG, VAND, VOR, VXOR, VSHL and VSHR on every active element; VSEL by the
selector on every element. -/
def Sys2Proof.Machine.VectorElementwise : Prop :=
  Elementwise .vadd (mixed (fun f rm _ a b => fpAdd f rm a b) (fun _ _ a b => a + b)) ∧
  Elementwise .vsub (mixed (fun f rm _ a b => fpSub f rm a b) (fun f _ a b => a + (2 ^ fmtBits f - b))) ∧
  Elementwise .vmul (mixed (fun f rm _ a b => fpMul f rm a b) (fun _ _ a b => a * b)) ∧
  Elementwise .vfma (mixed (fun f rm o a b => fpFma f rm a b o) (fun _ o a b => a * b + o)) ∧
  Elementwise .vmin (mixed (fun f _ _ a b => fpMin f a b) (fun f _ a b => if intVal f a ≤ intVal f b then a else b)) ∧
  Elementwise .vmax (mixed (fun f _ _ a b => fpMax f a b) (fun f _ a b => if intVal f a ≤ intVal f b then b else a)) ∧
  Elementwise .vand (fun f _ _ a b => ((a &&& b) % 2 ^ fmtBits f, 0)) ∧ Elementwise .vor (fun f _ _ a b => ((a ||| b) % 2 ^ fmtBits f, 0)) ∧
  Elementwise .vxor (fun f _ _ a b => ((a ^^^ b) % 2 ^ fmtBits f, 0)) ∧
  Elementwise .vshl (fun f _ _ a b => (a * 2 ^ (b % fmtBits f) % 2 ^ fmtBits f, 0)) ∧
  Elementwise .vshr (fun f _ _ a b => (intBits (fmtBits f) (intVal f a / 2 ^ (b % fmtBits f)) % 2 ^ fmtBits f, 0)) ∧
  Elementwise (fun vd va _ m f => .vabs vd va m f)
    (fun f _ _ a _ => ((if isFloat f then fpAbsBits f a else if intVal f a < 0 then 2 ^ fmtBits f - a else a) % 2 ^ fmtBits f, 0)) ∧
  Elementwise (fun vd va _ m f => .vneg vd va m f)
    (fun f _ _ a _ => ((if isFloat f then fpFlip f a else 2 ^ fmtBits f - a) % 2 ^ fmtBits f, 0)) ∧
  (∀ (s : State) (vd va vb : BitVec 5) (m : BitVec 3) (f : Fmt), s.grant ≠ 0 →
    Does (.vsel vd va vb m f) s (modCur s (fun x => putV x vd f
      (blend (getMask (curElem s) m) 0 (s.lanes f vb) ((s.lanes f va).map (fun v => (v, 0)))).1)))

/-- R180: VCMPEQ and VCMPLT write a mask: the comparison at active elements, 0 elsewhere. -/
def Sys2Proof.Machine.VectorCompares : Prop :=
  ∀ (s : State) (md m : BitVec 3) (va vb : BitVec 5) (f : Fmt), s.grant ≠ 0 →
    let put (op : Nat → Nat → Bool × Nat) : State :=
      let rs := List.zipWith op (s.lanes f va) (s.lanes f vb)
      let t := blend (getMask (curElem s) m) 0 (rs.map (fun _ => 0)) (rs.map (fun r => (if r.1 then 1 else 0, r.2)))
      (modCur s (fun y => putMask y md (BitVec.ofNat 2048 (packElems 1 t.1)))).raised t.2
    Does (.vcmpeq md va vb m f) s (put (fun a b => if isFloat f then fpEq f a b else (decide (a = b), 0))) ∧
    Does (.vcmplt md va vb m f) s (put (fun a b => if isFloat f then fpLt f a b else (decide (intVal f a < intVal f b), 0)))

/-- R179 to R181: arithmetic and comparisons. -/
def Obligations.VectorArithmetic : Prop := VectorElementwise ∧ VectorCompares

/-- R182 to R184: VEXP2, VLOG2, VRCP, VRSQRT and VSQRT on every active element; VCVT converts; VQNT, VDQNT and VTERN convert by the
parameter word in w[b], and trap ILLOP for one that names no format they accept. Results are exact and rounded once (log 11). -/
def Obligations.VectorConversions : Prop :=
  ∀ (s : State) (vd va : BitVec 5) (b : Reg) (m : BitVec 3) (f src dst : Fmt) (sat : Bool), s.grant ≠ 0 → b.toNat ≤ 27 → s.canRead b = true →
    let rm := (curElem s).csr.fprm.toNat
    let one (op : Fmt → Nat → Nat → Nat × Nat) : State := s.putLanes vd m f ((s.lanes f va).map (op f rm))
    let p := s.src1 b
    let param (i : Instr) (ok : Fmt → Bool) (op : Fmt → Nat → Nat × Nat) : Prop :=
      (∀ g, paramFmt p ok = some g → Does i s (s.putConverted vd va m g f (op g))) ∧ (paramFmt p ok = none → Traps i s cILLOP (instrWord i))
    Does (.vexp2 vd va m f) s (one fpExp2) ∧ Does (.vlog2 vd va m f) s (one fpLog2) ∧ Does (.vrcp vd va m f) s (one fpRcp) ∧
    Does (.vrsqrt vd va m f) s (one fpRsqrt) ∧ Does (.vsqrt vd va m f) s (one fpSqrt) ∧
    Does (.vcvt vd va src sat m dst) s (s.putConverted vd va m src dst (fpConvert src dst rm sat)) ∧
    param (.vqnt vd va b m f) fmtWide (fun g x => fpScale g f rm true x (fld p 31 0)) ∧
    param (.vdqnt vd va b m f) fmtQuant (fun g x => fpScale g f rm false x (fld p 31 0)) ∧
    param (.vtern vd va b m f) fmtWide (fun g x => ternOf g (fld p 31 0) x)

/-- R104 to R106, R185 to R187: VREDSUM, VREDMAX, VREDMIN and VREDAMAX reduce the active elements by the tree of R104 into w[d]; VSCAN
gives the running sums; VPERM and VSLIDE move elements. -/
def Sys2Proof.Machine.VectorReduces : Prop :=
  ∀ (s : State) (vd va vb : BitVec 5) (d b : Reg) (m : BitVec 3) (f : Fmt), s.grant ≠ 0 → d.toNat ≤ 27 → b.toNat ≤ 27 → s.canRead b = true →
    let rm := (curElem s).csr.fprm.toNat
    let mask := getMask (curElem s) m
    let l := s.lanes f va
    let reduces (i : Instr) (op : Nat → Nat → Nat × Nat) (one : Nat → Nat × Nat) (empty : Nat) : Prop :=
      s.canWrite d = true →
      let r := treeReduce op mask l
      (r.1 = none → Does i s (s.putReg d (vResult f empty))) ∧
      (∀ v, r.1 = some v → Does i s (s.putFp d (vResult f (one v).1) (r.2 ||| (one v).2)))
    reduces (.vredsum d va m f) (fun a c => if isFloat f then fpAdd f rm a c else ((a + c) % 2 ^ fmtBits f, 0)) (fun v => (v, 0)) 0 ∧
    reduces (.vredmax d va m f) (fun a c => if isFloat f then fpMax f a c else (intMax f a c, 0)) (fun v => (v, 0))
      (if isFloat f then withSign f true (fpInfBits f) else intBits (fmtBits f) (intRange f).1) ∧
    reduces (.vredmin d va m f) (fun a c => if isFloat f then fpMin f a c else (intMin f a c, 0)) (fun v => (v, 0))
      (if isFloat f then fpInfBits f else intBits (fmtBits f) (intRange f).2) ∧
    reduces (.vredamax d va m f) (fpAmax f) (fpAmax1 f) 0 ∧
    Does (.vscan vd va m f) s ((modCur s (fun y => putV y vd f (scanFrom f rm mask 0 none l).1)).raised (scanFrom f rm mask 0 none l).2) ∧
    Does (.vperm vd va vb m f) s (s.putLanes vd m f ((s.lanes f vb).map (fun j => (l.getD j 0, 0)))) ∧
    Does (.vslide vd va b m f) s (s.putLanes vd m f ((List.range l.length).map (fun (i : Nat) =>
      (if (i : Int) + (s.src1 b).toInt < 0 then 0 else l.getD ((i : Int) + (s.src1 b).toInt).toNat 0, 0))))

/-- R104 to R106, R178, R185 to R187: reductions, scans and moves. -/
def Obligations.VectorReductions : Prop := VectorReduces ∧ VectorMoves

/-- R244, R245: ABOUND puts the bound and its verdicts into w[d], infinity with AXMODE bit 1 set, and counts a skip in AXWSUM; NV
of any of these operations, the addition to AXWSUM among them, goes into FPFLAGS; AUDCHK
compares two values and reports where the first exceeds the second or one is a NaN. A bound of no active element is +0, the model's
reading (log 36). -/
def Obligations.SkipBounds : Prop :=
  ∀ (s : State) (d a b : Reg) (va vb : BitVec 5) (m : BitVec 3), s.grant ≠ 0 → d.toNat ≤ 27 → a.toNat ≤ 27 → b.toNat ≤ 27 →
    s.canRead a = true → s.canRead b = true → s.canRead d = true →
    let x := curElem s
    (vb = 31 → Traps (.abound d va vb m) s cILLOP (instrWord (.abound d va vb m))) ∧
    (vb ≠ 31 → x.csr.axmode.getLsbD 1 = true → s.canWrite d = true → Does (.abound d va vb m) s (s.putReg d 0x7F800000)) ∧
    (vb ≠ 31 → x.csr.axmode.getLsbD 1 = false →
      let v := s.src1 d
      let mx := fld v 31 0
      let bd := boundOf (getMask x m) (s.lanes .fp32 va) (s.lanes .fp32 vb) (s.lanes .fp32 (vb + 1))
      let marked := x.csr.axmode.getLsbD 0 && boundHash x.csr.lid (fld v 63 32) / 2 ^ (64 - x.csr.audrate.toNat) == 0
      let lim := fpSub .fp32 0 mx x.csr.axtau.toNat
      let lt := fpLt .fp32 bd.1 lim.1
      let skip := !marked && lt.1
      let sum := boundSum x.csr.axwsum.toNat bd.1 mx
      let t := (modCur s (fun y =>
        if skip then { y with csr := { y.csr with axwsum := dw sum.1 } } else y)).raised
          ((bd.2 ||| lim.2 ||| lt.2 ||| (if skip then sum.2 else 0)) &&& flNV)
      t.canWrite d = true → Does (.abound d va vb m) s (t.putReg d (dw (bd.1 + bnat skip * 2 ^ 32 + bnat marked * 2 ^ 33)))) ∧
    (let p := (s.src1 a).toNat % 2 ^ 32
     let q := (s.src1 b).toNat % 2 ^ 32
     let r := fpLt .fp32 q p
     let t := s.raised r.2
     let u := t.queued (.audit ((s.src1 a).setWidth 32) ((s.src1 b).setWidth 32) (originOf t t.cur))
     ((r.1 || anyNan .fp32 p q) = true → t.canQueue = true → u.canWrite d = true → Does (.audchk d a b) s (u.putReg d 1)) ∧
     ((r.1 || anyNan .fp32 p q) = false → t.canWrite d = true → Does (.audchk d a b) s (t.putReg d 0)))

/-! ## Engine commands (R192 to R218, R238 to R242, R261 to R271) -/

/-- It is a command's turn: its job is that of the turn, runs, and is not done. -/
def Sys2Proof.Machine.State.working (s : State) (i : Instr) (j : Job) : Prop :=
  curJob s = some j ∧ j.fin = none ∧ j.state = 4 ∧ encodeCmd i = some j.cmd

/-- The step leaves the job as k in the state t. -/
def Sys2Proof.Machine.Leaves (i : Instr) (s t : State) (k : Job) : Prop := exec i s = .next (setJob t t.curQ k)

/-- The commands that check at their issue, with their checks. -/
def Sys2Proof.Machine.issueChecks (h : CmdHdr) (f1 f2 f3 : Bool) (b8a b8b : BitVec 8) (cn1 : BitVec 6) (row0 nrow1 : BitVec 13)
    (k16a k16b : BitVec 16) (b2 rm : BitVec 2) (b5 : BitVec 5) (f22 : BitVec 22) (w32 : BitVec 32) (nb1 : BitVec 10) (fmt : Fmt)
    (slot : BitVec 8) (x y : Dword) : List (Instr × (Job → EM Job)) :=
  [(.mfill h b8a b8b x, mfillCheck b8a.toNat (b8b.toNat + 1) x.toNat),
   (.mstream h f1 f2 cn1 fmt b8a row0 nrow1 x, mstreamCheck f1 fmt b8a.toNat row0.toNat (nrow1.toNat + 1) x.toNat),
   (.mzero h cn1 row0 nrow1, mzeroCheck row0.toNat (nrow1.toNat + 1)),
   (.mstore h b2 cn1 fmt rm f1 w32 row0 nrow1 x, mstoreCheck b2 (cn1.toNat + 1) fmt f1 row0.toNat (nrow1.toNat + 1) x.toNat),
   (.mloadacc h cn1 fmt row0 nrow1 x, mloadCheck (cn1.toNat + 1) fmt row0.toNat (nrow1.toNat + 1) x.toNat),
   (.cpy h f1 f2 x y, cpyCheck f1 x.toNat y.toNat),
   (.cpym h b8a b8b b2 f1 f2 f3 slot x f22, cpymCheck b2.toNat b8a.toNat b8b.toNat f1 slot.toNat x.toNat f22.toNat),
   (.cpyg h f1 f2 x y, idxCheck false f1 x.toNat y.toNat), (.cpys h f1 f2 x y, idxCheck true f1 x.toNat y.toNat),
   (.cpypg h k16a b2 x y, cpypgCheck (k16a.toNat + 1) x.toNat y.toNat), (.cpyfill h x y, cpyfillCheck x.toNat y.toNat),
   (.cpymsg h f1 x y, cpymsgCheck x.toNat y.toNat), (.kvgather h f1 f2 b2 x y, kgCheck b2 x.toNat y.toNat),
   (.bfill h k16a k16b f1 x, bfCheck k16b.toNat x.toNat), (.rcsnap h x w32, rcIssue x.toNat),
   (.rcxchg h x b5 b8a, rcxchgIssue x.toNat b5), (.rcpeel h x, rcIssue x.toNat), (.rcfetch h x, rcIssue x.toNat),
   (.rcround h x b8a, rcIssue x.toNat), (.gallred h b8a b8b k16a w32 nb1 x, bulkIssue),
   (.gallgath h b8a b8b k16a w32 nb1 x, bulkIssue), (.gbcast h b8a b8b k16a cn1 w32 nb1 x, bulkIssue)]

/-- R192, R369: a command checks at its issue; a failed check suspends the job, STATE 5, with the code, and one message on channel 4 of
the pushing element names the job, the code, the detail and the address space; POISON is a machine check of code 8 too; a passed one leaves
the job issued. Every command but MWLOAD, MSAVE, MRESTORE and BFCANCEL, which are one step; BFILL's is that in its own queue. -/
def Obligations.CommandIssue : Prop :=
  (∀ (h : CmdHdr) (f1 f2 f3 : Bool) (b8a b8b : BitVec 8) (cn1 : BitVec 6) (row0 nrow1 : BitVec 13) (k16a k16b : BitVec 16) (b2 rm : BitVec 2)
      (b5 : BitVec 5) (f22 : BitVec 22) (w32 : BitVec 32) (nb1 : BitVec 10) (fmt : Fmt) (slot : BitVec 8) (x y : Dword),
    ∀ p ∈ issueChecks h f1 f2 f3 b8a b8b cn1 row0 nrow1 k16a k16b b2 rm b5 f22 w32 nb1 fmt slot x y,
    ∀ (s : State) (j : Job), s.working p.1 j → j.issued = false → isBfWork s.curQ j = false →
      (∀ (k : Job) (t : State), p.2 j s = .ok (k, t) → Leaves p.1 s t { k with issued := true }) ∧
      (∀ e : JobStop, p.2 j s = .error e → exec p.1 s = .next (jobStopped s j e))) ∧
  (∀ (s : State) (j : Job) (e : JobStop), curJob s = some j → e.kept = none → j.cancel = false →
    ∃ k : Job, curJob (jobStopped s j e) = some k ∧ k.state = 5 ∧ k.code = e.code) ∧
  (∀ (s : State) (q : QueueId) (j : Job) (code detail asid : Nat), jobOf s q j.jid = some j → elUsable s j.o.el = true →
    let t := faultJob s q j code detail asid
    jobOf t q j.jid = some { j with state := 5, code := code } ∧
    (∃ p ∈ t.net, p.dst = j.o.el ∧ ∃ v : Ev, p.body = .ev j.o.el v ∧ v.chan = 4 ∧ v.ts = j.o.ts ∧ v.lid = j.o.lid ∧
      v.payload = [j.jid.setWidth 64, statusWord j.aux j.flags code 5, dw detail, dw (elAddr s j.o.el + asid % 65536 * 2 ^ 32)]) ∧
    (code = 25 → ∃ r : McRec, (die t (queueDie q)).mclog.getLast? = some r ∧ r.code = 8 ∧ r.addr = dw detail))

/-- The job after a block of m of n rows. -/
def Sys2Proof.Machine.rowsDone (j : Job) (n m : Nat) : Job :=
  { j with prog := j.prog + m, aux := j.prog + m, fin := if n ≤ j.prog + m then some (bnat (jTrunc j)) else none }

/-- The state with a step boundary due, after a burst of n bytes (R209, R334). -/
def Sys2Proof.Machine.State.bounded (s : State) (n : Nat) : State := modQueue s s.curQ (fun x => { x with edge := some n })

/-- The first poisoned word of operand memory among n bytes (R315). -/
def Sys2Proof.Machine.badSlot (x : Cluster) (at' n : Nat) : Option Nat :=
  x.opmBad.find? (fun w => decide (at' / 8 ≤ w ∧ w ≤ (at' + n - 1) / 8))

/-- A column of a row lies in a poisoned word that a write of the columns below cn covers only in part, so that the word keeps its contents
(R315). -/
def Sys2Proof.Machine.accKept (x : Cluster) (row col cn : Nat) : Prop := accWordNo row col ∈ x.accBad ∧ cn < 2 * (col / 2) + 2

/-- R195, R200 to R204, R315, R334, R371: a step of an issued MZERO writes zero into the columns of the next 64 rows; of an issued MSTREAM,
whose rows come from slots or from a shape, continues or starts the chain of R102 there, or ends CHECKFAIL with its machine check where the
checksum fails twice; MSTORE converts and writes rows of the accumulator, and MLOADACC loads them. Every other accumulator keeps its value, and
a poisoned word that is read faults POISON. How a checksum comes to fail (softErr), and the column sums, are the model's choices (log 38), and
so is what a step that faults has done: an MSTORE that leaves its shape has written its earlier rows (log 37). -/
def Obligations.AccumulatorCommands : Prop :=
  ∀ (s : State) (j : Job) (h : CmdHdr) (f1 sat : Bool) (slot : BitVec 8) (cn1 : BitVec 6) (row0 nrow1 : BitVec 13) (b2 rm : BitVec 2)
    (w32 : BitVec 32) (fmt : Fmt) (x : Dword), j.issued = true →
    let c := s.curQ.idx
    let n := nrow1.toNat + 1
    let m := Nat.min 64 (n - j.prog)
    let here (r i : Nat) : Prop := r + j.prog ≤ i ∧ i < r + j.prog + m
    let stop (i : Instr) (t : State) (code detail : Nat) : Prop := j.cancel = false → exec i s = .next (faultJob t s.curQ j code detail j.o.asid)
    (s.working (.mzero h cn1 row0 nrow1) j → ∃ t : State, exec (.mzero h cn1 row0 nrow1) s = .next t ∧ curJob t = some (rowsDone j n m) ∧
      (∀ row col, here row0.toNat row → col ≤ cn1.toNat → ¬ accKept (clus s c) row col (cn1.toNat + 1) → accWord (clus t c) row col = 0) ∧
      (∀ row col, col < 64 → (¬ here row0.toNat row ∨ cn1.toNat < col ∨ accKept (clus s c) row col (cn1.toNat + 1)) →
        accWord (clus t c) row col = accWord (clus s c) row col)) ∧
    (∀ (shp tr : Bool) (tl : Tile) (xs : List (List Nat)) (t0 : State),
      let i : Instr := .mstream h shp f1 cn1 fmt slot row0 nrow1 x
      let y := clus t0 c
      let w := rowWidth (accOf tl.fmt)
      let base := row0.toNat + j.prog
      s.working i j → streamTile (clus s c) j = some tl → blockRows shp tl fmt slot.toNat j m s = .ok ((xs, tr), t0) →
      (∀ b, f1 = false → badRow y (base * w) (m * w) 64 = some b → j.cancel = false →
        exec i s = .next (faultJob (keepMarks s t0.marks) s.curQ j 25 b j.o.asid)) ∧
      ((f1 = true ∨ badRow y (base * w) (m * w) 64 = none) → badRow y (base * w) (m * w) (cn1.toNat + 1) = none →
        ∃ (t : State) (k : Job), exec i s = .next t ∧ curJob t = some k ∧
          (blockFails tl f1 y base xs = false → k.prog = j.prog + m ∧ k.aux = j.prog + m ∧
            k.fin = (if n ≤ j.prog + m then some (bnat (jTrunc (jNote j tr []))) else none) ∧
            ∀ row col, here row0.toNat row → col ≤ cn1.toNat → accGet (clus t c) (accOf tl.fmt) row col =
              (chainFrom tl col (xs.getD (row - base) []) 0 (if f1 then 0 else accGet y (accOf tl.fmt) row col)).1
                % 2 ^ fmtBits (accOf tl.fmt)) ∧
          (blockFails tl f1 y base xs = true → k.fin = some 16 ∧
            ∃ r : McRec, (die t (c / 64)).mclog.getLast? = some r ∧ r.code = 7 ∧ r.addr = dw base) ∧
          (∀ row col, col < 64 → (¬ here row0.toNat row ∨ cn1.toNat < col) →
            accGet (clus t c) (accOf tl.fmt) row col = accGet y (accOf tl.fmt) row col))) ∧
    (∀ tl : Tile,
      let rb := tileDepth tl.fmt * fmtBytes fmt
      let a := slot.toNat * 8192 + j.prog * rb
      badSlot (clus s c) a (m * rb) = none → blockRows false tl fmt slot.toNat j m s =
        .ok (((pieces rb (opmBytes (clus s c) a (m * rb))).map (fun r => (pieces (fmtBytes fmt) r).map leNat), false), s)) ∧
    (let i : Instr := .mstore h b2 cn1 fmt rm sat w32 row0 nrow1 x
     let w := rowWidth fmt
     s.working i j →
      (∀ b, badRow (clus s c) ((row0.toNat + j.prog) * w) (m * w) (cn1.toNat + 1) = some b → stop i s 25 b) ∧
      (∀ (r : StoreRows) (t u : State), badRow (clus s c) ((row0.toNat + j.prog) * w) (m * w) (cn1.toNat + 1) = none →
        mstoreRows b2 (cn1.toNat + 1) fmt rm.toNat sat w32 (clus s c) j row0.toNat ((List.range m).map (· + j.prog)) s = .ok (r, t) →
        emWrite j r.ws t = .ok ((), u) →
        (r.oob = none → Leaves i s (u.bounded 0) (rowsDone { jNote j r.drop [] with flags := j.flags ||| jobFlags r.flags false } n m)) ∧
        (∀ e, r.oob = some e → stop i u 9 e))) ∧
    (∀ (ps : List (Nat × Nat × Nat)) (tr : Bool) (t u : State), s.working (.mloadacc h cn1 fmt row0 nrow1 x) j →
      mloadRead j (cn1.toNat + 1) row0.toNat ((List.range (m * (cn1.toNat + 1))).map (· + j.prog * (cn1.toNat + 1))) s = .ok ((ps, tr), t) →
      emAccAt j (fun r col => ps.any (fun p => p.1 == r / rowWidth fmt && p.2.1 == col))
        (fun z => ps.foldl (fun y p => accPut y fmt p.1 p.2.1 p.2.2) z) t = .ok ((), u) →
      Leaves (.mloadacc h cn1 fmt row0 nrow1 x) s (u.bounded 0) (rowsDone (jNote j tr []) n m))

/-- R194, R198, R199, R205 to R208, R315: MFILL writes the elements of a burst into its slots and counts the bytes; MWLOAD latches a tile from
slots that its launch owns, with its column sums; MSAVE writes an image of the launch's rows, tile and slots, and a pre-emptive one frees
them; MRESTORE reads one back, or faults BADIMAGE, and commands that come to wait for an MFILL by it start their age anew (R333). A poisoned
word that is read faults POISON. The mode of a replayed job is a free value
(log 18). MRESTORE's AUX, 256 bytes for a row and 8,192 for a slot, the detail of its NOFIT, and MFILL's bursts of 4 KiB are the model's
choices (log 38), and so are the command words that make a record a bad image and the launch that waits where 16 contexts are held (log 54). -/
def Obligations.TileCommands : Prop :=
  ∀ (s : State) (j : Job) (h : CmdHdr) (pre : Bool) (slot b8 : BitVec 8) (fmt : Fmt) (cap lid0 : BitVec 32) (hw : BitVec 14) (x : Dword),
    let c := s.curQ.idx
    let y := clus s c
    let stop (i : Instr) (t : State) (code detail : Nat) : Prop := j.cancel = false → exec i s = .next (faultJob t s.curQ j code detail j.o.asid)
    (∀ (ws : List (Nat × List Byte)) (tr : Bool) (t : State), s.working (.mfill h slot b8 x) j → j.issued = true →
      let is := (List.range (Nat.min (burstLen (shSize (jSrc j))) (jTotal j - j.prog))).map (· + j.prog)
      mfillRead j (jSrc j) (slot.toNat * 8192) is s = .ok ((ws, tr), t) →
      let k := { jNote j tr [] with prog := j.prog + is.length, aux := j.aux + ws.length * shSize (jSrc j) }
      Leaves (.mfill h slot b8 x) s (opmWriteFor t j.o t.curQ.idx ws) { k with fin := if jTotal j ≤ k.prog then some (bnat (jTrunc k)) else none }) ∧
    (s.working (.mwload h slot fmt) j → (∀ i, i < tileSlots fmt → slotOwned y j.o.lid (slot.toNat + i) = true) →
      (∀ b, badSlot y (slot.toNat * 8192) (tileSize fmt) = some b → stop (.mwload h slot fmt) s 25 (8 * b)) ∧
      (badSlot y (slot.toNat * 8192) (tileSize fmt) = none → ∃ t : State, exec (.mwload h slot fmt) s = .next t ∧
        let r := tileFrom j.o.lid.toNat fmt (opmBytes y (slot.toNat * 8192) (tileSize fmt))
        jobTile (clus t c) j = some r.1 ∧ r.1.sums = (List.range (tileDepth fmt)).map (rowSum fmt r.1.data) ∧
        (clus t c).acc = y.acc ∧ (clus t c).opm = y.opm ∧
        curJob t = some { j with issued := true, flags := j.flags ||| jobFlags r.2 false, fin := some 0 })) ∧
    (let i : Instr := .msave h pre cap hw lid0 x
     let lid := savedLid pre lid0 j
     let js := if pre then savedJobs s lid j else []
     let size := imageSize hw.toNat (slotsOf y lid).length js.length
     s.working i j → (∀ b ∈ rowBlocks 0 hw.toNat, hw.toNat = 0 ∨ blkOwner y b = 0 ∨ blkOwner y b = lid) → hw.toNat ≤ y.rows →
      (cap.toNat < size → stop i s 4 x.toNat) ∧
      (∀ b, size ≤ cap.toNat → badRow y 0 hw.toNat 64 = some b → stop i s 25 b) ∧
      (∀ t : State, size ≤ cap.toNat → badRow y 0 hw.toNat 64 = none → (∀ w ∈ y.opmBad, w / 1024 ∉ slotsOf y lid) →
        emWrite j [(x.toNat, imageHeader (tileOf y lid.toNat) hw.toNat (slotsOf y lid) js.length lid
            (match js with | k :: _ => if partStream k then some k.prog else none | [] => none)
            ++ rowsBytes y hw.toNat ++ tileBytes (tileOf y lid.toNat) ++ slotsBytes y (slotsOf y lid) ++ js.flatMap (recordBytes s))] s
          = .ok ((), t) →
        Leaves i s ((if pre then freeSaved t lid js else t).bounded 0) { j with issued := true, aux := size, fin := some 0 })) ∧
    (∀ (hd : List Dword) (t0 t1 t2 t3 t4 : State) (rows tile sl rs : List Byte),
      let i : Instr := .mrestore h x
      let np := fld (dwAt hd 2) 22 16
      let n := fld (dwAt hd 1) 13 0
      let slots := imageSlots hd
      let a := x.toNat + 256 + 256 * n
      s.working i j → emDwords j x.toNat 32 s = .ok (hd, t0) →
      ((imageOk hd = false ∨ (0 < np ∧ j.o.mode = 0)) → stop i (keepMarks s t0.marks) 12 x.toNat) ∧
      (imageOk hd = true → (np = 0 ∨ j.o.mode ≠ 0) → emRead j (a + 32768 + 8192 * slots.length) (64 * np) t0 = .ok (rs, t1) →
        (recordsOk rs = false → stop i (keepMarks s t1.marks) 12 x.toNat) ∧
        (recordsOk rs = true → restoreBlocked (clus t1 t1.curQ.idx) (restoreLid hd j) n slots = true → stop i (keepMarks s t1.marks) 4 x.toNat) ∧
        (recordsOk rs = true → restoreBlocked (clus t1 t1.curQ.idx) (restoreLid hd j) n slots = false →
          emRead j (x.toNat + 256) (256 * n) t1 = .ok (rows, t2) → emRead j a 32768 t2 = .ok (tile, t3) →
          emRead j (a + 32768) (8192 * slots.length) t3 = .ok (sl, t4) →
          let u := modClus t4 t4.curQ.idx (restoreClus (restoreLid hd j) hd n slots rows tile sl)
          Leaves i s ((lapseFills (modQueue u u.curQ (fun q => { q with jobs := recordJobs u hd rs ++ q.jobs })) u.curQ.idx).bounded 0)
            { j with issued := true, aux := 256 * n + 8192 * slots.length, fin := some 0 })))

/-- How a copying job k of n elements leaves the state v after a burst: it goes on; ends, TRUNC where data were dropped; or, where far pages
were missed, tells channel 2 and ends TIERMISS (R192, R313). -/
def Sys2Proof.Machine.CopyEnds (i : Instr) (s v : State) (k : Job) (n : Nat) : Prop :=
  ((jPages k = [] ∨ k.prog < n) → Leaves i s v { k with fin := if n ≤ k.prog then some (bnat (jTrunc k)) else none }) ∧
  (∀ w : State, n ≤ k.prog → jPages k ≠ [] → tierEvent k (jPages k) false v = .ok ((), w) → Leaves i s w { k with fin := some 13 })

/-- A burst of a copying command: every source element is read before any destination element is written (R209). -/
def Sys2Proof.Machine.Bursts (i : Instr) (s : State) (j : Job) (far : Bool) (pair : Nat → SrcEl × Int) (aux : Job → Nat) : Prop :=
  ∀ (t u : State) (b : Burst) (tb : Tbl (Byte × Nat)), s.working i j → j.issued = true →
    let m := Nat.min (burstLen (shSize (jDst j))) (jTotal j - j.prog)
    emGather j (jSrc j) (jDst j) far pair ((List.range m).map (· + j.prog)) s = .ok (b, t) → emPlace j b.ws [] t = .ok (tb, u) →
    let k0 := { jNote j b.trunc b.pages with prog := j.prog + m, aux := j.aux + b.ws.length }
    let k := { k0 with aux := aux k0 }
    CopyEnds i s ((applyWritesFor u j.o tb).bounded (b.ws.length * shSize (jDst j))) k (jTotal j)

/-- R209 to R218, R241, R242, R313, R336: a step of CPY, CPYG, CPYS, CPYFILL, CPYM and CPYMSG moves one burst, of CPYPG 4 KiB of a page, and
of KVGATHER one row, and then 4 KiB of the mask; a job that missed far pages names them in one message on channel 2 as it ends. That a source element which is skipped
leaves its destination unlooked at, and that a page in a large leaf faults before its tier is compared, are the model's choices (log 54). -/
def Obligations.CopyCommands : Prop :=
  ∀ (s : State) (j : Job) (h : CmdHdr) (f1 far dsig : Bool) (b8a b8b slot : BitVec 8) (k16 : BitVec 16) (b2 : BitVec 2) (off : BitVec 22)
    (x y : Dword), j.issued = true →
    let is (sz : Nat) : List Nat := (List.range (Nat.min (burstLen sz) (jTotal j - j.prog))).map (· + j.prog)
    Bursts (.cpy h f1 far x y) s j far
      (fun k => (if k < jHave j then .at' (shOff (jSrc j) k) else .zero, shOff (jDst j) k)) (fun k => k.aux) ∧
    Bursts (.cpyg h f1 far x y) s j far (cpygPair j) (idxRows false) ∧ Bursts (.cpys h f1 far x y) s j far (cpysPair j) (idxRows true) ∧
    Bursts (.cpyfill h x y) s j true (fun k => (.lit (leBytes (shSize (jDst j)) y.toNat), shOff (jDst j) k)) (fun k => k.aux) ∧
    (∀ (t : State) (es : List (Nat × List Byte)) (tr : Bool) (pages : List Nat), s.working (.cpym h b8a b8b b2 f1 dsig far slot x off) j →
      let sz := shSize (jSrc j)
      cpymRead j far (is sz) s = .ok ((es, tr, pages), t) →
      let cs := cpymDests s b2.toNat b8a.toNat b8b.toNat
      let k := { jNote j tr pages with prog := j.prog + (is sz).length, aux := cs.length }
      let u := cs.foldl (fun v c => cpymLand v j.o sz f1 (if f1 then slot.toNat else off.toNat) es c) t
      let v := if dsig then cs.foldl (cpymSignal j (es.length * sz) (decide (jTotal j ≤ k.prog))) u else u
      CopyEnds (.cpym h b8a b8b b2 f1 dsig far slot x off) s (v.bounded (es.length * sz)) k (jTotal j)) ∧
    (∀ (t u v : State) (es : List (Nat × List Byte)) (tr : Bool) (pages : List Nat), s.working (.cpymsg h far x y) j →
      let sz := shSize (jSrc j)
      cpymRead j far (is sz) s = .ok ((es, tr, pages), t) →
      emWrite j (es.map (fun e => ((jKept j 0 + e.1 * sz) % 2 ^ 64, e.2))) t = .ok ((), u) →
      let k := { jNote j tr pages with prog := j.prog + (is sz).length }
      (if jTotal k ≤ k.prog then cpymsgEnd k (u.bounded (es.length * sz)) else .ok ((), u.bounded (es.length * sz))) = .ok ((), v) →
        CopyEnds (.cpymsg h far x y) s v k (jTotal k)) ∧
    (∀ (l : Leaf) (t : State),
      let i : Instr := .cpypg h k16 b2 x y
      let va := x.toNat + 65536 * j.prog
      let there : Prop := fld l.pte 9 8 = b2.toNat
      s.working i j → pageLeaf j va s = .ok (l, t) →
      (j.phase = 0 → there → Leaves i s (t.bounded 0) (pageNext (k16.toNat + 1) false j)) ∧
      (j.phase = 0 → ¬ there → pageMoving t t.curQ j (pteFrame l.pte) = true → Leaves i s t j) ∧
      (∀ (k : Job) (u v : State), (j.phase = 0 → ¬ there ∧ pageMoving t t.curQ j (pteFrame l.pte) = false) →
        (if j.phase = 0 then pageTake j b2.toNat va l t else .ok (j, t)) = .ok (k, u) →
        pagePiece k va (k.buf.getD 3 0) (k.buf.getD 2 0) (fld l.pte 11 10) k.phase u = .ok ((), v) →
        (k.phase < 15 → Leaves i s (v.bounded 4096) { k with phase := k.phase + 1 }) ∧
        (∀ w : State, 15 ≤ k.phase → pageEnd k b2.toNat va (v.bounded 4096) = .ok ((), w) →
          Leaves i s w (pageNext (k16.toNat + 1) true k)))) ∧
    (let i : Instr := .kvgather h f1 far b2 x y
     let pos := kgPos j j.prog
     let zero : List Byte := List.replicate (rootD (kgRoot j) * rootS (kgRoot j)) 0
     let row (bit : Bool) (kr vr : List Byte) (t : State) : Prop := ∀ (q : Job) (w : State),
       kgWrite j b2 (b2 == 1) j.prog (if b2 = 1 then vr else kr) t = .ok (q, w) →
       Leaves i s w (if b2 = 2 then { q with phase := 1, buf := bnat bit :: vr.map (·.toNat) } else kgNext q bit none)
     s.working i j →
      (∀ (q : Job) (w : State), j.phase = 1 → kgWrite j b2 true j.prog ((j.buf.drop 1).map (BitVec.ofNat 8)) s = .ok (q, w) →
        Leaves i s w (kgNext q (j.buf.headD 0 == 1) none)) ∧
      (j.phase ≠ 1 → j.prog < kgN j →
        (∀ t : State, kgEntry j pos s = .ok (none, t) → row false zero zero t) ∧
        (∀ (t : State) (e : Dword), kgEntry j pos s = .ok (some e, t) →
          (entTier e = 1 → far = false → Leaves i s (t.bounded 0) (kgNext j false (some (entPa e / 65536 * 65536)))) ∧
          (∀ (u v : State) (kr vr : List Byte) (valid pend : Bool), (entTier e = 1 → far = true) →
            kgBits j (entPa e) pos t = .ok ((valid, pend), u) →
            (valid = true → kgRows b2 j (entPa e) pos u = .ok ((kr, vr), v) → row true kr vr v) ∧
            (valid = false → pend = true → f1 = true → Leaves i s (u.bounded 0) { j with state := 3 }) ∧
            (valid = false → (pend = false ∨ f1 = false) → row false zero zero u)))) ∧
      (j.phase ≠ 1 → kgN j ≤ j.prog →
        let k := { j with phase := Nat.max 2 j.phase }
        let len := (kgN j + 63) / 64 * 8
        let at' := 4096 * (k.phase - 2)
        let l := ((leBytes len (kgMask j)).drop at').take 4096
        ∀ u : State, emWrite k [((kgRec j 3).toNat + at', l)] s = .ok ((), u) →
          (4096 * (k.phase - 1) < len → Leaves i s (u.bounded l.length) { k with phase := k.phase + 1 }) ∧
          (len ≤ 4096 * (k.phase - 1) → kgPages j = [] → Leaves i s (u.bounded l.length) { k with fin := some (j.data.getD 14 0) }) ∧
          (∀ v : State, len ≤ 4096 * (k.phase - 1) → kgPages j ≠ [] → tierEvent k (kgPages j) true (u.bounded l.length) = .ok ((), v) →
            Leaves i s v { k with fin := some 13 }))) ∧
    (∀ (pages : List Nat) (phys : Bool), elUsable s j.o.el = true →
      ∃ v : State, tierEvent j pages phys s = .ok ((), v) ∧ ∃ p ∈ v.net, p.dst = j.o.el ∧ ∃ e : Ev, p.body = .ev j.o.el e ∧ e.chan = 2 ∧
        e.payload = [dw (j.jid.toNat + Nat.min pages.length 65535 * 2 ^ 32 + bnat (decide (30 < pages.length)) * 2 ^ 48 + bnat phys * 2 ^ 49),
          dw (j.o.asid % 65536)] ++ (pages.take 30).map dw)

/-- R193, R239, R240, R268 to R271, R337, R355: a BFILL begins a layer by putting its matrix work into CL's matrix queue, unissued, unless one
stands there already, and ends it by publishing what the accumulator rows then hold; a turn of that work is a step of it, and the last hands the layer back;
a poisoned accumulator row that either reads faults POISON;
BFCANCEL cancels an unfinished BFILL, with the layers it had not published in AUX, or ends NOJOB; RCSNAP takes its snapshot at a round
edge, but not while a fold of its record is served; RCXCHG waits, ends SEEDMISS, or forms the difference; RCPEEL peels; RCFETCH ends
NOPEER without its peer, counts phantoms, and then takes an item a step; RCROUND exchanges, peels, and ends with the full transfer. What a
peer answers and what a BFILL's matrix work leaves in its slots are free values (logs 1 and 19). That a layer's matrix work is a command of its
own under the BFILL's identifier is the model's choice (log 40), and so are RCROUND's test of each record, its least size of 6, and what counts
as a phantom (log 42), and that the addresses of a peer record are physical, what a full transfer keeps of a longer difference, and what an
installed item deletes and copies (log 54). -/
def Obligations.BackfillAndReconcile : Prop :=
  ∀ (s : State) (j : Job) (h : CmdHdr) (perl : Bool) (g l16 : BitVec 16) (b5 : BitVec 5) (w8 : BitVec 8) (w32 : BitVec 32) (x : Dword),
    (let i : Instr := .bfill h g l16 perl x
     let l := g.toNat + 1 + j.prog
     let n := bfCols j
     let dm := bfDm j
     s.working i j →
      (s.curQ.eng ≠ 0 → j.issued = true →
        (j.phase = 0 → bwStands s (bfClus s j) = true → Leaves i s s j) ∧
        (∀ (xb gb kb vb : List Byte) (e : List Dword) (t1 t2 t3 t4 t5 : State), j.phase = 0 → bwStands s (bfClus s j) = false →
          emRead j (dwAt (bfRcd j) 2).toNat (4 * dm) s = .ok (xb, t1) → emDwords j ((dwAt (bfRcd j) 3).toNat + 64 * l) 4 t1 = .ok (e, t2) →
          emRead j (dwAt e 0).toNat (4 * dm) t2 = .ok (gb, t3) → emRead j (dwAt e 1).toNat (2 * dm * n) t3 = .ok (kb, t4) →
          emRead j (dwAt e 2).toNat (2 * dm * n) t4 = .ok (vb, t5) →
          let y := normRow (fp32s xb) (fp32s gb) (fld (dwAt e 3) 31 0)
          let w : Job := { newJob j.jid j.cmd j.now j.o with
            state := 4, aux := j.effp,
            data := [dm, n, bfRow j, bfSlot j] ++ y.1 ++ (pieces 2 kb).map leNat ++ (pieces 2 vb).map leNat }
          Leaves i s (modQueue t5 { eng := 0, idx := bfClus t5 j } (fun q => { q with jobs := q.jobs ++ [w] }))
            { j with phase := 1, flags := j.flags ||| jobFlags y.2 false }) ∧
        (j.phase = 1 → Leaves i s s j) ∧
        (∀ (f : Nat) (t : State), 2 ≤ j.phase →
          let z := clus s (bfClus s j)
          bwBad z (bfRow j) n = none → bwBad z (bfRow j + bfTiles j) n = none →
          bfGroups j l (bwOut z (bfRow j) n) (bwOut z (bfRow j + bfTiles j) n) (List.range (rootG (bfRoot j))) s = .ok (f, t) →
          let k := { j with prog := j.prog + 1, aux := j.aux + 1, phase := 0, flags := j.flags ||| jobFlags f false }
          let t1 := if perl then jobSignal t t.curQ k else t
          let t2 := if l16.toNat ≤ l then bfCleanup t1 k else t1
          (j.cancel = false ∨ l16.toNat ≤ l → Leaves i s t2 { k with fin := if l16.toNat ≤ l then some 0 else none }) ∧
          (j.cancel = true → l < l16.toNat → Leaves i s (cancelJob t2 t2.curQ k) k)) ∧
        (∀ row : Nat, 2 ≤ j.phase → j.cancel = false →
          let z := clus s (bfClus s j)
          (bwBad z (bfRow j) n = some row ∨ bwBad z (bfRow j) n = none ∧ bwBad z (bfRow j + bfTiles j) n = some row) →
          exec i s = .next (faultJob s s.curQ j 25 row j.o.asid))) ∧
      (∀ t : State, s.curQ.eng = 0 →
        let z := clus s s.curQ.idx
        let r := bwStep j z
        let k := { j with issued := true, prog := j.prog + 1, flags := r.2 }
        let first : Prop := j.prog % Nat.max 1 (bwDeep j) = 0
        (∀ row, ¬ first → badRow z (bwRow j + bwNo j) 1 (bwWide j) = some row →
          Leaves i s (bwLost s.curQ.idx j row (s.bounded 0)) { j with fin := some 0 }) ∧
        ((first ∨ badRow z (bwRow j + bwNo j) 1 (bwWide j) = none) → emAcc j (bwRow j + bwNo j) 1 (bwWide j) (fun _ => r.1) s = .ok ((), t) →
        (k.prog < bwSteps j → Leaves i s (t.bounded 0) k) ∧
        (bwSteps j ≤ k.prog → Leaves i s (bwDone k (t.bounded 0)) { k with fin := some 0 })))) ∧
    (∀ (c row : Nat) (k : Job), jobOf s { eng := 2, idx := c / 64 } j.jid = some k →
      jobOf (bwLost c j row s) { eng := 2, idx := c / 64 } j.jid = some { k with phase := 0, state := 5, code := 25 }) ∧
    (s.working (.bfcancel h x) j →
      (bfTarget s x = none → Leaves (.bfcancel h x) s s { j with issued := true, fin := some 18 }) ∧
      (∀ k : Job, bfTarget s x = some k → Leaves (.bfcancel h x) s (cancelJob s s.curQ k)
        { j with issued := true, aux := bfLayers k.cmd - k.prog, fin := some 0 })) ∧
    (let i : Instr := .rcsnap h x w32
     (s.working i j → j.issued = true → Leaves i s s j) ∧
     (∀ (lb : List Byte) (t1 t2 t3 t4 : State), emRead j (rcD j 0).toNat (16 * (3 * 2 ^ rcBmax j)) s = .ok (lb, t1) →
       emWrite j [((rcD j 1).toNat, lb)] t1 = .ok ((), t2) →
       emWrite j [(x.toNat + 24, leBytes 8 (rcD3 (rcD j 3) true 0 (rcDie t2).rcb).toNat)] t2 = .ok ((), t3) →
       emWrite j [(x.toNat + 48, leBytes 8 w32.toNat)] t3 = .ok ((), t4) →
       ∃ k : Job, rcSnapEdge x.toNat w32 j s = .ok (k, t4) ∧ k.jid = j.jid ∧ k.fin = some 0) ∧
     (∀ (d : Nat) (k : Job) (v : State), d < 2 →
       let q : QueueId := { eng := 3, idx := d }
       let snaps (e : Nat) : List Job := (queue s { eng := 3, idx := e }).jobs.filter (fun a => cmdOpc a.cmd == 0x60 && a.issued && a.fin.isNone && a.state == 4)
       let w : State := { s with curQ := q, curJ := j.jid, marks := [] }
       snaps d = [j] → snaps (1 - d) = [] →
         (snapHeld w j = true → snapJobs s = s) ∧
         (snapHeld w j = false → rcSnapEdge (cmdD j.cmd 2).toNat (BitVec.ofNat 32 (fld (cmdD j.cmd 3) 31 0)) j w = .ok (k, v) →
           snapJobs s = setJob v q k))) ∧
    (∀ (t : State) (k : Job) (n : Nat), s.working (.rcxchg h x b5 w8) j → j.issued = true →
      let r := rcExchange x.toNat (xchgB s b5 j) j s
      (r = .ok (.wait k, t) → Leaves (.rcxchg h x b5 w8) s t k) ∧ (r = .ok (.seeds, t) → Leaves (.rcxchg h x b5 w8) s t { j with fin := some 21 }) ∧
      (r = .ok (.ok k n, t) → Leaves (.rcxchg h x b5 w8) s t { k with aux := n, fin := some 0 })) ∧
    (∀ (t : State) (k : Job) (ok : Bool) (n : Nat), s.working (.rcpeel h x) j → j.issued = true → rcPeelAct x.toNat j s = .ok ((k, ok, n), t) →
      Leaves (.rcpeel h x) s t { k with aux := n, fin := some (if ok then 0 else 8) }) ∧
    (∀ (t u v : State) (pr : List Dword) (a : List Item) (n : Nat), s.working (.rcfetch h x) j → j.issued = true →
      (peerRec j s = .ok (none, t) → Leaves (.rcfetch h x) s t { j with fin := some 20 }) ∧
      (peerRec j s = .ok (some pr, t) → emItems j (rcD j 10).toNat (fld (rcD j 13) 31 0) t = .ok (a, u) → rcPhase j = 0 →
        countPhantoms j a u = .ok (n, v) → Leaves (.rcfetch h x) s v (fetchEnd (fld (rcD j 13) 63 32) (rcSet 19 n (rcSet 18 1 j)))) ∧
      (∀ (i : Item) (r : List Item) (w : State) (k : Job), peerRec j s = .ok (some pr, t) →
        emItems j (rcD j 10).toNat (fld (rcD j 13) 31 0) t = .ok (a, u) → rcPhase j ≠ 0 →
        emItems j ((rcD j 11).toNat + 16 * j.prog) 1 u = .ok (i :: r, v) → fetchItem pr a i.1 i.2 j v = .ok (k, w) → k.fin = none →
          Leaves (.rcfetch h x) s w (fetchEnd (fld (rcD j 13) 63 32) k))) ∧
    (∀ (t : State) (k : Job) (n : Nat), s.working (.rcround h x w8) j → j.issued = true →
      let ex := rcExchange x.toNat (Nat.max 6 (Nat.min (rcBcur j + 1) (rcBmax j))) j s
      (rcPhase j = 0 → rcPeeled s j x.toNat = true →
        Leaves (.rcround h x w8) s s { j with aux := fld (rcD j 13) 31 0 + fld (rcD j 13) 63 32, fin := some 0 }) ∧
      (rcPhase j = 0 → rcPeeled s j x.toNat = false → (rcDie s).rcmaxr ≤ rcNrnd j → Leaves (.rcround h x w8) s s (rcSet 18 2 j)) ∧
      (rcPhase j = 0 → rcPeeled s j x.toNat = false → rcNrnd j < (rcDie s).rcmaxr →
        (ex = .ok (.wait k, t) → Leaves (.rcround h x w8) s t k) ∧ (ex = .ok (.seeds, t) → Leaves (.rcround h x w8) s t { j with fin := some 21 }) ∧
        (ex = .ok (.ok k n, t) → Leaves (.rcround h x w8) s t (rcSet 18 1 k))) ∧
      (rcPhase j = 1 → rcPeelAct x.toNat j s = .ok ((k, true, n), t) → Leaves (.rcround h x w8) s t { k with aux := n, fin := some 0 }) ∧
      (rcPhase j = 1 → rcPeelAct x.toNat j s = .ok ((k, false, n), t) →
        Leaves (.rcround h x w8) s t (rcSet 16 s.roundNo (rcSet 17 0 (rcSet 18 0 k)))) ∧
      (1 < rcPhase j → rcFull x.toNat j s = .ok (k, t) → Leaves (.rcround h x w8) s t k))

/-- R261, R262: a step of GALLRED, GALLGATH or GBCAST asks for one chunk more, of which at most 16 of a group are in flight, at every port of
the group that the last package edge saw up (R354), of which one that is down by now drops it (R348), but for leaf ROOT's node, which asks
for none of its own; CHUNK_DELIVERY writes the first chunk that is at hand, and
CHUNK_TIMEOUT the first whose timeout has passed. What a member writes for a chunk: of GBCAST ROOT's bytes, of GALLRED what the parent or, at
the root, this node combines, of GALLGATH every leaf's bytes at its own place. The form of requests is the model's (log 22). -/
def Obligations.BulkCommands : Prop :=
  ∀ (s : State) (j : Job) (h : CmdHdr) (group cctr : BitVec 8) (nch : BitVec 16) (root : BitVec 6) (seq : BitVec 32) (nb1 : BitVec 10)
    (dst : Dword),
    (∀ i ∈ ([.gallred h group cctr nch seq nb1 dst, .gallgath h group cctr nch seq nb1 dst, .gbcast h group cctr nch root seq nb1 dst] : List Instr),
      s.working i j → j.issued = true →
      (nextRequest s j = none → Leaves i s s j) ∧
      (∀ c, nextRequest s j = some c → (∀ a, annOf s (blkG j) (blkQ j) c = some a → ownCounts s j = false ∨ a.size = blkChb j) →
        let ports := if blkBcast j && blkRoot j == gLeaf (grp s (blkG j)) then [] else (treePorts (grp s (blkG j))).filter (portSeen s)
        let b : FabBody := .chunkReq (BitVec.ofNat 8 (blkG j)) (BitVec.ofNat 32 (blkQ j)) (BitVec.ofNat 2 (blkKind j))
          (BitVec.ofNat 6 (blkLeaf j)) (BitVec.ofNat 16 c)
        ∃ t : State, exec i s = .next t ∧ curJob t = some { j with data := j.data.set (c + 1) (2 + s.roundNo) } ∧ t.mem = s.mem ∧
          t.out = s.out ++ (ports.filter (portUp s)).map (fun p => OutMsg.packet p { dev := 0, body := b }))) ∧
    (∀ (q : QueueId) (c : Nat) (k : Job) (t : State) (timed : Bool), q.eng = 4 → jobOf s q j.jid = some j → j.issued = true → j.fin = none →
      j.state = 4 → flyingChunk j (if timed then chunkLate s j else chunkReady s j) = some c →
      deliverChunk c timed j { s with curQ := q, curJ := j.jid } = .ok (k, t) →
      exec (if timed then .chunkTimeout q j.jid else .chunkDelivery q j.jid) s = .next (setJob t t.curQ k)) ∧
    (∀ (c : Nat) (own : Option (List Byte)),
      let e := grp s (blkG j)
      (blkBcast j = true → (chunkGot s j c own).1 =
        ((if blkRoot j = gLeaf e then own else chunkAt s (blkG j) (blkQ j) (blkRoot j) c).toList.map (fun l => (c, l)))) ∧
      (blkBcast j = false → blkRed j = true → rootSaid s (blkG j) (blkQ j) c = true →
        (chunkGot s j c own).1 = (combAt s (blkG j) (blkQ j) c (gParent e)).toList.map (fun l => (c, l))) ∧
      (∀ l, blkBcast j = false → blkRed j = false → own = some l → (gLeaf e * blkNch j + c, l) ∈ (chunkGot s j c own).1) ∧
      (∀ (p : Nat) (l : Nat × List Byte), blkBcast j = false → blkRed j = false → p ∈ treePorts e → l ∈ leavesAt s (blkG j) (blkQ j) c p →
        (l.1 * blkNch j + c, l.2) ∈ (chunkGot s j c own).1))

/-- R161, R209, R240, R242, R268, R288, R333, R334: a due boundary of an engine passes, after a burst of the copy unit its bytes are counted,
and a job that JOBCANCEL has named meanwhile ends there, CODE 7; an eligible command that waits ages by one, up to 7, and one that is not
eligible starts anew; a job whose work is done and whose boundary has passed ends, STATE 6; a deferred gather goes on once its position is
settled, its age anew; an exchange without its peer ends NOPEER. That an age starts anew is the model's reading (log 41). -/
def Obligations.EngineEvents : Prop :=
  ∀ (s : State) (q : QueueId) (cl n : Nat) (j : Job),
    let m : QueueId := { eng := 0, idx := cl }
    let c : QueueId := { eng := 1, idx := cl }
    ((queue s m).edge = some n → exec (.matrixStepEnd cl) s = .next (boundary (dropDone (clearEdge s m) m) m)) ∧
    ((queue s c).edge = some n → exec (.copyBurst cl) s = .next (boundary (burstSignal (clearEdge s c) c n) c)) ∧
    ((queue s q).active = some j.jid → jobOf s q j.jid = some j →
      (j.cancel = true → jobOf (boundary s q) q j.jid = none ∧ (j.jid, statusWord j.aux j.flags 7 7) ∈ (queue (boundary s q) q).ended) ∧
      (cmdSigen j.cmd = true → (counter s (clOf j.o.el) (cmdSigc j.cmd)).byte = true →
        burstSignal s q n = counterAdd s (clOf j.o.el) (cmdSigc j.cmd) (dw n))) ∧
    (jobOf s q j.jid = some j → (queue s q).active ≠ some j.jid →
      (eligible s q j = true → exec (.engineAgeing q j.jid) s = .next (setJob s q { j with age := Nat.min 7 (j.age + 1) })) ∧
      (eligible s q j = false → exec (.engineAgeing q j.jid) s = .next (setJob s q { j with age := 0 }))) ∧
    (∀ code : Nat, jobOf s q j.jid = some j → j.fin = some code → (queue s q).edge = none → isBfWork q j = false →
      ∃ t : State, exec (.engineDone q j.jid) s = .next t ∧ jobOf t q j.jid = none ∧
        (j.jid, statusWord j.aux j.flags code 6) ∈ (queue t q).ended ∧ (∀ a ∈ (queue t q).arms, a.jid ≠ j.jid)) ∧
    (∀ (t u : State) (e : Dword) (v p : Bool), jobOf s c j.jid = some j → j.state = 3 →
      kgEntry j (kgPos j j.prog) { s with curQ := c, curJ := j.jid } = .ok (some e, t) → kgBits j (entPa e) (kgPos j j.prog) t = .ok ((v, p), u) →
      (v || !p) = true → exec (.kvgatherDeferResume cl j.jid) s = .next (setJob u c { j with state := 4, age := 0 })) ∧
    (jobOf s q j.jid = some j → q.eng = 3 → xchgExpired s j = true →
      exec (.rcxchgWaitExpiry q j.jid) s = .next (setJob s q { j with fin := some 20 }))

/-! ## Events (R11, R14, R129, R155, R225 to R229, R255 to R259, R273 to R288, R324 to R332) -/

/-- An act in flight at n, which no earlier act between the same two units precedes, and the state without it (R14). -/
def Sys2Proof.Machine.Arrives (s : State) (n : Nat) (b : Body) (t : State) : Prop :=
  ∃ p : Packet, s.net[n]? = some p ∧ p.body = b ∧ (∀ q ∈ s.net.take n, ¬ (q.src = p.src ∧ q.dst = p.dst)) ∧ t = { s with net := dropAt s.net n }

/-- R11, R14, R154, R155, R266, R320, R324: what reaches an element, a launch unit, the barrier tree and a cell. A message joins the inbound
queue under the next arrival number; one of a group-scope domain outside its cluster, channel 0 or not, is dropped and its sender told; one to
a channel with TRIG 1 or 2 is dropped with TRIGMISMATCH on channel 3 of its sender, or of the element itself where hardware sent it, but
for a TRIGMISMATCH of its own, which is dropped without (R14); a port
word its FIFO, and a credit returns, re-arming the runs that waited for them; a launch waits at its die, or is admitted at once where it
occupies no cluster; a barrier tag takes its configuration and its arrivals, and the last arrival of an episode sends every member the combined value; a
cell update adds or takes an item, and where the cell cannot be read is an error of its issuer, counted as a drop where no route leads there
(R315, R348). That BARCFG keeps the tag's episode number is the model's reading (log 33), and so is that the running, the
interrupted and the finished runs count among the 128 events (log 24). -/
def Obligations.Arrivals : Prop :=
  ∀ (s t : State) (n e d : Nat),
    (∀ v : Ev, Arrives s n (.ev e v) t → ¬ (v.chan = 0 ∧ v.kind = .msg) → inqUsed (elem s e) < 128 → imaged t v.lid = false →
      (v.kind = .msg → outsideGroup t e v = false ∧ (chEntry (elem t e) v.chan).trig = 0) →
      exec (.messageArrival n) s = .next (modElem t e (fun x => { x with inq := x.inq ++ [{ v with num := x.seqNo + 1 }], seqNo := x.seqNo + 1 }))) ∧
    (∀ v : Ev, Arrives s n (.ev e v) t → v.kind = .msg → outsideGroup t e v = true → (v.chan ≠ 0 → inqUsed (elem s e) < 128 ∧ imaged t v.lid = false) →
      exec (.messageArrival n) s = .next (dropOutside t e v) ∧
      (v.sender ≠ 0 → dropOutside t e v = sendMsg t uHw (fld v.sender 26 0) 3 [1, dw (chanAddr t e v.chan), 0, 0] 0 v.ts v.lid 0 none)) ∧
    (∀ v : Ev, Arrives s n (.ev e v) t → v.kind = .msg → v.chan ≠ 0 → inqUsed (elem s e) < 128 → imaged t v.lid = false →
      outsideGroup t e v = false → (chEntry (elem t e) v.chan).trig ≠ 0 →
      let own : Prop := v.chan = 3 ∧ v.sender = 0 ∧ fld (dwAt v.payload 0) 15 0 = 13
      (own → exec (.messageArrival n) s = .next t) ∧
      (¬ own → exec (.messageArrival n) s = .next (sendMsg t uHw (if v.sender = 0 then elAddr t e else fld v.sender 26 0) 3
        [13, dw (chanAddr t e v.chan), v.sender, 0] 0 v.ts v.lid 0 none))) ∧
    (∀ w : PortWord, Arrives s n (.word e d w) t → exec (.portWordArrival n) s = .next (modElem t e (fun x => noteOcc
      { x with fifo := tput x.fifo d (tget x.fifo d [] ++ [w]), inq := x.inq.map (fun v => if v.port = some (d, true) then { v with port := none } else v) }))) ∧
    (Arrives s n (.credit e d) t → exec (.creditReturn n) s = .next (modElem t e (fun x =>
      { x with credit := tput x.credit d (tget x.credit d 16 + 1),
               inq := x.inq.map (fun v => if v.port = some (d, false) then { v with port := none } else v) }))) ∧
    (∀ (lid : BitVec 32) (l : Launch), Arrives s n (.launch d lid) t → launchOf t lid = some l →
      ((occupiedOn t l.rcd d).isEmpty = true → exec (.launchPacket n) s = .next (admitOn t d lid)) ∧
      ((occupiedOn t l.rcd d).isEmpty = false →
        exec (.launchPacket n) s = .next (modDie t d (fun x => { x with waiting := x.waiting ++ [lid] })))) ∧
    (∀ (tag : Nat) (l : List Dword), Arrives s n (.barcfg tag l) t →
      let b : BarTag := { op := fld (dwAt l 0) 2 0, chan := fld (dwAt l 0) 13 8, mem := BitVec.ofNat 2048 (leNat (dwordsBytes ((l.drop 1).take 32))),
                          ep := (tget t.bars tag BarTag.reset).ep, arr := [] }
      exec (.barcfgApply n) s = .next { t with bars := tput t.bars tag b }) ∧
    (∀ (tag : Nat) (v : BitVec 32) (o : Origin), Arrives s n (.barv tag v o) t →
      let b := tget t.bars tag BarTag.reset
      let all := b.arr ++ [(o, v)]
      (b.mem.getLsbD o.el = false ∨ (∃ a ∈ b.arr, a.1.el = o.el) → exec (.barrierArrival n) s = .next (errOf t o 2 (dw tag) (dw (elAddr t o.el)) 0)) ∧
      (b.mem.getLsbD o.el = true → (∀ a ∈ b.arr, a.1.el ≠ o.el) →
        (all.length ≠ popCount b.mem.toNat 2048 → exec (.barrierArrival n) s = .next { t with bars := tput t.bars tag { b with arr := all } }) ∧
        (all.length = popCount b.mem.toNat 2048 → ∃ u : State, exec (.barrierArrival n) s = .next u ∧
          tget u.bars tag BarTag.reset = { b with arr := [], ep := b.ep + 1 } ∧
          ∀ i, i < 2048 → b.mem.getLsbD i = true → elUsable t i = true → ∃ p ∈ u.net, p.dst = i ∧ ∃ ev : Ev, p.body = .ev i ev ∧
            ev.chan = b.chan ∧ ev.payload = [(barValue b.op (all.map (·.2))).setWidth 64, dw (tag + b.ep * 256)] ∧ ev.ts = o.ts ∧ ev.lid = o.lid))) ∧
    (∀ (pa codec : Nat) (key dig chk : Dword) (del : Bool) (o : Origin) (l : List Byte), Arrives s n (.cell pa codec key dig chk del o) t →
      physRead t pa 16 = some l →
      let c := cellJoin ((cellsOf l).headD Cell.zero) (cellItem key dig chk (if del then 0xFFFF else 1))
      let r := physWrite t pa (cellBytes c) codec
      exec (.cellUpdate n) s = .next (reportErrs r.1 o r.2)) ∧
    (∀ (pa codec : Nat) (key dig chk : Dword) (del : Bool) (o : Origin), Arrives s n (.cell pa codec key dig chk del o) t →
      physRead t pa 16 = none → exec (.cellUpdate n) s = .next (reportErrs t o [{ kind := lostKind t pa, pa := pa }]))

/-- R252 to R259, R354: what reaches a combining node. A contribution to a group that is not enabled, or a local one where the node takes none,
is answered BADGROUP, one at or below HSEQ LATE, and so is one whose input the slot has already or that comes after it has been forwarded, one
without a free slot NOSLOT; another is recorded, in a new slot or beside the others, and the last input expected sends the combination on. A
result goes down once, what answers an entry that GCFG has ended is discarded, and another code is passed to the contributors; an announcement
is recorded once; a pull is served when its chunk is at hand, asks for it on the ports and waits, or ends BADGROUP. Timeouts end a slot with
what it has, free a slot that is done two edges later, and end a pull MISSING. The requests that a pull sends on the ports, when the last port's
answer ends it MISSING, and which answers are to an entry that GCFG has replaced (Config.oldResult), are the model's choice (log 22); that an
announcement whose SEQ HSEQ has already passed is entered like any other is the model's choice (log 52); the codes that end a pull are read
from R259 (log 13). -/
def Obligations.CollectiveEvents : Prop :=
  ∀ (s t : State) (n g q : Nat) (o : Origin) (l : List Dword),
    (∀ c : Contrib, Arrives s n (.group g q c) t →
      let e := grp t g
      let no (code : Nat) : Prop := exec (.groupContribution n) s = .next (groupReply t e g q c code)
      let slot : RSlot := { g := g, q := q, state := 0, start := t.roundNo, ins := [c] }
      (gEn e = false ∨ (c.port = none ∧ (gLocal e = false ∨ gLcnt e = 0)) → no 4) ∧
      (gEn e = true → (c.port = none → gLocal e = true ∧ gLcnt e ≠ 0) →
        (seqLe q (gHseq t g) = true → no 2) ∧
        (∀ x, seqLe q (gHseq t g) = false → rslot t g q = some x →
          let have' : Prop := (c.port = none ∧ gLcnt e ≤ localCount x) ∨ ∃ p, c.port = some p ∧ hasChild x p = true
          let y : RSlot := { x with ins := x.ins ++ [c] }
          (x.state ≠ 0 ∨ have' → no 2) ∧
          (x.state = 0 → ¬ have' → exec (.groupContribution n) s = .next (if slotFull t e y then groupForward (setSlot t y) y false else setSlot t y))) ∧
        (seqLe q (gHseq t g) = false → rslot t g q = none → 512 ≤ t.rslots.length → no 3) ∧
        (seqLe q (gHseq t g) = false → rslot t g q = none → t.rslots.length < 512 →
          let u := { t with rslots := t.rslots ++ [slot] }
          exec (.groupContribution n) s = .next (if slotFull u e slot then groupForward u slot false else u)))) ∧
    (∀ (code : Nat) (v arr : Dword) (count : Nat) (nan : Bool), Arrives s n (.result g q code v arr count nan) t →
      let first := (gSeq0 t g + 2 ^ 32 - 1) % 2 ^ 32
      let old : Prop := g ∈ t.renewed ∧
        ((seqLe q first = true ∧ seqLe first (gHseq t g) = true ∧ seqLe q (gHseq t g) = true) ∨ Config.oldResult t.tick g q = true)
      ((g, q) ∈ t.stale → exec (.groupResult n) s = .next (if code = 2 then t else { t with stale := t.stale.erase (g, q) })) ∧
      ((g, q) ∉ t.stale → old → exec (.groupResult n) s = .next t) ∧
      ((g, q) ∉ t.stale → ¬ old → code ≤ 1 →
        (∀ x, rslot t g q = some x →
          exec (.groupResult n) s = .next (if x.state = 2 ∧ seqLe q (gHseq t g) then t else groupDown t g q code v arr count nan)) ∧
        (rslot t g q = none → exec (.groupResult n) s = .next (groupDown t g q code v arr count nan))) ∧
      ((g, q) ∉ t.stale → ¬ old → 1 < code →
        (rslot t g q = none → exec (.groupResult n) s = .next t) ∧
        (∀ x, rslot t g q = some x →
          let u := (nodeOrder x.ins).foldl (fun u c => groupReply u (grp t g) g q c code) t
          (x.state = 0 → exec (.groupResult n) s = .next t) ∧
          (x.state ≠ 0 → exec (.groupResult n) s = .next (if x.state = 1 ∧ code ≠ 2 then setSlot u { x with state := 2, start := t.roundNo } else u))))) ∧
    (Arrives s n (.grdy l o) t →
      let a : Ann := { g := gwGroup (dwAt l 0), q := gwSeq (dwAt l 0), c := fld (dwAt l 1) 15 0, addr := dwAt l 2,
                       size := 64 * (fld (dwAt l 1) 25 16 + 1), o := o }
      (t.anns.length < 4096 → (∀ b ∈ t.anns, ¬ (b.g = a.g ∧ b.q = a.q ∧ b.c = a.c)) →
        exec (.grdyAnnounce n) s = .next (serveNode { t with anns := t.anns ++ [a] })) ∧
      (4096 ≤ t.anns.length ∨ (∃ b ∈ t.anns, b.g = a.g ∧ b.q = a.q ∧ b.c = a.c) →
        exec (.grdyAnnounce n) s = .next (serveNode (errOf t o 6 (dwAt l 0) (dw a.c) 0)))) ∧
    (Arrives s n (.gpull l o) t →
      let p : Pull := { block := l, o := o, start := t.roundNo }
      let e := grp t (gwGroup (dwAt l 0))
      (gEn e = false → exec (.gpullRequest n) s = .next (pullDone t p 4 0)) ∧
      (∀ u, gEn e = true → servePull t p = some u → exec (.gpullRequest n) s = .next u) ∧
      (gEn e = true → servePull t p = none → fld (dwAt l 1) 21 16 = gLeaf e → exec (.gpullRequest n) s = .next { t with pulls := t.pulls ++ [p] }) ∧
      (gEn e = true → servePull t p = none → fld (dwAt l 1) 21 16 ≠ gLeaf e →
        let u := askPorts t (treePorts e) (gwGroup (dwAt l 0)) (gwSeq (dwAt l 0)) 0 (fld (dwAt l 1) 21 16) (fld (dwAt l 1) 15 0)
        exec (.gpullRequest n) s = .next (if pullLost u p then pullDone u p 6 0 else { u with pulls := u.pulls ++ [p] }))) ∧
    (∀ (g8 : BitVec 8) (q32 : BitVec 32) (x : RSlot), rslot s g8.toNat q32.toNat = some x →
      (x.state = 0 → gTmo (grp s g8.toNat) ≠ 0 → x.start + gTmo (grp s g8.toNat) ≤ s.roundNo →
        exec (.groupTimeout g8 q32) s = .next (groupForward s x true)) ∧
      (x.state = 2 → x.start + 2 ≤ s.roundNo → exec (.groupSlotFree g8 q32) s = .next (freeSlot s g8.toNat q32.toNat))) ∧
    (∀ (k : Nat) (p : Pull), s.pulls[k]? = some p →
      ((pullLeaf p = gLeaf (grp s (pullG p)) ∧ gTmo (grp s (pullG p)) ≠ 0 ∧ p.start + gTmo (grp s (pullG p)) ≤ s.roundNo) ∨ pullLost s p = true) →
      exec (.gpullTimeout k) s = .next (pullDone { s with pulls := dropAt s.pulls k } p 6 0))

/-- R221 to R229: what a confluence operation does at its home. A refused management operation counts and tells channel 5; CFOPEN makes the
object anew or frees it, CFNEXT starts its next generation, CFEXPECT sets the expected mask, CFSEAL and EXITMARK end posting. A post adds
its terms to the lanes and marks its contributor once; a read waits at its object. -/
def Obligations.HomeOperations : Prop :=
  ∀ (s t : State) (n : Nat) (op : CfOp), Arrives s n (.cf op) t →
    let h := cfHandle op
    let o := cfObj t h
    let acts (i : Nat → Instr) (sub : Nat) (p : CfObj → Prop) : Prop :=
      op.sub = sub → cfRefuse t op = none → ∃ u : State, exec (i n) s = .next u ∧ p (cfObj u h)
    acts .cfopenHome 0 (fun x => if cfFree op then x.state = 0 else
      x.state = 1 ∧ x.gen.toNat = cfGen op ∧ x.nl = cfNl op ∧ x.w = cfW op ∧ x.owner = op.o.lid ∧ x.a = 0 ∧ x.e = 0 ∧ x.eset = false ∧
        x.parked = [] ∧ x.reads = [] ∧ x.counts = [] ∧ x.exitl = 0 ∧ x.lanes = [] ∧ x.wide = false) ∧
    acts .cfnextHome 1 (fun x => x.state = 1 ∧ x.gen = o.gen + 1 ∧ x.a = 0 ∧ x.e = 0 ∧ x.eset = false ∧ x.parked = [] ∧ x.reads = [] ∧
      x.lanes = o.lanes ∧ x.wide = (o.wide || laneWide o) ∧ x.w = o.w ∧ x.nl = o.nl ∧ x.owner = o.owner) ∧
    acts .cfexpectHome 2 (fun x => x.e = dwAt op.block 2 ∧ x.eset = true ∧ x.parked = [] ∧ x.gen = o.gen ∧ x.state = o.state) ∧
    acts .cfsealHome 5 (fun x => x.state = 2 ∧ x.parked = [] ∧ x.reads = [] ∧ x.a = o.a ∧ x.lanes = o.lanes) ∧
    acts .exitmarkHome 7 (fun x => x.state = 3 ∧ x.exitl.toNat = fld (cfD1 op) 31 16 ∧ x.parked = [] ∧ x.a = o.a ∧ x.lanes = o.lanes) ∧
    (∀ p ∈ ([(.cfopenHome, 0), (.cfnextHome, 1), (.cfexpectHome, 2), (.cfsealHome, 5), (.exitmarkHome, 7)] : List ((Nat → Instr) × Nat)),
      op.sub = p.2 → ∀ code, cfRefuse t op = some code →
        exec (p.1 n) s = .next (cfStatus (if code = 7 then t else countAt t h code) op 5 code)) ∧
    (op.sub = 3 →
      (cfNamed t h = false → exec (.cfpostHome n) s = .next (cfStatus t op (postChan op) 7)) ∧
      (∀ ts : List (BitVec 32), cfNamed t h = true → o.state = 1 → o.gen.toNat = cfGen op → postNull op = false →
        postOff op + postCnt op ≤ cfLanes o → dbit o.a (cfContrib op) = false → (o.eset = true → dbit o.e (cfContrib op) = true) →
        (postCond op = true → o.eset = true) → homeTerms t op = some ts → (∀ x ∈ ts, (termInt (postFmt op) o.w x.toNat).isSome = true) →
        ∃ u : State, exec (.cfpostHome n) s = .next u ∧ (cfObj u h).a = o.a ||| dw (2 ^ cfContrib op) ∧
          (cfObj u h).lanes = addLanes o.lanes (postOff op) (ts.map (fun x => (termInt (postFmt op) o.w x.toNat).getD 0)) ∧
          (cfObj u h).gen = o.gen ∧ (cfObj u h).state = 1)) ∧
    (op.sub = 4 →
      (cfNamed t h = false → exec (.cfreadHome n) s = .next (readEmpty t op 7)) ∧
      (cfNamed t h = true → o.state ≠ 0 → o.gen.toNat = cfGen op → readOff op + readCnt op ≤ cfLanes o → o.reads.length < 8 →
        exec (.cfreadHome n) s = .next (readTests (setCf t h { o with reads := o.reads ++ [{ op := op, start := t.roundNo }] }) h)))

/-- R10, R18, R19, R129, R165, R331, R332: a run starts on the runnable channel of the highest priority: STATUS, TSNOW, TRUN, LAUNCHID, XFERID,
FPFLAGS, FPRM and VGRANT are as the start sets them, with CHOFF 1, the channel, its priority and the serial mode in STATUS, and every bound
register zero; w1 to w4 hold the mailbox, the length, the sender and the timestamp, and execution begins at the channel's PC; the
interrupted run of an urgent interruption waits under it, a stalled serial one with its stall; a lane request of another event's run is
withdrawn unless the start interrupts a run. A serial event of the same domain that was admitted and has the greater key must be admitted
again. A workspace pointer that the channel may not have raises BOUNDS, and WP stays (R10). That the admission of a serial event is taken back
is the model's reading of R282 and R293 (log 15), and so is the EVAL of that BOUNDS, the pointer's address (logs 43 and 50). -/
def Obligations.RunStarts : Prop :=
  ∀ (s : State) (e : Nat) (c : Nat × Ev),
    (selectable s e = some c ∨ urgentReady s e = some c) → Memory.wf (elem s e).ls = true →
    (wpOk (elem s e) (chEntry (elem s e) c.2.chan).wpo = false → wpOk (elem s e) (chEntry (elem s e) 1).wpo = true →
      ∃ t : State, exec (if selectable s e = some c then .handlerSelection e else .urgentInterruption e) s = .next t ∧
        let ch := chEntry (elem s e) c.2.chan
        (elem t e).x.ecause = BitVec.ofNat 5 ((if ch.prio = 7 then 16 else 0) + cBOUNDS) ∧ (elem t e).x.eval = lsVa ch.wpo ∧
        (elem t e).x.epc0 = ch.pc) ∧
    (wpOk (elem s e) (chEntry (elem s e) c.2.chan).wpo = true →
    (∀ d ∈ candidates s e (decide (selectable s e ≠ some c) || decide (4 ≤ (elem s e).fin.length)),
      (chEntry (elem s e) d.1).prio ≤ (chEntry (elem s e) c.1).prio) ∧
    ∃ t : State, exec (if selectable s e = some c then .handlerSelection e else .urgentInterruption e) s = .next t ∧
      let x := elem s e
      let y := elem t e
      let v := c.2
      let ch := chEntry x v.chan
      stMode y.csr.status = ch.mode ∧ stTrap y.csr.status = false ∧ stChoff y.csr.status = 1 ∧ stChan y.csr.status = v.chan % 64 ∧
      stPrio y.csr.status = ch.prio ∧ stSer y.csr.status = v.serial ∧ stIe y.csr.status = stIe x.csr.status ∧
      (∀ i, i < 16 → bfReg y i = if i = 0 then BitVec.ofNat 256 ((2 ^ 48 - 1) * 2 ^ 64) else 0) ∧ y.csr.wp.toNat = ch.wpo ∧ y.csr.tsnow = v.ts ∧ y.csr.trun = v.trun ∧
      y.csr.xferid = v.xfer ∧ y.csr.fpflags = 0 ∧ y.csr.fprm.toNat = ch.rm ∧ y.csr.vgrant = 0 ∧ y.csr.launchid.setWidth 32 = runLid x v ∧
      y.seq = { p := ch.pc, n1 := ch.pc + 4, n2 := ch.pc + 8, ap := false, a1 := false, a2 := false } ∧
      getW y 1 = lsVa ch.mbx ∧ getW y 3 = v.sender ∧ getW y 4 = v.ts ∧ (v.kind = .msg → getW y 2 = dw v.payload.length) ∧
      (∃ r : Run, y.run = some r ∧ r.wb = [] ∧ r.rs = [] ∧ r.ob = [] ∧ r.undo = []) ∧
      (∀ old : Run, x.run = some old → ∃ u : Saved, y.under = some u ∧ u.run = old ∧ u.csr = x.csr ∧ u.seq = x.seq ∧ u.bf = x.bf ∧ u.stall = x.stall) ∧
      (∀ q : LaneReq, x.req = some q → y.req = if x.run.isSome ∨ q.num = v.num then some q else none) ∧
      t.mem = s.mem ∧ ∀ i, i ≠ e → elem t i = if lidScope s (runLid x v) = 0 then elem s i else
        { elem s i with inq := (elem s i).inq.map (fun u =>
            if u.serial && u.admitted && u.lid == runLid x v && keyLt (evKey e v) (evKey i u) then { u with admitted := false } else u) })

/-- R207, R373: the pre-emptive MSAVE of launch lid in cluster c: the record it keeps names the cluster, the launch, its row blocks and its image, of
rows, tile, slots and unissued or part-run commands; those commands, slots and blocks are then free. -/
def Sys2Proof.Machine.SavedAt (s t : State) (lid : BitVec 32) (c : Nat) : Prop :=
  let js := (queue s { eng := 0, idx := c }).jobs.filter (fun k => k.o.lid == lid && !isBfWork { eng := 0, idx := c } k)
  matrixHolds t lid c = false ∧
  (matrixHolds s lid c = true → ∃ (m : MSaved) (u : State), m ∈ t.pre.saves ∧ m.cl = c ∧ m.lid = lid ∧
    m.blocks = ((clus s c).blkOwn.filter (fun p => p.2 == lid)).map (·.1) ∧
    m.image = matrixImage u lid c (js.filter partStream ++ js.filter (fun k => !partStream k)) ∧
    (clus u c).acc = (clus s c).acc ∧ (clus u c).opm = (clus s c).opm ∧ (clus u c).rows = (clus s c).rows)

/-- R374, R376, R377: the context that the pre-emption unit captures: a section for each covered element (its handler table, the port
words and queued events of the launches, its local store), one for the counters and one for the matrix images of each cluster, and one
for the commands of each cluster that remain. Over capacity nothing is written and the answer is NOSPACE; otherwise header and sections
stand at the image, the launches' events, port words, commands and clusters are gone, and the answer is DONE. The launches are pre-empted in both
cases. -/
def Sys2Proof.Machine.Captured (s : State) : Prop :=
  let p := s.pre
  let cs := span 0 256
  let secs := ((span 0 elCount).filter (coveredElem s p.lids)).map (elemSection s p.lids) ++ cs.flatMap (counterSection s p.lids)
    ++ cs.flatMap (fun c => (p.saves.filter (fun m => m.cl == c)).map (fun m => ctxSection 3 (elAddr s (8 * c)) 1 m.image))
    ++ cs.flatMap (commandSections s)
  let size := 256 + (secs.map (·.length)).sum
  let held (u : State) : Prop := ∀ lid ∈ p.lids, ∀ l : Launch, launchOf u lid = some l → l.held = 3
  (p.cap.toNat < size → ∃ u : State, exec .preemptCapture s = .next { preReply u p.reply p.img 3 size p.o with pre := PreUnit.idle } ∧ held u ∧
    u.mem = s.mem ∧ u.elems = s.elems ∧ u.queues = s.queues ∧ u.clusters = s.clusters ∧
    ∃ c ∈ u.ctxs, c.lids = p.lids ∧ c.img = p.img ∧ c.size = size ∧ c.written = false ∧ c.saves = p.saves) ∧
  (size ≤ p.cap.toNat → ∃ u : State, exec .preemptCapture s = .next { preReply u p.reply p.img 0 size p.o with pre := PreUnit.idle } ∧ held u ∧
    u.mem = (physWrite s p.img.toNat (ctxHeader s size secs.length ++ secs.flatten) hwCodec).1.mem ∧
    (∀ i, ∀ v ∈ (elem u i).inq, v.lid ∉ p.lids) ∧ (∀ q : QueueId, q.eng ≤ 2 → q.idx < 1024 → ∀ j ∈ (queue u q).jobs, j.o.lid ∉ p.lids) ∧
    ∃ c ∈ u.ctxs, c.lids = p.lids ∧ c.img = p.img ∧ c.size = size ∧ c.written = true)

/-- R142, R276, R282, R286, R359, R372, R373: the other events of an element. The oldest serial event is admitted; a finished run commits
once it may; an immediate atomic is performed, or a quantum one held; WAKE ends the HALT state, STOP sets it up, PREEMPT, RESUME and
DISCARD go to the pre-emption unit; at the stop edge the runs of the launches are aborted, their events kept, and each matrix engine that has come
to rest is saved; the capture follows once all is at rest; a host completion that times out reaches the element's next instruction. A request that is
forwarded carries the timestamp and launch of its message, which is the model's reading (log 47), and so is the MSAVE of each engine in one act at
S or the first edge at which it rests (log 27). When a serial event is the oldest of its domain (no run of lower timestamp left to commit, no
other event admitted, no serial run unfinished), and that a finished serial run of its timestamp commits as it is admitted, are the model's
reading of R276, R282 and R293 (log 15). -/
def Obligations.ElementEvents : Prop :=
  ∀ (s t : State) (n e k ch : Nat) (v : Ev),
    (serialHead (elem s e) ch = some v →
      let mayRun (u : State) : State :=
        modElem u e (fun x => { x with inq := x.inq.map (fun u => if u.num = v.num then { u with admitted := true } else u) })
      (lidScope s v.lid = 0 → exec (.serialAdmission e ch) s = .next (mayRun s)) ∧
      (lidScope s v.lid = 1 → oldest s e v = true → exec (.serialAdmission e ch) s = .next (mayRun (commitSerial s v.lid)))) ∧
    ((∀ r ∈ domFinished s v.lid, r.2.serial = false) → commitSerial s v.lid = s) ∧
    (serialHead (elem s e) ch = some v → (1 < lidScope s v.lid ∨ lidScope s v.lid = 1 ∧ oldest s e v = false) → exec (.serialAdmission e ch) s = .next s) ∧
    (∀ r : Run, (elem s e).fin[k]? = some r → mayCommit s (e, r) = true → commitFirst s (e, r) = true →
      exec (.commit e k) s = .next (commitRun (modElem s e (fun x => { x with fin := dropAt x.fin k })) e r)) ∧
    (∀ a : Iatom, (elem s e).iq[k]? = some a →
      ((∀ b ∈ (elem s e).iq.take k, mustPrecede b a = false) → exec (.iatom e k) s = .next (iatomStep s e k)) ∧
      ((∃ b ∈ (elem s e).iq.take k, mustPrecede b a = true) → exec (.iatom e k) s = .next s)) ∧
    (Arrives s n (.ev e v) t → v.chan = 0 → v.kind = .msg →
      (controlOp s e v = some 0 → isHalted (elem t e) = true →
        exec (.wake n) s = .next (modElem t e (fun x => { x with halted := false, stopping := false }))) ∧
      (controlOp s e v = some 1 → exec (.stop n) s = .next (modElem t e (fun x => { x with stopping := true }))) ∧
      (let u := post t e uPre (.preempt v.payload { Origin.none with el := e, ts := v.ts, lid := v.lid })
       (controlOp s e v = some 2 → exec (.preempt n) s = .next u) ∧ (controlOp s e v = some 3 → exec (.resume n) s = .next u) ∧
       (controlOp s e v = some 4 → exec (.discard n) s = .next u))) ∧
    (∀ (l : List Dword) (o : Origin), Arrives s n (.preempt l o) t → t.pre.stage = 0 → fld (dwAt l 0) 7 0 = 2 → (preLids l).all (preAble t) = true →
      let p : PreUnit := { stage := 1, op := 2, lids := preLids l, img := dwAt l 1, cap := dwAt l 2, reply := dwAt l 3, o := o,
                           e := t.roundNo + 2, sEdge := 0, saves := keptSaves t (preLids l) }
      exec (.preemptRequest n) s = .next { t with pre := p }) ∧
    (s.pre.stage = 2 → exec .preemptStop s = .next (
      let u := s.elems.foldl (fun u x => abortWhere (fun r => s.pre.lids.contains r.ev.lid) .keep u x.1) s
      preSaves (stopLaunches { u with pre := { u.pre with stage := 3, sEdge := u.roundNo } } s.pre.lids 2))) ∧
    (s.pre.stage = 3 → stopsDone (preSaves s) = true → captureReady (preStopEdge s) = true) ∧
    (∀ c, c < 256 → queueQuiet s { eng := 0, idx := c } = true → ∀ lid ∈ s.pre.lids, SavedAt s (preSaves s) lid c) ∧
    (captureReady s = true → Captured s) ∧
    ((elem s e).run.isSome = true → exec (.hostCompletionTimeout e) s = .next { s with hostLost := some e, agenda := .element e :: s.agenda })

/-- R283, R324, R328, R329, R342, R353: round markers set out once the last edge is passed, and the edge is passed once nothing is left to
deliver, in the order of R283, once no immediate atomic is left to perform; a launch that held writes of RL ends at the next edge; a slot whose quantum has passed leaves its queue when another queue has work; a slot launches the next
record of its queue, or refuses it and counts the refusal; a die admits the launch at the head of its list. That every unit passes an edge
in one step is the model's choice (logs 4 and 46), and so is what sysEdge tells the other devices of a system domain's runs and does with what they
tell (log 53). A ring record that cannot be read is a machine check on the die of its address and counts as refused, and the writes of RL that an edge
applies come before the end of their launch, at the next edge: the model's readings (log 44). -/
def Obligations.RoundEvents : Prop :=
  ∀ (s : State) (slot q d : Nat),
    (s.roundGen = s.roundNo → exec .roundMarkerInjection s = .next { s with roundGen := s.roundGen + 1 }) ∧
    (s.roundGen = s.roundNo + 1 → (∀ n, deliverable s n = false) → iqSettled s = true →
      let s1 := snapJobs (edgeAway { s with roundNo := s.roundNo + 1 })
      let y := sysEdge (edgeSerial 2 (edgeCommits 2 (edgeRl s1)))
      let s3 := edgeGroups (edgePorts (cfEdge (edgeDefer (edgeQuants y.1))))
      exec .roundEdge s = .next (edgeRows (msixSignal (edgeThermal (edgeRegs (mapperEdge (preEdge (launchEnds y.2 (rlHolders s) s3)))))))) ∧
    (s.roundGen = s.roundNo + 1 → ((∃ n, deliverable s n = true) ∨ iqSettled s = false) → exec .roundEdge s = .next s) ∧
    ((lslot s slot).q = some q → qtQuant s ≤ (lslot s slot).held → anyWaiting s = true →
      exec (.slotQuantumExpiry slot) s = .next { s with slots := tput s.slots slot { (lslot s slot) with q := none, held := 0 } }) ∧
    (∀ (port : Nat) (slid : BitVec 32) (j : Nat) (dev : BitVec 16) (l : Dword) (part : SysPart),
      portOpen s port = true → exec (.horizonReport slid j { port := port, dev := dev } l part) s =
        .next { s with reports := s.reports ++ [{ slid := slid, j := j, dev := dev.toNat, l := l, part := part }] }) ∧
    (takeReady s slot = some q →
      (∀ r : List Dword, ringRecord s q = some r → recordOk s r false 7 = true →
        exec (.slotTakeRecord slot) s = .next (advanceHead (launchRecord s q r) slot q)) ∧
      (∀ r : List Dword, ringRecord s q = some r → recordOk s r false 7 = false →
        exec (.slotTakeRecord slot) s = .next (advanceHead (refuseRecord s q) slot q)) ∧
      (ringRecord s q = none →
        let u := lostRead s (ringAddr s q)
        exec (.slotTakeRecord slot) s = .next (advanceHead (refuseRecord u q) slot q) ∧
        ∃ m : McRec, (die u (dieOfPa (ringAddr s q))).mclog.getLast? = some m ∧ m.addr = dw (ringAddr s q))) ∧
    (∀ (lid : BitVec 32) (l : Launch), waitingHead s d = some lid → launchOf s lid = some l → canAdmit s l.rcd d = true →
      exec (.launchAdmission d) s = .next (admitOn (modDie s d (fun x => { x with waiting := x.waiting.filter (· != lid) })) d lid))

/-- R355, R389: the fold requests of peers, on an I-die whose reconcile engine has power. One enters the engine's store of 4, and a fifth waits at the
port until the answer of the oldest frees an entry; the oldest is served: unequal seeds are answered 2, a record without the snapshot asked for 1,
one that cannot be read 1 with a machine check, and otherwise the fold of the snapshot leaves once its 4 KiB bursts have
passed, one a turn. The seeds of the answer are compared as it begins. The machine check, of code 8, of a record that cannot be read is read
from the spec (log 21); that a b above the record's BMAX is answered 1 is the model's choice (log 52). -/
def Sys2Proof.Machine.FoldService : Prop :=
  ∀ (s : State) (port d : Nat) (dev : BitVec 16) (rec' : Dword) (epoch : BitVec 32) (b : BitVec 5) (seeds : List Dword) (r : FoldReq)
    (l : List FoldReq), d < 2 →
    let q : FoldReq := { port := port, dev := dev, addr := rec'.toNat, epoch := epoch.toNat, b := b.toNat, seeds := seeds, serve := none }
    let after (x : FoldReq) (t : State) : State := modDie t (4 + d) (fun y => { y with folds := x :: l })
    let fr : Instr := .foldRequest d { port := port, dev := dev } rec' epoch b seeds
    (portOpen s port = true → idiePowered s d = true → (die s (4 + d)).folds.length < 4 →
      exec (.foldRequest d { port := port, dev := dev } rec' epoch b seeds) s = .next (modDie s (4 + d) (fun x => { x with folds := x.folds ++ [q] }))) ∧
    (portOpen s port = true → idiePowered s d = true → 4 ≤ (die s (4 + d)).folds.length →
      exec fr s = .next (modDie s (4 + d) (fun x => { x with portFolds := x.portFolds ++ [q] }))) ∧
    (portOpen s port = true → idiePowered s d = false → exec fr s = .next s) ∧
    (idiePowered s d = false → takeTurn (.fold d) s = .next s) ∧
    (∀ (x : FoldReq) (code : Nat) (cells : List (BitVec 128)), foldReply s d x code cells = (sendFab (modDie s (4 + d) (fun y =>
      { y with folds := y.folds.drop 1 ++ y.portFolds.take 1, portFolds := y.portFolds.drop 1 })) d x.dev.toNat (.folded code cells)).1) ∧
    (s.regs.recovery = false → idiePowered s d = true → (die s (4 + d)).folds = r :: l →
      (r.serve = none → r.seeds ≠ seedsOf s d → takeTurn (.fold d) s = .next (foldReply s d r 2 [])) ∧
      (r.serve = none → r.seeds = seedsOf s d → r.addr < 2 ^ 48 → physRead s r.addr 128 = none → ∃ (t : State) (m : McRec),
        takeTurn (.fold d) s = .next (foldReply t d r 1 []) ∧ (die t (4 + d)).mclog.getLast? = some m ∧ m.code = 8 ∧ m.addr = dw r.addr) ∧
      (∀ rb c : List Byte, r.serve = none → r.seeds = seedsOf s d → r.addr < 2 ^ 48 → physRead s r.addr 128 = some rb →
        let w := bytesDwords rb
        let bmax := fld (dwAt w 3) 4 0
        let cells := (foldCells bmax r.b (cellsOf c)).map cellBits
        let there : Prop := dbit (dwAt w 3) 20 = true ∧ fld (dwAt w 6) 31 0 = r.epoch ∧ r.b ≤ bmax ∧ bmax ≤ 16
        (¬ there → takeTurn (.fold d) s = .next (foldReply s d r 1 [])) ∧
        (there → physRead s (dwAt w 1).toNat (16 * (3 * 2 ^ bmax)) = some c → cells ≠ [] →
          takeTurn (.fold d) s = .next (after { r with serve := some (0, cells, foldBursts cells) } s))) ∧
      (∀ (code n : Nat) (cells : List (BitVec 128)), r.serve = some (code, cells, n) →
        (1 < n → takeTurn (.fold d) s = .next (after { r with serve := some (code, cells, n - 1) } s)) ∧
        (n ≤ 1 → takeTurn (.fold d) s = .next (foldReply s d r code cells))))

/-- What comes by a port as an event, and the arrival that it is: by a port that is up it is taken, but behind the port's marker, unless it is a
marker, it is held with the marker's system edge, and is taken in a turn of its own once that has passed. A port that is down, or of a device
in recovery, brings nothing (R345, R352). -/
def Sys2Proof.Machine.ComesBy (i : Instr) (a : Arrival) (port : Nat) : Prop :=
  ∀ s : State,
    (portTakes s port = false → exec i s = .next s) ∧
    (portTakes s port = true → portHeld s port = false → exec i s = .next (takeArrival s a)) ∧
    (portTakes s port = true → portHeld s port = true → isMarker a = false →
      exec i s = .next { s with heldIn := s.heldIn ++ [{ edge := tget s.sysSeen port 0, arr := a }] }) ∧
    (portTakes s port = true → isMarker a = true → exec i s = .next (takeArrival s a)) ∧
    takeTurn (.held a) s = .next (takeArrival s a)

/-- R345, R347, R350, R352, R353, R355: packets, remote requests, horizon reports and fold requests come by a port so; once a system edge has
passed, the turns of what waited for it are planned, in the order in which it came, and no more of it is held. -/
def Sys2Proof.Machine.HeldArrivals : Prop :=
  (∀ (p : FabPkt) (port d pa j : Nat) (dev : BitVec 16) (op : RemoteOp) (slid epoch : BitVec 32) (l rec' : Dword) (part : SysPart)
    (b : BitVec 5) (seeds : List Dword),
    let peer : Peer := { port := port, dev := dev }
    ComesBy (.fabricForward port p) (.fab port p) port ∧ ComesBy (.remoteRequest peer pa op) (.remote peer pa op) port ∧
    ComesBy (.horizonReport slid j peer l part) (.horizon slid j peer l part) port ∧
    ComesBy (.foldRequest d peer rec' epoch b seeds) (.fold d peer rec' epoch b seeds) port) ∧
  ∀ s : State, (releaseHeld s).heldIn = s.heldIn.filter (fun h => decide (s.regs.srno < h.edge)) ∧
    (releaseHeld s).agenda = (s.heldIn.filter (fun h => decide (h.edge ≤ s.regs.srno))).map (fun h => Turn.held h.arr) ++ s.agenda

/-- R229: a pending read of an object whose required contributors have arrived, and whose optional ones have too or its lateness limit has
passed, completes. R280, R297, R317, R344 to R350, R352, R361: packets from other devices by ports that are open, remote accesses, of which a
COMMIT's write aborts readers, with their answers by the route table; a marker flit carries its system edge, and what comes behind it waits
for that edge; a flit that fails its CRC is resent, the link retrained once, and then taken down; management software brings a link up again. A
quantum atomic of another device is held to the round edge like one of this device (R121). What a link's report does to its registers is the
model's choice (log 28), the I-die on which the end of a CXL link is logged is read from the spec (log 12), and that a write names the launch
of its COMMIT is the model's choice (log 22). Of the fold requests, the machine check of a record that cannot be read is read from the spec
(log 21) and the answer to a b above BMAX is the model's choice (log 52). -/
def Obligations.FabricEvents : Prop :=
  FoldService ∧ HeldArrivals ∧ ∀ (s : State) (port d obj k : Nat),
    (∀ p : CfPend, (cfObj s (cfHandleOf s d obj)).reads[k]? = some p → readTest s (cfObj s (cfHandleOf s d obj)) p = true →
      exec (.cfreadLateness d obj k) s = .next (readTake s (cfHandleOf s d obj) p 12)) ∧
    (∀ p : FabPkt, portOpen s port = true →
      (hopLocal p.body = true ∨ p.dev = s.regs.devnum → exec (.fabricForward port p) s = .next (takeFab s port p.body)) ∧
      (∀ out : Nat, hopLocal p.body = false → p.dev ≠ s.regs.devnum → routePort s p.dev.toNat = some out →
        exec (.fabricForward port p) s = .next { s with out := s.out ++ [.packet out { dev := p.dev, body := p.body }] })) ∧
    (∀ seq j, j < 2 ^ 64 → markerOf (mkFlit seq 2 0 j) = some j ∧
      takeFab s port (.marker (mkFlit seq 2 0 j)) = { s with sysSeen := tput s.sysSeen port (Nat.max j (tget s.sysSeen port 0)) }) ∧
    (∀ (dev : BitVec 16) (pa n : Nat) (l : List Byte) (lid : BitVec 32), portOpen s port = true → remoteOk s pa = true →
      let answer (t : State) (x : Option (List Byte)) : State := (sendFab t (port / 8) dev.toNat (.answer x)).1
      let w := (physWrite s pa l hwCodec).1
      let u := if lid = 0 then w else conflict w lid (linesOf ((List.range l.length).map (fun i => (pa + i, 0, 0))))
      exec (.remoteRequest { port := port, dev := dev } pa (.read n)) s = .next (answer s (physRead s pa n)) ∧
      exec (.remoteRequest { port := port, dev := dev } pa (.write l lid)) s = .next (answer u (if (physWrite s pa l hwCodec).2 = [] then some [] else none)) ∧
      (∀ (aop : Nat) (v cmp : Dword), exec (.remoteRequest { port := port, dev := dev } pa (.atomic aop .quant v cmp)) s =
        let a : Iatom := { pa := pa, va := 0, codec := hwCodec, aop := aop, v := v, cmp := cmp, use := .quant, d := 0, held := true }
        .next { s with quants := s.quants ++ [{ el := 0, a := a, peer := some { port := port, dev := dev } }] }) ∧
      (∀ (aop : Nat) (use : AmoUse) (v cmp old : Dword), use ≠ .quant → physDword s pa = some old →
        exec (.remoteRequest { port := port, dev := dev } pa (.atomic aop use v cmp)) s =
          .next (answer (if aop = aopLoad then s else physPutDword s pa (amoNew aop old v cmp)) (some (leBytes 8 old.toNat))))) ∧
    (∀ (dev : BitVec 16) (pa : Nat) (op : RemoteOp), portOpen s port = true → remoteOk s pa = false →
      exec (.remoteRequest { port := port, dev := dev } pa op) s = .next (sendFab s (port / 8) dev.toNat (.answer none)).1) ∧
    (∀ (l : LinkId) (seq : BitVec 12) (flit : BitVec 512),
      (flitOk flit = true → exec (.flitCrcFailure l { seq := seq, bits := flit }) s = .next s) ∧
      (linkAlive s l = true → flitOk flit = false →
        let x := replayOf s l seq.toNat
        (x.fails < 7 → exec (.flitCrcFailure l { seq := seq, bits := flit }) s =
          .next { s with links := tput s.links (linkKey l) { x with fails := x.fails + 1 } }) ∧
        (7 ≤ x.fails → x.again = false → ∃ t : State, exec (.flitCrcFailure l { seq := seq, bits := flit }) s = .next t ∧
          tget t.links (linkKey l) { seq := 0, fails := 0, again := false } = { seq := seq.toNat, fails := 0, again := true } ∧
          (l = .fab port → let v := tget s.regs.fpctl port 0
            fld (tget t.regs.fpctl port 0) 23 16 = Nat.min 255 (fld v 23 16 + 1) ∧ fld (tget t.regs.fpctl port 0) 15 0 = fld v 15 0)) ∧
        (7 ≤ x.fails → x.again = true → ∃ (t : State) (m : McRec), exec (.flitCrcFailure l { seq := seq, bits := flit }) s = .next t ∧ linkAlive t l = false ∧
          (die t (linkDie l)).mclog.getLast? = some m ∧ m.code = 10))) ∧
    (∀ n : Nat, s.regs.recovery = false → (24 ≤ n → dbit (tget s.regs.islctl 14 0) 8 = false) →
      ∃ t : State, takeTurn (.linkReset (.mem n)) s = .next t ∧ n ∉ t.nearDown ∧ t.mem = s.mem) ∧
    (tget s.farCap port 0 ≠ 0 → port ∉ s.farDown → ∃ t : State, exec (.cxlDeviceRemoval port) s = .next t ∧ port ∈ t.farDown ∧ t.mem = s.mem) ∧
    (s.regs.recovery = false → (4 ≤ port → dbit (tget s.regs.islctl 14 0) 8 = false) →
      ∃ t : State, takeTurn (.linkReset (.cxl port)) s = .next t ∧ port ∉ t.farDown ∧ t.mem = s.mem) ∧
    (port < 16 → dbit (tget s.regs.fpctl port 0) 0 = true → dbit (tget s.regs.fpctl port 0) 8 = false → port ∉ s.fabDown →
      portOff s port = false → ∃ t : State, exec (.linkUp port) s = .next t ∧ portUp t port = true ∧ t.mem = s.mem)

/-- R314 to R316, R370, R371, R390: a correctable word that the scrub finds is corrected and counted, and the fourth of a row takes a spare row; an
uncorrectable one in memory, in operand memory or in the accumulator store is poisoned and logged as a machine check; one in local store is
poisoned, and the running run takes the trap at its next boundary. The code of a machine check that the table of R371 does not list is a
free value (log 28). -/
def Sys2Proof.Machine.ScrubResults : Prop :=
  ∀ (s : State) (at' : ScrubAt) (w c e : Nat),
    let found (p : ScrubAt) (d : Nat) (addr : Dword) (q : State → Prop) : Prop :=
      ∃ (t : State) (m : McRec), exec (.patrolScrub p true) s = .next t ∧ (die t d).mclog.getLast? = some m ∧ m.addr = addr ∧ q t
    (∃ t : State, exec (.patrolScrub at' false) s = .next t ∧ t.mem = s.mem ∧
      tget (die t (scrubDie at')).tele 0 0 = tget (die (bumpTele s (scrubDie at') 0) (scrubDie at')).tele 0 0 ∧
      (∀ r, scrubRow at' = some r → tget s.rowHits r 0 = 3 →
        (tget s.spares (bankOfRow r) 0 < spareRows (bankOfRow r) → tget t.spares (bankOfRow r) 0 = tget s.spares (bankOfRow r) 0 + 1) ∧
        (spareRows (bankOfRow r) ≤ tget s.spares (bankOfRow r) 0 → bankOfRow r ∈ t.spent))) ∧
    (populated s (8 * w) = true → external (8 * w) = false → w ∉ s.memBad →
      found (.phys w) (dieOfPa (8 * w)) (dw (8 * w)) (fun t => w ∈ t.memBad ∧ t.mem = s.mem)) ∧
    (w < 2 ^ 18 → w ∉ (clus s c).opmBad → found (.opm c w) (c / 64) (dw (8 * w)) (fun t => w ∈ (clus t c).opmBad)) ∧
    (w < 32 * (clus s c).rows → w ∉ (clus s c).accBad → found (.acc c w) (c / 64) (dw (8 * w)) (fun t => w ∈ (clus t c).accBad)) ∧
    (8 * w < lsSize (elem s e) → w ∉ (elem s e).lsBad →
      found (.ls e w) (dieOf e) (lsVa (8 * w)) (fun t => w ∈ (elem t e).lsBad ∧
        ∀ r : Run, (elem s e).run = some r → ∃ u : Run, (elem t e).run = some u ∧ u.mc = some (r.mc.getD (lsVa (8 * w)))))

/-- R314 to R316, R326 to R328, R357, R358, R383: the host's accesses. A BAR2 write of bytes within one line of populated memory writes them, and
one elsewhere is dropped and counted; a read answers with the bytes; a doorbell reads TAIL again; the control BAR's registers take their
fields, and a read gives them, the part number, or 0 where none is listed; a device in recovery serves none of it. What the scrub finds. The
control BAR's registers during a launch, and that the drop counts on I-die 0, are the model's choice (log 28); the die that logs an address
which cannot be read is read from the spec (log 12). -/
def Obligations.HostEvents : Prop :=
  ScrubResults ∧ ∀ (s : State) (off : Nat) (bytes : List Byte) (q : BitVec 10) (v : Dword),
    (s.regs.recovery = true → ∀ i ∈ ([.hostBar2Write off bytes, .hostBar2Read off bytes.length, .qdb q, .registerWrite off v] : List Instr),
      exec i s = .next s) ∧
    (s.regs.recovery = false →
      (off % 64 + bytes.length ≤ 64 → off + bytes.length ≤ 2 ^ 36 → bytes ≠ [] →
        let pa := fld s.regs.winbase 51 30 * 2 ^ 30 + off
        (populated s pa = true → exec (.hostBar2Write off bytes) s = .next (physStore s pa bytes)) ∧
        (populated s pa = false → exec (.hostBar2Write off bytes) s = .next (bumpTele s 4 0x18))) ∧
      (∀ n, off % 64 + n ≤ 64 → off + n ≤ 2 ^ 36 → n ≠ 0 →
        let pa := fld s.regs.winbase 51 30 * 2 ^ 30 + off
        (populated s pa = false → exec (.hostBar2Read off n) s = .next { s with out := s.out ++ [.hostRead none] }) ∧
        (∀ l, populated s pa = true → physRead s pa n = some l →
          exec (.hostBar2Read off n) s = .next { s with out := s.out ++ [.hostRead (some l)] }) ∧
        (populated s pa = true → physRead s pa n = none →
          exec (.hostBar2Read off n) s = .next { lostRead s pa with out := (lostRead s pa).out ++ [.hostRead none] })) ∧
      (qMapped s q.toNat = true → exec (.qdb q) s = .next { s with tailSeen := tput s.tailSeen q.toNat (qdTail s q.toNat) }) ∧
      exec (.registerWrite 0x200 v) s = .next { s with regs := { s.regs with winbase := dw (fld v 51 30 * 2 ^ 30) } } ∧
      (s.launches = [] →
        exec (.registerWrite 0x100 v) s = .next { s with regs := { s.regs with qtbase := dw (fld v 51 6 * 64) } } ∧
        ∃ t : State, exec (.registerWrite 0x108 v) s = .next t ∧ fld t.regs.qtctl 10 0 = Nat.min 1024 (fld v 10 0) ∧
          fld t.regs.qtctl 23 16 = Nat.max 1 (fld v 23 16) ∧ fld t.regs.qtctl 31 24 = Nat.max 1 (fld v 31 24) ∧ fld t.regs.qtctl 32 32 = fld v 32 32) ∧
      takeTurn (.barRead off) s = .next { s with out := s.out ++ [.barRead (barGet s off)] } ∧
      fld (barGet s 0) 15 0 = 0x04C4 ∧ barGet s 8 = s.regs.devnum.setWidth 64 ∧ barGet s 0x100 = s.regs.qtbase ∧ barGet s 0x200 = s.regs.winbase ∧
      (∀ i, i < 64 → barGet s (0x10000 + 16 * i) = (match (lslot s i).q with | some x => dw (1024 + x % 1024) | none => 0) ∧
        barGet s (0x10008 + 16 * i) = (lslot s i).taken) ∧
      (0x82000 ≤ off → barGet s off = 0))

/-- R37, R381 to R387, R390: the management port, boot and attestation. A datagram without its HMAC is dropped and counted; MREAD answers
with a register or BADADDR; MWRITE of RPSET, DEVNUM and AGEQ changes the register while no launch is active, AGEQ within its limits, or
answers RANGE, and BUSY while one is; MCLEAR clears a telemetry block but TEMP and POWER; ATTEST answers with the report; a boot runs the
first firmware copy that verifies, measures it and the configuration, and sets RUN once a supervisor image verifies under the owner key; a
stage that does not verify ends it in recovery; measurements extend. SM3 and SM2 are uninterpreted (log 9); the answers for registers that are
not listed or read-only are the model's reading (log 28). -/
def Obligations.ManagementEvents : Prop :=
  ∀ (s : State) (addr : Nat) (v : Dword) (r : BootReport) (nonce digest : BitVec 256) (i : BitVec 3),
    (s.regs.recovery = false →
      let tells (t : State) (n : Nat) : Host.Outcome State Fault Refusal := .next { t with out := t.out ++ [.mgmt n 0] }
      (∀ j ∈ ([.mread addr false, .mwrite addr v false, .mclear addr false] : List Instr), exec j s = .next (bumpTele s 4 0x20)) ∧
      (∀ x, mgmtRead s addr = some x → exec (.mread addr true) s = .next { s with out := s.out ++ [.mgmt 0 x] }) ∧
      (mgmtRead s addr = none → exec (.mread addr true) s = tells s 1 ∧ exec (.mwrite addr v true) s = tells s 1) ∧
      (s.launches ≠ [] → ∀ a ∈ ([0x08, 0x10, 0x28] : List Nat), exec (.mwrite a v true) s = tells s 2) ∧
      (s.launches = [] →
        (8 ≤ v.toNat → v.toNat ≤ 16 → exec (.mwrite 0x10 v true) s = tells { s with regs := { s.regs with rpset := v.setWidth 5 } } 0) ∧
        (v.toNat < 8 ∨ 16 < v.toNat → exec (.mwrite 0x10 v true) s = tells s 3) ∧
        (v.toNat < 2 ^ 16 → exec (.mwrite 0x08 v true) s = tells { s with regs := { s.regs with devnum := v.setWidth 16 } } 0) ∧
        (2 ^ 16 ≤ v.toNat → exec (.mwrite 0x08 v true) s = tells s 3) ∧
        (v.toNat < 32 → exec (.mwrite 0x28 v true) s =
          tells { s with regs := { s.regs with ageq := BitVec.ofNat 5 (Nat.min 20 (Nat.max 8 v.toNat)) } } 0) ∧
        (32 ≤ v.toNat → exec (.mwrite 0x28 v true) s = tells s 3)) ∧
      (∀ d, d < 6 → exec (.mclear (0x500 + 0x40 * d) true) s = tells
        (modDie s d (fun x => { x with tele := x.tele.filter (fun p => p.1 == 0x28 || p.1 == 0x30) })) 0)) ∧
    (∃ (l : List Dword) (g : BitVec 512), exec (.attest nonce) s = .next { s with out := s.out ++ [.report l g] } ∧ l.length = 48 ∧
      dwAt l 0 = dw (2 ^ 32 + 0x4B344154) ∧ dwAt l 1 = s.regs.devnum.setWidth 64 ∧ leNat (dwordsBytes ((l.drop 2).take 4)) = nonce.toNat) ∧
    (∃ t : State, exec (.powerOnReset r) s = .next t ∧ t.launches = [] ∧ t.roundNo = 0 ∧
      let good (k : BitVec 512) (m : Image) : Bool := Config.sm2Verify k (Config.sm3 m.bytes) m.sig
      let fw := if good Config.vendorKey r.fwA then some r.fwA else if good Config.vendorKey r.fwB then some r.fwB else none
      let ext (m : Image) : BitVec 256 := Config.sm3 (leBytes 32 0 ++ leBytes 32 (Config.sm3 m.bytes).toNat)
      (fw = none → t.regs.recovery = true ∧ t.regs.run = false) ∧
      (∀ m, fw = some m → tget t.regs.meas 0 0 = ext m ∧
        (good Config.vendorKey r.cfgImg = false → t.regs.recovery = true ∧ t.regs.run = false) ∧
        (good Config.vendorKey r.cfgImg = true → tget t.regs.meas 1 0 = ext r.cfgImg ∧
          (r.supImg = none → (Config.bootConfig r.cfgImg.bytes).storage = [] → t.regs.recovery = true ∧ t.regs.run = false) ∧
          (∀ p, r.supImg = some p →
            let owner := (Config.bootConfig r.cfgImg.bytes).owner
            (good owner p = false → t.regs.recovery = true ∧ t.regs.run = false) ∧
            (good owner p = true → t.regs.recovery = false ∧ t.regs.run = true ∧ tget t.regs.meas 2 0 = ext p))))) ∧
    (s.regs.recovery = true → exec (.capabilityRefresh r) s = .next s ∧ exec (.measurementRequest i digest) s = .next s) ∧
    (s.regs.recovery = false → s.launches = [] → exec (.capabilityRefresh r) s = .next (fixCaps s r)) ∧
    (s.regs.recovery = false → 3 ≤ i.toNat →
      let m := Config.sm3 (leBytes 32 (tget s.regs.meas i.toNat 0).toNat ++ leBytes 32 digest.toNat)
      exec (.measurementRequest i digest) s = .next { s with regs := { s.regs with meas := tput s.regs.meas i.toNat m } })
end

