-- ==== Sys2Proof/Laws/Ops.lean ====
section
/-! SUPPORT. What each shared operation of an instruction does where it goes through: one lemma per operation of Machine/Ops.lean and
Machine/Operands.lean. -/

namespace Sys2Proof.Machine

/-! ## The monad -/

theorem M_bind_ok {α β : Type} {f : M α} {g : α → M β} {s t : State} {x : α} (h : f s = .ok (x, t)) : (f >>= g) s = g x t := by
  show (f s >>= fun p => g p.1 p.2) = _
  rw [h]; rfl

theorem M_bind_error {α β : Type} {f : M α} {g : α → M β} {s : State} {e : Stop} (h : f s = .error e) : (f >>= g) s = .error e := by
  show (f s >>= fun p => g p.1 p.2) = _
  rw [h]; rfl

@[simp] theorem M_pure {α : Type} (x : α) (s : State) : (pure x : M α) s = .ok (x, s) := rfl
@[simp] theorem M_get (s : State) : (get : M State) s = .ok (s, s) := rfl
@[simp] theorem M_set (s t : State) : (set t : M Unit) s = .ok ((), t) := rfl
@[simp] theorem M_modify (f : State → State) (s : State) : (modify f : M Unit) s = .ok ((), f s) := rfl
@[simp] theorem M_throw {α : Type} (e : Stop) (s : State) : (throw e : M α) s = .error e := rfl
@[simp] theorem M_trap {α : Type} (c : Nat) (ev : Dword) (s : State) : (trap c ev : M α) s = .error (.trap c ev s.marks) := rfl
@[simp] theorem getE_ok (s : State) : getE s = .ok (curElem s, s) := rfl
@[simp] theorem modE_ok (f : Elem → Elem) (s : State) : modE f s = .ok ((), modCur s f) := rfl
@[simp] theorem raise_ok (fl : Nat) (s : State) :
    raise fl s = .ok ((), modCur s (fun x => { x with csr := { x.csr with fpflags := x.csr.fpflags ||| BitVec.ofNat 7 fl } })) := rfl
@[simp] theorem roundMode_ok (s : State) : roundMode s = .ok ((curElem s).csr.fprm.toNat, s) := rfl

theorem perform_ok {act : M Unit} {s t : State} (h : act s = .ok ((), t)) : perform act s = .next (advance t) := by
  simp only [perform, h]

theorem performAs_ok {act : M Unit} {s t : State} (h : act s = .ok ((), t)) : performAs act s = .next t := by
  simp only [performAs, h]

/-- What an instruction kept before its stop is nothing where it has kept nothing. -/
@[simp] theorem keepMarks_self (s : State) : keepMarks s s.marks = s := by
  unfold keepMarks
  rw [Nat.sub_self]
  rfl

theorem perform_trap {act : M Unit} {s : State} {c : Nat} {ev : Dword} {m : List Kept} (h : act s = .error (.trap c ev m)) :
    perform act s = .next (takeTrap (noteMcheck (keepMarks s m) c ev) c ev) := by
  simp only [perform, h, stopState]

theorem performAs_trap {act : M Unit} {s : State} {c : Nat} {ev : Dword} {m : List Kept} (h : act s = .error (.trap c ev m)) :
    performAs act s = .next (takeTrap (noteMcheck (keepMarks s m) c ev) c ev) := by
  simp only [performAs, h, stopState]

/-! ## Elements -/

@[simp] theorem setElem_cur (s : State) (e : Nat) (x : Elem) : (setElem s e x).cur = s.cur := rfl
@[simp] theorem modCur_cur (s : State) (f : Elem → Elem) : (modCur s f).cur = s.cur := rfl

theorem tget_tput_same {α : Type} (t : Tbl α) (a : Nat) (x d : α) : tget (tput t a x) a d = x := by
  induction t with
  | nil => simp [tput, tget]
  | cons p t ih =>
    obtain ⟨k, v⟩ := p
    simp only [tput]
    split
    · simp [tget]
    · split
      · simp [tget]
      · rename_i h1 h2
        have hk : (k == a) = false := by simp at h2 ⊢; omega
        simp [tget, hk, ih]

theorem tget_tput_other {α : Type} (t : Tbl α) (a b : Nat) (x d : α) (h : b ≠ a) : tget (tput t a x) b d = tget t b d := by
  induction t with
  | nil => simp [tput, tget]; omega
  | cons p t ih =>
    obtain ⟨k, v⟩ := p
    have hab : (a == b) = false := by simp; omega
    simp only [tput]
    split
    · simp [tget, hab]
    · split
      · rename_i h1 h2
        have hk : a = k := by simpa using h2
        subst hk
        simp [tget, hab]
      · simp [tget, ih]

@[simp] theorem elem_setElem_same (s : State) (e : Nat) (x : Elem) : elem (setElem s e x) e = x := tget_tput_same _ _ _ _
theorem elem_setElem_other (s : State) (e f : Nat) (x : Elem) (h : f ≠ e) : elem (setElem s e x) f = elem s f :=
  tget_tput_other _ _ _ _ _ h
@[simp] theorem curElem_modCur (s : State) (f : Elem → Elem) : curElem (modCur s f) = f (curElem s) := elem_setElem_same _ _ _

/-! ## Registers -/

theorem takePort_ok (w : Dword) (s : State) (r : Reg) (h27 : ¬ r.toNat ≤ 27) (h : s.canRead r = true) :
    takePort w (portOf r) s = .ok (s.fetchReg r) := by
  simp only [State.canRead, h27, if_false, Bool.and_eq_true, Bool.not_eq_true'] at h
  obtain ⟨⟨hu, hn⟩, hf⟩ := h
  simp only [State.fetchReg, h27, if_false]
  cases hq : tget (curElem s).fifo (portOf r) [] with
  | nil => simp [hq] at hf
  | cons p l =>
    unfold takePort
    rw [M_bind_ok (M_get s)]
    have hn' : (neighbour s s.cur (portOf r)).isNone = false := by
      cases hv : neighbour s s.cur (portOf r) <;> simp_all
    simp only [hu, hn', Bool.or_false, hq]
    rfl

theorem readReg_ok (w : Dword) (s : State) (r : Reg) (h : s.canRead r = true) : readReg w r s = .ok (s.src1 r, s.after1 r) := by
  show _ = Except.ok (s.fetchReg r)
  unfold readReg
  by_cases h27 : r.toNat ≤ 27
  · simp only [h27, if_true]
    rw [M_bind_ok (getE_ok s)]
    simp only [State.canRead, h27, if_true, Bool.or_eq_true, Bool.not_eq_true'] at h
    have hc : (r != 0 && (curElem s).lsBad.contains (wOff (curElem s) r.toNat / 8)) = false := by
      rcases h with h | h
      · simp only [bne, h, Bool.not_true, Bool.false_and]
      · rw [h, Bool.and_false]
    simp only [hc, State.fetchReg, h27, if_true]
    rfl
  · simp only [h27, if_false]
    exact takePort_ok w s r h27 h

theorem logUndo_ok (s : State) (d : Nat) (h : s.canLog d = true) : logUndo d s = .ok ((), s.logged d) := by
  unfold logUndo
  rw [M_bind_ok (M_get s)]
  simp only [State.canLog] at h
  simp only [State.logged]
  cases hr : (curElem s).run with
  | none => simp [hr] at h
  | some r =>
    simp only [hr] at h
    by_cases hu : (tfind r.undo d).isSome = true
    · simp [hu]
    · simp only [Bool.not_eq_true] at hu
      simp only [hu, Bool.false_or, decide_eq_true_eq] at h
      simp [hu, h]

theorem lsStore_ok (s : State) (off n v : Nat) (h : s.canLog (off / 8) = true)
    (hb : n = 8 ∨ (curElem s).lsBad.contains (off / 8) = false) : lsStore off n v s = .ok ((), s.putLs off n v) := by
  unfold lsStore
  rw [M_bind_ok (getE_ok s)]
  have hc : (n != 8 && (curElem s).lsBad.contains (off / 8)) = false := by
    rcases hb with hb | hb
    · simp [hb]
    · rw [hb]; simp
  simp only [hc]
  show (logUndo (off / 8) >>= fun _ => modE (fun y => lsWrite y off n v)) s = _
  rw [M_bind_ok (logUndo_ok s _ h)]
  rfl

theorem outbox_ok (s : State) (o : OutEntry) (h : s.canQueue = true) : outbox o s = .ok ((), s.queued o) := by
  unfold outbox
  rw [M_bind_ok (M_get s)]
  simp only [State.canQueue] at h
  simp only [State.queued]
  cases hr : (curElem s).run with
  | none => simp [hr] at h
  | some r =>
    simp only [hr, decide_eq_true_eq] at h
    simp only [h, if_true]
    show Except.ok ((), modCur s _) = Except.ok ((), modCur s _)
    simp only [modCur, modElem]
    have : (elem s s.cur).run = some r := hr
    simp [this]

theorem checkTs_ok (s : State) (h : s.tsOk = true) : checkTs s = .ok ((), s) := by
  unfold checkTs
  rw [M_bind_ok (getE_ok s)]
  simp only [State.tsOk, decide_eq_true_eq] at h
  rw [if_neg (Nat.not_le.mpr h)]
  rfl

theorem putPort_ok (w : Dword) (s : State) (r : Reg) (v : Dword) (h27 : ¬ r.toNat ≤ 27) (h : s.canWrite r = true) :
    putPort w (portOf r) v s = .ok ((), s.putReg r v) := by
  have h0 : ¬ (r == 0) = true := by
    intro h0; apply h27; rw [beq_iff_eq.mp h0]; decide
  unfold State.canWrite at h
  simp only [if_neg h0, if_neg h27, Bool.and_eq_true, Bool.not_eq_true', decide_eq_true_eq] at h
  obtain ⟨⟨⟨⟨hu, hn⟩, ht⟩, hc⟩, hq⟩ := h
  have hn' : (neighbour s s.cur (portOf r)).isNone = false := by
    cases hv : neighbour s s.cur (portOf r) <;> simp_all
  have hc' : (tget (curElem s).credit (portOf r) 16 == 0) = false := by simpa [bne] using hc
  unfold putPort
  rw [M_bind_ok (M_get s)]
  simp only [hu, hn', Bool.or_false]
  show (checkTs >>= fun _ => _) s = _
  rw [M_bind_ok (checkTs_ok s (decide_eq_true ht))]
  simp only [hc']
  show (outbox _ >>= fun _ => _) s = _
  rw [M_bind_ok (outbox_ok s _ hq)]
  unfold State.putReg
  simp only [if_neg h0, if_neg h27]
  rfl

theorem writeReg_ok (w : Dword) (s : State) (r : Reg) (v : Dword) (h : s.canWrite r = true) :
    writeReg w r v s = .ok ((), s.putReg r v) := by
  unfold writeReg
  by_cases h0 : (r == 0) = true
  · unfold State.putReg
    simp only [if_pos h0, M_pure]
  · by_cases h27 : r.toNat ≤ 27
    · rw [if_neg h0, if_pos h27]
      unfold State.canWrite at h
      simp only [if_neg h0, if_pos h27] at h
      rw [M_bind_ok (getE_ok s), lsStore_ok s _ 8 _ h (Or.inl rfl)]
      unfold State.putReg
      simp only [if_neg h0, if_pos h27]
    · rw [if_neg h0, if_neg h27]
      exact putPort_ok w s r v h27 h

/-! ## Parameter blocks -/

theorem readBlock_ok (s : State) (va : Dword) (n : Nat) (h : s.canBlock va n = true) : readBlock va n s = .ok (s.blockAt va n, s) := by
  simp only [State.canBlock, Bool.and_eq_true, Bool.not_eq_true', beq_iff_eq, decide_eq_true_eq] at h
  obtain ⟨⟨⟨h8, hl⟩, hs⟩, hp⟩ := h
  have h1 : lsRange va.toNat (8 * n) 8 s = .ok (va.toNat - lsBase, s) := by
    unfold lsRange
    rw [M_bind_ok (getE_ok s)]
    simp [h8, hl, Nat.not_lt.mpr hs]
  unfold readBlock
  rw [M_bind_ok h1]
  have h2 : lsLoad (va.toNat - lsBase) (8 * n) s = .ok (memRead (curElem s).ls (va.toNat - lsBase) (8 * n), s) := by
    unfold lsLoad
    rw [M_bind_ok (getE_ok s)]
    simp [hp]
  rw [M_bind_ok h2]
  rfl

/-! ## Operand forms -/

theorem op2_ok (w : Dword) (d a b : Reg) (f : Dword → Dword → Dword) (s : State) (hr : s.canRead2 a b = true)
    (hw : (s.after2 a b).canWrite d = true) :
    op2 w d a b f s = .ok ((), (s.after2 a b).putReg d (f (s.src1 a) (s.src2 a b))) := by
  simp only [State.canRead2, Bool.and_eq_true] at hr
  unfold op2
  rw [M_bind_ok (readReg_ok w s a hr.1)]
  rw [M_bind_ok (readReg_ok w _ b hr.2)]
  exact writeReg_ok w _ d _ hw

theorem op1_ok (w : Dword) (d a : Reg) (f : Dword → Dword) (s : State) (hr : s.canRead a = true)
    (hw : (s.after1 a).canWrite d = true) : op1 w d a f s = .ok ((), (s.after1 a).putReg d (f (s.src1 a))) := by
  unfold op1
  rw [M_bind_ok (readReg_ok w s a hr)]
  exact writeReg_ok w _ d _ hw

theorem fop2_ok (w : Dword) (d a b : Reg) (f : Fmt) (op : Nat → Nat → Nat → Nat × Nat) (s : State) (hr : s.canRead2 a b = true)
    (hw : (s.after2 a b).canWrite d = true) :
    fop2 w d a b f op s = .ok ((), (s.after2 a b).putFp d
      (dw (op (curElem (s.after2 a b)).csr.fprm.toNat (fpSrc f (s.src1 a)) (fpSrc f (s.src2 a b))).1)
      (op (curElem (s.after2 a b)).csr.fprm.toNat (fpSrc f (s.src1 a)) (fpSrc f (s.src2 a b))).2) := by
  simp only [State.canRead2, Bool.and_eq_true] at hr
  have hw2 : ((s.after1 a).after1 b).canWrite d = true := hw
  unfold fop2
  rw [M_bind_ok (readReg_ok w s a hr.1)]
  rw [M_bind_ok (readReg_ok w _ b hr.2)]
  rw [M_bind_ok (roundMode_ok _)]
  rw [M_bind_ok (writeReg_ok w _ d _ hw2)]
  rfl

theorem fop1_ok (w : Dword) (d a : Reg) (f : Fmt) (op : Nat → Nat → Nat × Nat) (s : State) (hr : s.canRead a = true)
    (hw : (s.after1 a).canWrite d = true) :
    fop1 w d a f op s = .ok ((), (s.after1 a).putFp d
      (dw (op (curElem (s.after1 a)).csr.fprm.toNat (fpSrc f (s.src1 a))).1)
      (op (curElem (s.after1 a)).csr.fprm.toNat (fpSrc f (s.src1 a))).2) := by
  unfold fop1
  rw [M_bind_ok (readReg_ok w s a hr)]
  rw [M_bind_ok (roundMode_ok _)]
  rw [M_bind_ok (writeReg_ok w _ d _ hw)]
  rfl

end Sys2Proof.Machine
end

