-- ==== Sys2Proof/Laws/State.lean ====
section
/-! SUPPORT. The small lemmas of State: what each update of a part of it leaves in each field, each true by computation. -/

namespace Sys2Proof.Machine

/-! ## setElem -/

@[simp] theorem setElem_agenda (s : State) (e : Nat) (x : Elem) : (setElem s e x).agenda = s.agenda := rfl
@[simp] theorem setElem_tick (s : State) (e : Nat) (x : Elem) : (setElem s e x).tick = s.tick := rfl
@[simp] theorem setElem_curQ (s : State) (e : Nat) (x : Elem) : (setElem s e x).curQ = s.curQ := rfl
@[simp] theorem setElem_curJ (s : State) (e : Nat) (x : Elem) : (setElem s e x).curJ = s.curJ := rfl
@[simp] theorem setElem_elems (s : State) (e : Nat) (x : Elem) : (setElem s e x).elems = tput s.elems e x := rfl
@[simp] theorem setElem_clusters (s : State) (e : Nat) (x : Elem) : (setElem s e x).clusters = s.clusters := rfl
@[simp] theorem setElem_dies (s : State) (e : Nat) (x : Elem) : (setElem s e x).dies = s.dies := rfl
@[simp] theorem setElem_queues (s : State) (e : Nat) (x : Elem) : (setElem s e x).queues = s.queues := rfl
@[simp] theorem setElem_regs (s : State) (e : Nat) (x : Elem) : (setElem s e x).regs = s.regs := rfl
@[simp] theorem setElem_mem (s : State) (e : Nat) (x : Elem) : (setElem s e x).mem = s.mem := rfl
@[simp] theorem setElem_memBad (s : State) (e : Nat) (x : Elem) : (setElem s e x).memBad = s.memBad := rfl
@[simp] theorem setElem_memTodo (s : State) (e : Nat) (x : Elem) : (setElem s e x).memTodo = s.memTodo := rfl
@[simp] theorem setElem_stateSet (s : State) (e : Nat) (x : Elem) : (setElem s e x).stateSet = s.stateSet := rfl
@[simp] theorem setElem_memEdge (s : State) (e : Nat) (x : Elem) : (setElem s e x).memEdge = s.memEdge := rfl
@[simp] theorem setElem_nearCap (s : State) (e : Nat) (x : Elem) : (setElem s e x).nearCap = s.nearCap := rfl
@[simp] theorem setElem_farCap (s : State) (e : Nat) (x : Elem) : (setElem s e x).farCap = s.farCap := rfl
@[simp] theorem setElem_nearDown (s : State) (e : Nat) (x : Elem) : (setElem s e x).nearDown = s.nearDown := rfl
@[simp] theorem setElem_farDown (s : State) (e : Nat) (x : Elem) : (setElem s e x).farDown = s.farDown := rfl
@[simp] theorem setElem_fabDown (s : State) (e : Nat) (x : Elem) : (setElem s e x).fabDown = s.fabDown := rfl
@[simp] theorem setElem_portEdge (s : State) (e : Nat) (x : Elem) : (setElem s e x).portEdge = s.portEdge := rfl
@[simp] theorem setElem_deadEl (s : State) (e : Nat) (x : Elem) : (setElem s e x).deadEl = s.deadEl := rfl
@[simp] theorem setElem_launches (s : State) (e : Nat) (x : Elem) : (setElem s e x).launches = s.launches := rfl
@[simp] theorem setElem_lidLast (s : State) (e : Nat) (x : Elem) : (setElem s e x).lidLast = s.lidLast := rfl
@[simp] theorem setElem_slots (s : State) (e : Nat) (x : Elem) : (setElem s e x).slots = s.slots := rfl
@[simp] theorem setElem_waited (s : State) (e : Nat) (x : Elem) : (setElem s e x).waited = s.waited := rfl
@[simp] theorem setElem_tailSeen (s : State) (e : Nat) (x : Elem) : (setElem s e x).tailSeen = s.tailSeen := rfl
@[simp] theorem setElem_rl (s : State) (e : Nat) (x : Elem) : (setElem s e x).rl = s.rl := rfl
@[simp] theorem setElem_quants (s : State) (e : Nat) (x : Elem) : (setElem s e x).quants = s.quants := rfl
@[simp] theorem setElem_net (s : State) (e : Nat) (x : Elem) : (setElem s e x).net = s.net := rfl
@[simp] theorem setElem_bars (s : State) (e : Nat) (x : Elem) : (setElem s e x).bars = s.bars := rfl
@[simp] theorem setElem_groups (s : State) (e : Nat) (x : Elem) : (setElem s e x).groups = s.groups := rfl
@[simp] theorem setElem_hseq (s : State) (e : Nat) (x : Elem) : (setElem s e x).hseq = s.hseq := rfl
@[simp] theorem setElem_marks (s : State) (e : Nat) (x : Elem) : (setElem s e x).marks = s.marks := rfl
@[simp] theorem setElem_links (s : State) (e : Nat) (x : Elem) : (setElem s e x).links = s.links := rfl
@[simp] theorem setElem_spares (s : State) (e : Nat) (x : Elem) : (setElem s e x).spares = s.spares := rfl
@[simp] theorem setElem_rowHits (s : State) (e : Nat) (x : Elem) : (setElem s e x).rowHits = s.rowHits := rfl
@[simp] theorem setElem_spent (s : State) (e : Nat) (x : Elem) : (setElem s e x).spent = s.spent := rfl
@[simp] theorem setElem_ends (s : State) (e : Nat) (x : Elem) : (setElem s e x).ends = s.ends := rfl
@[simp] theorem setElem_stale (s : State) (e : Nat) (x : Elem) : (setElem s e x).stale = s.stale := rfl
@[simp] theorem setElem_renewed (s : State) (e : Nat) (x : Elem) : (setElem s e x).renewed = s.renewed := rfl
@[simp] theorem setElem_cfAway (s : State) (e : Nat) (x : Elem) : (setElem s e x).cfAway = s.cfAway := rfl
@[simp] theorem setElem_rslots (s : State) (e : Nat) (x : Elem) : (setElem s e x).rslots = s.rslots := rfl
@[simp] theorem setElem_anns (s : State) (e : Nat) (x : Elem) : (setElem s e x).anns = s.anns := rfl
@[simp] theorem setElem_annKept (s : State) (e : Nat) (x : Elem) : (setElem s e x).annKept = s.annKept := rfl
@[simp] theorem setElem_pulls (s : State) (e : Nat) (x : Elem) : (setElem s e x).pulls = s.pulls := rfl
@[simp] theorem setElem_chunks (s : State) (e : Nat) (x : Elem) : (setElem s e x).chunks = s.chunks := rfl
@[simp] theorem setElem_asks (s : State) (e : Nat) (x : Elem) : (setElem s e x).asks = s.asks := rfl
@[simp] theorem setElem_bulk (s : State) (e : Nat) (x : Elem) : (setElem s e x).bulk = s.bulk := rfl
@[simp] theorem setElem_roundGen (s : State) (e : Nat) (x : Elem) : (setElem s e x).roundGen = s.roundGen := rfl
@[simp] theorem setElem_roundNo (s : State) (e : Nat) (x : Elem) : (setElem s e x).roundNo = s.roundNo := rfl
@[simp] theorem setElem_sysStart (s : State) (e : Nat) (x : Elem) : (setElem s e x).sysStart = s.sysStart := rfl
@[simp] theorem setElem_sysSeen (s : State) (e : Nat) (x : Elem) : (setElem s e x).sysSeen = s.sysSeen := rfl
@[simp] theorem setElem_reports (s : State) (e : Nat) (x : Elem) : (setElem s e x).reports = s.reports := rfl
@[simp] theorem setElem_heldIn (s : State) (e : Nat) (x : Elem) : (setElem s e x).heldIn = s.heldIn := rfl
@[simp] theorem setElem_obHist (s : State) (e : Nat) (x : Elem) : (setElem s e x).obHist = s.obHist := rfl
@[simp] theorem setElem_sysHist (s : State) (e : Nat) (x : Elem) : (setElem s e x).sysHist = s.sysHist := rfl
@[simp] theorem setElem_slDone (s : State) (e : Nat) (x : Elem) : (setElem s e x).slDone = s.slDone := rfl
@[simp] theorem setElem_hor (s : State) (e : Nat) (x : Elem) : (setElem s e x).hor = s.hor := rfl
@[simp] theorem setElem_thermal (s : State) (e : Nat) (x : Elem) : (setElem s e x).thermal = s.thermal := rfl
@[simp] theorem setElem_hostLost (s : State) (e : Nat) (x : Elem) : (setElem s e x).hostLost = s.hostLost := rfl
@[simp] theorem setElem_pre (s : State) (e : Nat) (x : Elem) : (setElem s e x).pre = s.pre := rfl
@[simp] theorem setElem_ctxs (s : State) (e : Nat) (x : Elem) : (setElem s e x).ctxs = s.ctxs := rfl
@[simp] theorem setElem_out (s : State) (e : Nat) (x : Elem) : (setElem s e x).out = s.out := rfl

/-! ## modClus -/

@[simp] theorem modClus_agenda (s : State) (c : Nat) (f : Cluster → Cluster) : (modClus s c f).agenda = s.agenda := rfl
@[simp] theorem modClus_tick (s : State) (c : Nat) (f : Cluster → Cluster) : (modClus s c f).tick = s.tick := rfl
@[simp] theorem modClus_cur (s : State) (c : Nat) (f : Cluster → Cluster) : (modClus s c f).cur = s.cur := rfl
@[simp] theorem modClus_curQ (s : State) (c : Nat) (f : Cluster → Cluster) : (modClus s c f).curQ = s.curQ := rfl
@[simp] theorem modClus_curJ (s : State) (c : Nat) (f : Cluster → Cluster) : (modClus s c f).curJ = s.curJ := rfl
@[simp] theorem modClus_elems (s : State) (c : Nat) (f : Cluster → Cluster) : (modClus s c f).elems = s.elems := rfl
@[simp] theorem modClus_clusters (s : State) (c : Nat) (f : Cluster → Cluster) : (modClus s c f).clusters = tput s.clusters c (f (clus s c)) := rfl
@[simp] theorem modClus_dies (s : State) (c : Nat) (f : Cluster → Cluster) : (modClus s c f).dies = s.dies := rfl
@[simp] theorem modClus_queues (s : State) (c : Nat) (f : Cluster → Cluster) : (modClus s c f).queues = s.queues := rfl
@[simp] theorem modClus_regs (s : State) (c : Nat) (f : Cluster → Cluster) : (modClus s c f).regs = s.regs := rfl
@[simp] theorem modClus_mem (s : State) (c : Nat) (f : Cluster → Cluster) : (modClus s c f).mem = s.mem := rfl
@[simp] theorem modClus_memBad (s : State) (c : Nat) (f : Cluster → Cluster) : (modClus s c f).memBad = s.memBad := rfl
@[simp] theorem modClus_memTodo (s : State) (c : Nat) (f : Cluster → Cluster) : (modClus s c f).memTodo = s.memTodo := rfl
@[simp] theorem modClus_stateSet (s : State) (c : Nat) (f : Cluster → Cluster) : (modClus s c f).stateSet = s.stateSet := rfl
@[simp] theorem modClus_memEdge (s : State) (c : Nat) (f : Cluster → Cluster) : (modClus s c f).memEdge = s.memEdge := rfl
@[simp] theorem modClus_nearCap (s : State) (c : Nat) (f : Cluster → Cluster) : (modClus s c f).nearCap = s.nearCap := rfl
@[simp] theorem modClus_farCap (s : State) (c : Nat) (f : Cluster → Cluster) : (modClus s c f).farCap = s.farCap := rfl
@[simp] theorem modClus_nearDown (s : State) (c : Nat) (f : Cluster → Cluster) : (modClus s c f).nearDown = s.nearDown := rfl
@[simp] theorem modClus_farDown (s : State) (c : Nat) (f : Cluster → Cluster) : (modClus s c f).farDown = s.farDown := rfl
@[simp] theorem modClus_fabDown (s : State) (c : Nat) (f : Cluster → Cluster) : (modClus s c f).fabDown = s.fabDown := rfl
@[simp] theorem modClus_portEdge (s : State) (c : Nat) (f : Cluster → Cluster) : (modClus s c f).portEdge = s.portEdge := rfl
@[simp] theorem modClus_deadEl (s : State) (c : Nat) (f : Cluster → Cluster) : (modClus s c f).deadEl = s.deadEl := rfl
@[simp] theorem modClus_launches (s : State) (c : Nat) (f : Cluster → Cluster) : (modClus s c f).launches = s.launches := rfl
@[simp] theorem modClus_lidLast (s : State) (c : Nat) (f : Cluster → Cluster) : (modClus s c f).lidLast = s.lidLast := rfl
@[simp] theorem modClus_slots (s : State) (c : Nat) (f : Cluster → Cluster) : (modClus s c f).slots = s.slots := rfl
@[simp] theorem modClus_waited (s : State) (c : Nat) (f : Cluster → Cluster) : (modClus s c f).waited = s.waited := rfl
@[simp] theorem modClus_tailSeen (s : State) (c : Nat) (f : Cluster → Cluster) : (modClus s c f).tailSeen = s.tailSeen := rfl
@[simp] theorem modClus_rl (s : State) (c : Nat) (f : Cluster → Cluster) : (modClus s c f).rl = s.rl := rfl
@[simp] theorem modClus_quants (s : State) (c : Nat) (f : Cluster → Cluster) : (modClus s c f).quants = s.quants := rfl
@[simp] theorem modClus_net (s : State) (c : Nat) (f : Cluster → Cluster) : (modClus s c f).net = s.net := rfl
@[simp] theorem modClus_bars (s : State) (c : Nat) (f : Cluster → Cluster) : (modClus s c f).bars = s.bars := rfl
@[simp] theorem modClus_groups (s : State) (c : Nat) (f : Cluster → Cluster) : (modClus s c f).groups = s.groups := rfl
@[simp] theorem modClus_hseq (s : State) (c : Nat) (f : Cluster → Cluster) : (modClus s c f).hseq = s.hseq := rfl
@[simp] theorem modClus_marks (s : State) (c : Nat) (f : Cluster → Cluster) : (modClus s c f).marks = s.marks := rfl
@[simp] theorem modClus_links (s : State) (c : Nat) (f : Cluster → Cluster) : (modClus s c f).links = s.links := rfl
@[simp] theorem modClus_spares (s : State) (c : Nat) (f : Cluster → Cluster) : (modClus s c f).spares = s.spares := rfl
@[simp] theorem modClus_rowHits (s : State) (c : Nat) (f : Cluster → Cluster) : (modClus s c f).rowHits = s.rowHits := rfl
@[simp] theorem modClus_spent (s : State) (c : Nat) (f : Cluster → Cluster) : (modClus s c f).spent = s.spent := rfl
@[simp] theorem modClus_ends (s : State) (c : Nat) (f : Cluster → Cluster) : (modClus s c f).ends = s.ends := rfl
@[simp] theorem modClus_stale (s : State) (c : Nat) (f : Cluster → Cluster) : (modClus s c f).stale = s.stale := rfl
@[simp] theorem modClus_renewed (s : State) (c : Nat) (f : Cluster → Cluster) : (modClus s c f).renewed = s.renewed := rfl
@[simp] theorem modClus_cfAway (s : State) (c : Nat) (f : Cluster → Cluster) : (modClus s c f).cfAway = s.cfAway := rfl
@[simp] theorem modClus_rslots (s : State) (c : Nat) (f : Cluster → Cluster) : (modClus s c f).rslots = s.rslots := rfl
@[simp] theorem modClus_anns (s : State) (c : Nat) (f : Cluster → Cluster) : (modClus s c f).anns = s.anns := rfl
@[simp] theorem modClus_annKept (s : State) (c : Nat) (f : Cluster → Cluster) : (modClus s c f).annKept = s.annKept := rfl
@[simp] theorem modClus_pulls (s : State) (c : Nat) (f : Cluster → Cluster) : (modClus s c f).pulls = s.pulls := rfl
@[simp] theorem modClus_chunks (s : State) (c : Nat) (f : Cluster → Cluster) : (modClus s c f).chunks = s.chunks := rfl
@[simp] theorem modClus_asks (s : State) (c : Nat) (f : Cluster → Cluster) : (modClus s c f).asks = s.asks := rfl
@[simp] theorem modClus_bulk (s : State) (c : Nat) (f : Cluster → Cluster) : (modClus s c f).bulk = s.bulk := rfl
@[simp] theorem modClus_roundGen (s : State) (c : Nat) (f : Cluster → Cluster) : (modClus s c f).roundGen = s.roundGen := rfl
@[simp] theorem modClus_roundNo (s : State) (c : Nat) (f : Cluster → Cluster) : (modClus s c f).roundNo = s.roundNo := rfl
@[simp] theorem modClus_sysStart (s : State) (c : Nat) (f : Cluster → Cluster) : (modClus s c f).sysStart = s.sysStart := rfl
@[simp] theorem modClus_sysSeen (s : State) (c : Nat) (f : Cluster → Cluster) : (modClus s c f).sysSeen = s.sysSeen := rfl
@[simp] theorem modClus_reports (s : State) (c : Nat) (f : Cluster → Cluster) : (modClus s c f).reports = s.reports := rfl
@[simp] theorem modClus_heldIn (s : State) (c : Nat) (f : Cluster → Cluster) : (modClus s c f).heldIn = s.heldIn := rfl
@[simp] theorem modClus_obHist (s : State) (c : Nat) (f : Cluster → Cluster) : (modClus s c f).obHist = s.obHist := rfl
@[simp] theorem modClus_sysHist (s : State) (c : Nat) (f : Cluster → Cluster) : (modClus s c f).sysHist = s.sysHist := rfl
@[simp] theorem modClus_slDone (s : State) (c : Nat) (f : Cluster → Cluster) : (modClus s c f).slDone = s.slDone := rfl
@[simp] theorem modClus_hor (s : State) (c : Nat) (f : Cluster → Cluster) : (modClus s c f).hor = s.hor := rfl
@[simp] theorem modClus_thermal (s : State) (c : Nat) (f : Cluster → Cluster) : (modClus s c f).thermal = s.thermal := rfl
@[simp] theorem modClus_hostLost (s : State) (c : Nat) (f : Cluster → Cluster) : (modClus s c f).hostLost = s.hostLost := rfl
@[simp] theorem modClus_pre (s : State) (c : Nat) (f : Cluster → Cluster) : (modClus s c f).pre = s.pre := rfl
@[simp] theorem modClus_ctxs (s : State) (c : Nat) (f : Cluster → Cluster) : (modClus s c f).ctxs = s.ctxs := rfl
@[simp] theorem modClus_out (s : State) (c : Nat) (f : Cluster → Cluster) : (modClus s c f).out = s.out := rfl

/-! ## modDie -/

@[simp] theorem modDie_agenda (s : State) (d : Nat) (f : Die → Die) : (modDie s d f).agenda = s.agenda := rfl
@[simp] theorem modDie_tick (s : State) (d : Nat) (f : Die → Die) : (modDie s d f).tick = s.tick := rfl
@[simp] theorem modDie_cur (s : State) (d : Nat) (f : Die → Die) : (modDie s d f).cur = s.cur := rfl
@[simp] theorem modDie_curQ (s : State) (d : Nat) (f : Die → Die) : (modDie s d f).curQ = s.curQ := rfl
@[simp] theorem modDie_curJ (s : State) (d : Nat) (f : Die → Die) : (modDie s d f).curJ = s.curJ := rfl
@[simp] theorem modDie_elems (s : State) (d : Nat) (f : Die → Die) : (modDie s d f).elems = s.elems := rfl
@[simp] theorem modDie_clusters (s : State) (d : Nat) (f : Die → Die) : (modDie s d f).clusters = s.clusters := rfl
@[simp] theorem modDie_dies (s : State) (d : Nat) (f : Die → Die) : (modDie s d f).dies = tput s.dies d (f (die s d)) := rfl
@[simp] theorem modDie_queues (s : State) (d : Nat) (f : Die → Die) : (modDie s d f).queues = s.queues := rfl
@[simp] theorem modDie_regs (s : State) (d : Nat) (f : Die → Die) : (modDie s d f).regs = s.regs := rfl
@[simp] theorem modDie_mem (s : State) (d : Nat) (f : Die → Die) : (modDie s d f).mem = s.mem := rfl
@[simp] theorem modDie_memBad (s : State) (d : Nat) (f : Die → Die) : (modDie s d f).memBad = s.memBad := rfl
@[simp] theorem modDie_memTodo (s : State) (d : Nat) (f : Die → Die) : (modDie s d f).memTodo = s.memTodo := rfl
@[simp] theorem modDie_stateSet (s : State) (d : Nat) (f : Die → Die) : (modDie s d f).stateSet = s.stateSet := rfl
@[simp] theorem modDie_memEdge (s : State) (d : Nat) (f : Die → Die) : (modDie s d f).memEdge = s.memEdge := rfl
@[simp] theorem modDie_nearCap (s : State) (d : Nat) (f : Die → Die) : (modDie s d f).nearCap = s.nearCap := rfl
@[simp] theorem modDie_farCap (s : State) (d : Nat) (f : Die → Die) : (modDie s d f).farCap = s.farCap := rfl
@[simp] theorem modDie_nearDown (s : State) (d : Nat) (f : Die → Die) : (modDie s d f).nearDown = s.nearDown := rfl
@[simp] theorem modDie_farDown (s : State) (d : Nat) (f : Die → Die) : (modDie s d f).farDown = s.farDown := rfl
@[simp] theorem modDie_fabDown (s : State) (d : Nat) (f : Die → Die) : (modDie s d f).fabDown = s.fabDown := rfl
@[simp] theorem modDie_portEdge (s : State) (d : Nat) (f : Die → Die) : (modDie s d f).portEdge = s.portEdge := rfl
@[simp] theorem modDie_deadEl (s : State) (d : Nat) (f : Die → Die) : (modDie s d f).deadEl = s.deadEl := rfl
@[simp] theorem modDie_launches (s : State) (d : Nat) (f : Die → Die) : (modDie s d f).launches = s.launches := rfl
@[simp] theorem modDie_lidLast (s : State) (d : Nat) (f : Die → Die) : (modDie s d f).lidLast = s.lidLast := rfl
@[simp] theorem modDie_slots (s : State) (d : Nat) (f : Die → Die) : (modDie s d f).slots = s.slots := rfl
@[simp] theorem modDie_waited (s : State) (d : Nat) (f : Die → Die) : (modDie s d f).waited = s.waited := rfl
@[simp] theorem modDie_tailSeen (s : State) (d : Nat) (f : Die → Die) : (modDie s d f).tailSeen = s.tailSeen := rfl
@[simp] theorem modDie_rl (s : State) (d : Nat) (f : Die → Die) : (modDie s d f).rl = s.rl := rfl
@[simp] theorem modDie_quants (s : State) (d : Nat) (f : Die → Die) : (modDie s d f).quants = s.quants := rfl
@[simp] theorem modDie_net (s : State) (d : Nat) (f : Die → Die) : (modDie s d f).net = s.net := rfl
@[simp] theorem modDie_bars (s : State) (d : Nat) (f : Die → Die) : (modDie s d f).bars = s.bars := rfl
@[simp] theorem modDie_groups (s : State) (d : Nat) (f : Die → Die) : (modDie s d f).groups = s.groups := rfl
@[simp] theorem modDie_hseq (s : State) (d : Nat) (f : Die → Die) : (modDie s d f).hseq = s.hseq := rfl
@[simp] theorem modDie_marks (s : State) (d : Nat) (f : Die → Die) : (modDie s d f).marks = s.marks := rfl
@[simp] theorem modDie_links (s : State) (d : Nat) (f : Die → Die) : (modDie s d f).links = s.links := rfl
@[simp] theorem modDie_spares (s : State) (d : Nat) (f : Die → Die) : (modDie s d f).spares = s.spares := rfl
@[simp] theorem modDie_rowHits (s : State) (d : Nat) (f : Die → Die) : (modDie s d f).rowHits = s.rowHits := rfl
@[simp] theorem modDie_spent (s : State) (d : Nat) (f : Die → Die) : (modDie s d f).spent = s.spent := rfl
@[simp] theorem modDie_ends (s : State) (d : Nat) (f : Die → Die) : (modDie s d f).ends = s.ends := rfl
@[simp] theorem modDie_stale (s : State) (d : Nat) (f : Die → Die) : (modDie s d f).stale = s.stale := rfl
@[simp] theorem modDie_renewed (s : State) (d : Nat) (f : Die → Die) : (modDie s d f).renewed = s.renewed := rfl
@[simp] theorem modDie_cfAway (s : State) (d : Nat) (f : Die → Die) : (modDie s d f).cfAway = s.cfAway := rfl
@[simp] theorem modDie_rslots (s : State) (d : Nat) (f : Die → Die) : (modDie s d f).rslots = s.rslots := rfl
@[simp] theorem modDie_anns (s : State) (d : Nat) (f : Die → Die) : (modDie s d f).anns = s.anns := rfl
@[simp] theorem modDie_annKept (s : State) (d : Nat) (f : Die → Die) : (modDie s d f).annKept = s.annKept := rfl
@[simp] theorem modDie_pulls (s : State) (d : Nat) (f : Die → Die) : (modDie s d f).pulls = s.pulls := rfl
@[simp] theorem modDie_chunks (s : State) (d : Nat) (f : Die → Die) : (modDie s d f).chunks = s.chunks := rfl
@[simp] theorem modDie_asks (s : State) (d : Nat) (f : Die → Die) : (modDie s d f).asks = s.asks := rfl
@[simp] theorem modDie_bulk (s : State) (d : Nat) (f : Die → Die) : (modDie s d f).bulk = s.bulk := rfl
@[simp] theorem modDie_roundGen (s : State) (d : Nat) (f : Die → Die) : (modDie s d f).roundGen = s.roundGen := rfl
@[simp] theorem modDie_roundNo (s : State) (d : Nat) (f : Die → Die) : (modDie s d f).roundNo = s.roundNo := rfl
@[simp] theorem modDie_sysStart (s : State) (d : Nat) (f : Die → Die) : (modDie s d f).sysStart = s.sysStart := rfl
@[simp] theorem modDie_sysSeen (s : State) (d : Nat) (f : Die → Die) : (modDie s d f).sysSeen = s.sysSeen := rfl
@[simp] theorem modDie_reports (s : State) (d : Nat) (f : Die → Die) : (modDie s d f).reports = s.reports := rfl
@[simp] theorem modDie_heldIn (s : State) (d : Nat) (f : Die → Die) : (modDie s d f).heldIn = s.heldIn := rfl
@[simp] theorem modDie_obHist (s : State) (d : Nat) (f : Die → Die) : (modDie s d f).obHist = s.obHist := rfl
@[simp] theorem modDie_sysHist (s : State) (d : Nat) (f : Die → Die) : (modDie s d f).sysHist = s.sysHist := rfl
@[simp] theorem modDie_slDone (s : State) (d : Nat) (f : Die → Die) : (modDie s d f).slDone = s.slDone := rfl
@[simp] theorem modDie_hor (s : State) (d : Nat) (f : Die → Die) : (modDie s d f).hor = s.hor := rfl
@[simp] theorem modDie_thermal (s : State) (d : Nat) (f : Die → Die) : (modDie s d f).thermal = s.thermal := rfl
@[simp] theorem modDie_hostLost (s : State) (d : Nat) (f : Die → Die) : (modDie s d f).hostLost = s.hostLost := rfl
@[simp] theorem modDie_pre (s : State) (d : Nat) (f : Die → Die) : (modDie s d f).pre = s.pre := rfl
@[simp] theorem modDie_ctxs (s : State) (d : Nat) (f : Die → Die) : (modDie s d f).ctxs = s.ctxs := rfl
@[simp] theorem modDie_out (s : State) (d : Nat) (f : Die → Die) : (modDie s d f).out = s.out := rfl

/-! ## modQueue -/

@[simp] theorem modQueue_agenda (s : State) (q : QueueId) (f : EQueue → EQueue) : (modQueue s q f).agenda = s.agenda := rfl
@[simp] theorem modQueue_tick (s : State) (q : QueueId) (f : EQueue → EQueue) : (modQueue s q f).tick = s.tick := rfl
@[simp] theorem modQueue_cur (s : State) (q : QueueId) (f : EQueue → EQueue) : (modQueue s q f).cur = s.cur := rfl
@[simp] theorem modQueue_curQ (s : State) (q : QueueId) (f : EQueue → EQueue) : (modQueue s q f).curQ = s.curQ := rfl
@[simp] theorem modQueue_curJ (s : State) (q : QueueId) (f : EQueue → EQueue) : (modQueue s q f).curJ = s.curJ := rfl
@[simp] theorem modQueue_elems (s : State) (q : QueueId) (f : EQueue → EQueue) : (modQueue s q f).elems = s.elems := rfl
@[simp] theorem modQueue_clusters (s : State) (q : QueueId) (f : EQueue → EQueue) : (modQueue s q f).clusters = s.clusters := rfl
@[simp] theorem modQueue_dies (s : State) (q : QueueId) (f : EQueue → EQueue) : (modQueue s q f).dies = s.dies := rfl
@[simp] theorem modQueue_queues (s : State) (q : QueueId) (f : EQueue → EQueue) : (modQueue s q f).queues = tput s.queues (qKey q) (f (queue s q)) := rfl
@[simp] theorem modQueue_regs (s : State) (q : QueueId) (f : EQueue → EQueue) : (modQueue s q f).regs = s.regs := rfl
@[simp] theorem modQueue_mem (s : State) (q : QueueId) (f : EQueue → EQueue) : (modQueue s q f).mem = s.mem := rfl
@[simp] theorem modQueue_memBad (s : State) (q : QueueId) (f : EQueue → EQueue) : (modQueue s q f).memBad = s.memBad := rfl
@[simp] theorem modQueue_memTodo (s : State) (q : QueueId) (f : EQueue → EQueue) : (modQueue s q f).memTodo = s.memTodo := rfl
@[simp] theorem modQueue_stateSet (s : State) (q : QueueId) (f : EQueue → EQueue) : (modQueue s q f).stateSet = s.stateSet := rfl
@[simp] theorem modQueue_memEdge (s : State) (q : QueueId) (f : EQueue → EQueue) : (modQueue s q f).memEdge = s.memEdge := rfl
@[simp] theorem modQueue_nearCap (s : State) (q : QueueId) (f : EQueue → EQueue) : (modQueue s q f).nearCap = s.nearCap := rfl
@[simp] theorem modQueue_farCap (s : State) (q : QueueId) (f : EQueue → EQueue) : (modQueue s q f).farCap = s.farCap := rfl
@[simp] theorem modQueue_nearDown (s : State) (q : QueueId) (f : EQueue → EQueue) : (modQueue s q f).nearDown = s.nearDown := rfl
@[simp] theorem modQueue_farDown (s : State) (q : QueueId) (f : EQueue → EQueue) : (modQueue s q f).farDown = s.farDown := rfl
@[simp] theorem modQueue_fabDown (s : State) (q : QueueId) (f : EQueue → EQueue) : (modQueue s q f).fabDown = s.fabDown := rfl
@[simp] theorem modQueue_portEdge (s : State) (q : QueueId) (f : EQueue → EQueue) : (modQueue s q f).portEdge = s.portEdge := rfl
@[simp] theorem modQueue_deadEl (s : State) (q : QueueId) (f : EQueue → EQueue) : (modQueue s q f).deadEl = s.deadEl := rfl
@[simp] theorem modQueue_launches (s : State) (q : QueueId) (f : EQueue → EQueue) : (modQueue s q f).launches = s.launches := rfl
@[simp] theorem modQueue_lidLast (s : State) (q : QueueId) (f : EQueue → EQueue) : (modQueue s q f).lidLast = s.lidLast := rfl
@[simp] theorem modQueue_slots (s : State) (q : QueueId) (f : EQueue → EQueue) : (modQueue s q f).slots = s.slots := rfl
@[simp] theorem modQueue_waited (s : State) (q : QueueId) (f : EQueue → EQueue) : (modQueue s q f).waited = s.waited := rfl
@[simp] theorem modQueue_tailSeen (s : State) (q : QueueId) (f : EQueue → EQueue) : (modQueue s q f).tailSeen = s.tailSeen := rfl
@[simp] theorem modQueue_rl (s : State) (q : QueueId) (f : EQueue → EQueue) : (modQueue s q f).rl = s.rl := rfl
@[simp] theorem modQueue_quants (s : State) (q : QueueId) (f : EQueue → EQueue) : (modQueue s q f).quants = s.quants := rfl
@[simp] theorem modQueue_net (s : State) (q : QueueId) (f : EQueue → EQueue) : (modQueue s q f).net = s.net := rfl
@[simp] theorem modQueue_bars (s : State) (q : QueueId) (f : EQueue → EQueue) : (modQueue s q f).bars = s.bars := rfl
@[simp] theorem modQueue_groups (s : State) (q : QueueId) (f : EQueue → EQueue) : (modQueue s q f).groups = s.groups := rfl
@[simp] theorem modQueue_hseq (s : State) (q : QueueId) (f : EQueue → EQueue) : (modQueue s q f).hseq = s.hseq := rfl
@[simp] theorem modQueue_marks (s : State) (q : QueueId) (f : EQueue → EQueue) : (modQueue s q f).marks = s.marks := rfl
@[simp] theorem modQueue_links (s : State) (q : QueueId) (f : EQueue → EQueue) : (modQueue s q f).links = s.links := rfl
@[simp] theorem modQueue_spares (s : State) (q : QueueId) (f : EQueue → EQueue) : (modQueue s q f).spares = s.spares := rfl
@[simp] theorem modQueue_rowHits (s : State) (q : QueueId) (f : EQueue → EQueue) : (modQueue s q f).rowHits = s.rowHits := rfl
@[simp] theorem modQueue_spent (s : State) (q : QueueId) (f : EQueue → EQueue) : (modQueue s q f).spent = s.spent := rfl
@[simp] theorem modQueue_ends (s : State) (q : QueueId) (f : EQueue → EQueue) : (modQueue s q f).ends = s.ends := rfl
@[simp] theorem modQueue_stale (s : State) (q : QueueId) (f : EQueue → EQueue) : (modQueue s q f).stale = s.stale := rfl
@[simp] theorem modQueue_renewed (s : State) (q : QueueId) (f : EQueue → EQueue) : (modQueue s q f).renewed = s.renewed := rfl
@[simp] theorem modQueue_cfAway (s : State) (q : QueueId) (f : EQueue → EQueue) : (modQueue s q f).cfAway = s.cfAway := rfl
@[simp] theorem modQueue_rslots (s : State) (q : QueueId) (f : EQueue → EQueue) : (modQueue s q f).rslots = s.rslots := rfl
@[simp] theorem modQueue_anns (s : State) (q : QueueId) (f : EQueue → EQueue) : (modQueue s q f).anns = s.anns := rfl
@[simp] theorem modQueue_annKept (s : State) (q : QueueId) (f : EQueue → EQueue) : (modQueue s q f).annKept = s.annKept := rfl
@[simp] theorem modQueue_pulls (s : State) (q : QueueId) (f : EQueue → EQueue) : (modQueue s q f).pulls = s.pulls := rfl
@[simp] theorem modQueue_chunks (s : State) (q : QueueId) (f : EQueue → EQueue) : (modQueue s q f).chunks = s.chunks := rfl
@[simp] theorem modQueue_asks (s : State) (q : QueueId) (f : EQueue → EQueue) : (modQueue s q f).asks = s.asks := rfl
@[simp] theorem modQueue_bulk (s : State) (q : QueueId) (f : EQueue → EQueue) : (modQueue s q f).bulk = s.bulk := rfl
@[simp] theorem modQueue_roundGen (s : State) (q : QueueId) (f : EQueue → EQueue) : (modQueue s q f).roundGen = s.roundGen := rfl
@[simp] theorem modQueue_roundNo (s : State) (q : QueueId) (f : EQueue → EQueue) : (modQueue s q f).roundNo = s.roundNo := rfl
@[simp] theorem modQueue_sysStart (s : State) (q : QueueId) (f : EQueue → EQueue) : (modQueue s q f).sysStart = s.sysStart := rfl
@[simp] theorem modQueue_sysSeen (s : State) (q : QueueId) (f : EQueue → EQueue) : (modQueue s q f).sysSeen = s.sysSeen := rfl
@[simp] theorem modQueue_reports (s : State) (q : QueueId) (f : EQueue → EQueue) : (modQueue s q f).reports = s.reports := rfl
@[simp] theorem modQueue_heldIn (s : State) (q : QueueId) (f : EQueue → EQueue) : (modQueue s q f).heldIn = s.heldIn := rfl
@[simp] theorem modQueue_obHist (s : State) (q : QueueId) (f : EQueue → EQueue) : (modQueue s q f).obHist = s.obHist := rfl
@[simp] theorem modQueue_sysHist (s : State) (q : QueueId) (f : EQueue → EQueue) : (modQueue s q f).sysHist = s.sysHist := rfl
@[simp] theorem modQueue_slDone (s : State) (q : QueueId) (f : EQueue → EQueue) : (modQueue s q f).slDone = s.slDone := rfl
@[simp] theorem modQueue_hor (s : State) (q : QueueId) (f : EQueue → EQueue) : (modQueue s q f).hor = s.hor := rfl
@[simp] theorem modQueue_thermal (s : State) (q : QueueId) (f : EQueue → EQueue) : (modQueue s q f).thermal = s.thermal := rfl
@[simp] theorem modQueue_hostLost (s : State) (q : QueueId) (f : EQueue → EQueue) : (modQueue s q f).hostLost = s.hostLost := rfl
@[simp] theorem modQueue_pre (s : State) (q : QueueId) (f : EQueue → EQueue) : (modQueue s q f).pre = s.pre := rfl
@[simp] theorem modQueue_ctxs (s : State) (q : QueueId) (f : EQueue → EQueue) : (modQueue s q f).ctxs = s.ctxs := rfl
@[simp] theorem modQueue_out (s : State) (q : QueueId) (f : EQueue → EQueue) : (modQueue s q f).out = s.out := rfl

/-! ## modElem -/

@[simp] theorem modElem_agenda (s : State) (e : Nat) (f : Elem → Elem) : (modElem s e f).agenda = s.agenda := rfl
@[simp] theorem modElem_tick (s : State) (e : Nat) (f : Elem → Elem) : (modElem s e f).tick = s.tick := rfl
@[simp] theorem modElem_cur (s : State) (e : Nat) (f : Elem → Elem) : (modElem s e f).cur = s.cur := rfl
@[simp] theorem modElem_curQ (s : State) (e : Nat) (f : Elem → Elem) : (modElem s e f).curQ = s.curQ := rfl
@[simp] theorem modElem_curJ (s : State) (e : Nat) (f : Elem → Elem) : (modElem s e f).curJ = s.curJ := rfl
@[simp] theorem modElem_clusters (s : State) (e : Nat) (f : Elem → Elem) : (modElem s e f).clusters = s.clusters := rfl
@[simp] theorem modElem_dies (s : State) (e : Nat) (f : Elem → Elem) : (modElem s e f).dies = s.dies := rfl
@[simp] theorem modElem_queues (s : State) (e : Nat) (f : Elem → Elem) : (modElem s e f).queues = s.queues := rfl
@[simp] theorem modElem_regs (s : State) (e : Nat) (f : Elem → Elem) : (modElem s e f).regs = s.regs := rfl
@[simp] theorem modElem_mem (s : State) (e : Nat) (f : Elem → Elem) : (modElem s e f).mem = s.mem := rfl
@[simp] theorem modElem_memBad (s : State) (e : Nat) (f : Elem → Elem) : (modElem s e f).memBad = s.memBad := rfl
@[simp] theorem modElem_memTodo (s : State) (e : Nat) (f : Elem → Elem) : (modElem s e f).memTodo = s.memTodo := rfl
@[simp] theorem modElem_stateSet (s : State) (e : Nat) (f : Elem → Elem) : (modElem s e f).stateSet = s.stateSet := rfl
@[simp] theorem modElem_memEdge (s : State) (e : Nat) (f : Elem → Elem) : (modElem s e f).memEdge = s.memEdge := rfl
@[simp] theorem modElem_nearCap (s : State) (e : Nat) (f : Elem → Elem) : (modElem s e f).nearCap = s.nearCap := rfl
@[simp] theorem modElem_farCap (s : State) (e : Nat) (f : Elem → Elem) : (modElem s e f).farCap = s.farCap := rfl
@[simp] theorem modElem_nearDown (s : State) (e : Nat) (f : Elem → Elem) : (modElem s e f).nearDown = s.nearDown := rfl
@[simp] theorem modElem_farDown (s : State) (e : Nat) (f : Elem → Elem) : (modElem s e f).farDown = s.farDown := rfl
@[simp] theorem modElem_fabDown (s : State) (e : Nat) (f : Elem → Elem) : (modElem s e f).fabDown = s.fabDown := rfl
@[simp] theorem modElem_portEdge (s : State) (e : Nat) (f : Elem → Elem) : (modElem s e f).portEdge = s.portEdge := rfl
@[simp] theorem modElem_deadEl (s : State) (e : Nat) (f : Elem → Elem) : (modElem s e f).deadEl = s.deadEl := rfl
@[simp] theorem modElem_launches (s : State) (e : Nat) (f : Elem → Elem) : (modElem s e f).launches = s.launches := rfl
@[simp] theorem modElem_lidLast (s : State) (e : Nat) (f : Elem → Elem) : (modElem s e f).lidLast = s.lidLast := rfl
@[simp] theorem modElem_slots (s : State) (e : Nat) (f : Elem → Elem) : (modElem s e f).slots = s.slots := rfl
@[simp] theorem modElem_waited (s : State) (e : Nat) (f : Elem → Elem) : (modElem s e f).waited = s.waited := rfl
@[simp] theorem modElem_tailSeen (s : State) (e : Nat) (f : Elem → Elem) : (modElem s e f).tailSeen = s.tailSeen := rfl
@[simp] theorem modElem_rl (s : State) (e : Nat) (f : Elem → Elem) : (modElem s e f).rl = s.rl := rfl
@[simp] theorem modElem_quants (s : State) (e : Nat) (f : Elem → Elem) : (modElem s e f).quants = s.quants := rfl
@[simp] theorem modElem_net (s : State) (e : Nat) (f : Elem → Elem) : (modElem s e f).net = s.net := rfl
@[simp] theorem modElem_bars (s : State) (e : Nat) (f : Elem → Elem) : (modElem s e f).bars = s.bars := rfl
@[simp] theorem modElem_groups (s : State) (e : Nat) (f : Elem → Elem) : (modElem s e f).groups = s.groups := rfl
@[simp] theorem modElem_hseq (s : State) (e : Nat) (f : Elem → Elem) : (modElem s e f).hseq = s.hseq := rfl
@[simp] theorem modElem_marks (s : State) (e : Nat) (f : Elem → Elem) : (modElem s e f).marks = s.marks := rfl
@[simp] theorem modElem_links (s : State) (e : Nat) (f : Elem → Elem) : (modElem s e f).links = s.links := rfl
@[simp] theorem modElem_spares (s : State) (e : Nat) (f : Elem → Elem) : (modElem s e f).spares = s.spares := rfl
@[simp] theorem modElem_rowHits (s : State) (e : Nat) (f : Elem → Elem) : (modElem s e f).rowHits = s.rowHits := rfl
@[simp] theorem modElem_spent (s : State) (e : Nat) (f : Elem → Elem) : (modElem s e f).spent = s.spent := rfl
@[simp] theorem modElem_ends (s : State) (e : Nat) (f : Elem → Elem) : (modElem s e f).ends = s.ends := rfl
@[simp] theorem modElem_stale (s : State) (e : Nat) (f : Elem → Elem) : (modElem s e f).stale = s.stale := rfl
@[simp] theorem modElem_renewed (s : State) (e : Nat) (f : Elem → Elem) : (modElem s e f).renewed = s.renewed := rfl
@[simp] theorem modElem_cfAway (s : State) (e : Nat) (f : Elem → Elem) : (modElem s e f).cfAway = s.cfAway := rfl
@[simp] theorem modElem_rslots (s : State) (e : Nat) (f : Elem → Elem) : (modElem s e f).rslots = s.rslots := rfl
@[simp] theorem modElem_anns (s : State) (e : Nat) (f : Elem → Elem) : (modElem s e f).anns = s.anns := rfl
@[simp] theorem modElem_annKept (s : State) (e : Nat) (f : Elem → Elem) : (modElem s e f).annKept = s.annKept := rfl
@[simp] theorem modElem_pulls (s : State) (e : Nat) (f : Elem → Elem) : (modElem s e f).pulls = s.pulls := rfl
@[simp] theorem modElem_chunks (s : State) (e : Nat) (f : Elem → Elem) : (modElem s e f).chunks = s.chunks := rfl
@[simp] theorem modElem_asks (s : State) (e : Nat) (f : Elem → Elem) : (modElem s e f).asks = s.asks := rfl
@[simp] theorem modElem_bulk (s : State) (e : Nat) (f : Elem → Elem) : (modElem s e f).bulk = s.bulk := rfl
@[simp] theorem modElem_roundGen (s : State) (e : Nat) (f : Elem → Elem) : (modElem s e f).roundGen = s.roundGen := rfl
@[simp] theorem modElem_roundNo (s : State) (e : Nat) (f : Elem → Elem) : (modElem s e f).roundNo = s.roundNo := rfl
@[simp] theorem modElem_sysStart (s : State) (e : Nat) (f : Elem → Elem) : (modElem s e f).sysStart = s.sysStart := rfl
@[simp] theorem modElem_sysSeen (s : State) (e : Nat) (f : Elem → Elem) : (modElem s e f).sysSeen = s.sysSeen := rfl
@[simp] theorem modElem_reports (s : State) (e : Nat) (f : Elem → Elem) : (modElem s e f).reports = s.reports := rfl
@[simp] theorem modElem_heldIn (s : State) (e : Nat) (f : Elem → Elem) : (modElem s e f).heldIn = s.heldIn := rfl
@[simp] theorem modElem_obHist (s : State) (e : Nat) (f : Elem → Elem) : (modElem s e f).obHist = s.obHist := rfl
@[simp] theorem modElem_sysHist (s : State) (e : Nat) (f : Elem → Elem) : (modElem s e f).sysHist = s.sysHist := rfl
@[simp] theorem modElem_slDone (s : State) (e : Nat) (f : Elem → Elem) : (modElem s e f).slDone = s.slDone := rfl
@[simp] theorem modElem_hor (s : State) (e : Nat) (f : Elem → Elem) : (modElem s e f).hor = s.hor := rfl
@[simp] theorem modElem_thermal (s : State) (e : Nat) (f : Elem → Elem) : (modElem s e f).thermal = s.thermal := rfl
@[simp] theorem modElem_hostLost (s : State) (e : Nat) (f : Elem → Elem) : (modElem s e f).hostLost = s.hostLost := rfl
@[simp] theorem modElem_pre (s : State) (e : Nat) (f : Elem → Elem) : (modElem s e f).pre = s.pre := rfl
@[simp] theorem modElem_ctxs (s : State) (e : Nat) (f : Elem → Elem) : (modElem s e f).ctxs = s.ctxs := rfl
@[simp] theorem modElem_out (s : State) (e : Nat) (f : Elem → Elem) : (modElem s e f).out = s.out := rfl

/-! ## modCur -/

@[simp] theorem modCur_agenda (s : State) (f : Elem → Elem) : (modCur s f).agenda = s.agenda := rfl
@[simp] theorem modCur_tick (s : State) (f : Elem → Elem) : (modCur s f).tick = s.tick := rfl
@[simp] theorem modCur_curQ (s : State) (f : Elem → Elem) : (modCur s f).curQ = s.curQ := rfl
@[simp] theorem modCur_curJ (s : State) (f : Elem → Elem) : (modCur s f).curJ = s.curJ := rfl
@[simp] theorem modCur_clusters (s : State) (f : Elem → Elem) : (modCur s f).clusters = s.clusters := rfl
@[simp] theorem modCur_dies (s : State) (f : Elem → Elem) : (modCur s f).dies = s.dies := rfl
@[simp] theorem modCur_queues (s : State) (f : Elem → Elem) : (modCur s f).queues = s.queues := rfl
@[simp] theorem modCur_regs (s : State) (f : Elem → Elem) : (modCur s f).regs = s.regs := rfl
@[simp] theorem modCur_mem (s : State) (f : Elem → Elem) : (modCur s f).mem = s.mem := rfl
@[simp] theorem modCur_memBad (s : State) (f : Elem → Elem) : (modCur s f).memBad = s.memBad := rfl
@[simp] theorem modCur_memTodo (s : State) (f : Elem → Elem) : (modCur s f).memTodo = s.memTodo := rfl
@[simp] theorem modCur_stateSet (s : State) (f : Elem → Elem) : (modCur s f).stateSet = s.stateSet := rfl
@[simp] theorem modCur_memEdge (s : State) (f : Elem → Elem) : (modCur s f).memEdge = s.memEdge := rfl
@[simp] theorem modCur_nearCap (s : State) (f : Elem → Elem) : (modCur s f).nearCap = s.nearCap := rfl
@[simp] theorem modCur_farCap (s : State) (f : Elem → Elem) : (modCur s f).farCap = s.farCap := rfl
@[simp] theorem modCur_nearDown (s : State) (f : Elem → Elem) : (modCur s f).nearDown = s.nearDown := rfl
@[simp] theorem modCur_farDown (s : State) (f : Elem → Elem) : (modCur s f).farDown = s.farDown := rfl
@[simp] theorem modCur_fabDown (s : State) (f : Elem → Elem) : (modCur s f).fabDown = s.fabDown := rfl
@[simp] theorem modCur_portEdge (s : State) (f : Elem → Elem) : (modCur s f).portEdge = s.portEdge := rfl
@[simp] theorem modCur_deadEl (s : State) (f : Elem → Elem) : (modCur s f).deadEl = s.deadEl := rfl
@[simp] theorem modCur_launches (s : State) (f : Elem → Elem) : (modCur s f).launches = s.launches := rfl
@[simp] theorem modCur_lidLast (s : State) (f : Elem → Elem) : (modCur s f).lidLast = s.lidLast := rfl
@[simp] theorem modCur_slots (s : State) (f : Elem → Elem) : (modCur s f).slots = s.slots := rfl
@[simp] theorem modCur_waited (s : State) (f : Elem → Elem) : (modCur s f).waited = s.waited := rfl
@[simp] theorem modCur_tailSeen (s : State) (f : Elem → Elem) : (modCur s f).tailSeen = s.tailSeen := rfl
@[simp] theorem modCur_rl (s : State) (f : Elem → Elem) : (modCur s f).rl = s.rl := rfl
@[simp] theorem modCur_quants (s : State) (f : Elem → Elem) : (modCur s f).quants = s.quants := rfl
@[simp] theorem modCur_net (s : State) (f : Elem → Elem) : (modCur s f).net = s.net := rfl
@[simp] theorem modCur_bars (s : State) (f : Elem → Elem) : (modCur s f).bars = s.bars := rfl
@[simp] theorem modCur_groups (s : State) (f : Elem → Elem) : (modCur s f).groups = s.groups := rfl
@[simp] theorem modCur_hseq (s : State) (f : Elem → Elem) : (modCur s f).hseq = s.hseq := rfl
@[simp] theorem modCur_marks (s : State) (f : Elem → Elem) : (modCur s f).marks = s.marks := rfl
@[simp] theorem modCur_links (s : State) (f : Elem → Elem) : (modCur s f).links = s.links := rfl
@[simp] theorem modCur_spares (s : State) (f : Elem → Elem) : (modCur s f).spares = s.spares := rfl
@[simp] theorem modCur_rowHits (s : State) (f : Elem → Elem) : (modCur s f).rowHits = s.rowHits := rfl
@[simp] theorem modCur_spent (s : State) (f : Elem → Elem) : (modCur s f).spent = s.spent := rfl
@[simp] theorem modCur_ends (s : State) (f : Elem → Elem) : (modCur s f).ends = s.ends := rfl
@[simp] theorem modCur_stale (s : State) (f : Elem → Elem) : (modCur s f).stale = s.stale := rfl
@[simp] theorem modCur_renewed (s : State) (f : Elem → Elem) : (modCur s f).renewed = s.renewed := rfl
@[simp] theorem modCur_cfAway (s : State) (f : Elem → Elem) : (modCur s f).cfAway = s.cfAway := rfl
@[simp] theorem modCur_rslots (s : State) (f : Elem → Elem) : (modCur s f).rslots = s.rslots := rfl
@[simp] theorem modCur_anns (s : State) (f : Elem → Elem) : (modCur s f).anns = s.anns := rfl
@[simp] theorem modCur_annKept (s : State) (f : Elem → Elem) : (modCur s f).annKept = s.annKept := rfl
@[simp] theorem modCur_pulls (s : State) (f : Elem → Elem) : (modCur s f).pulls = s.pulls := rfl
@[simp] theorem modCur_chunks (s : State) (f : Elem → Elem) : (modCur s f).chunks = s.chunks := rfl
@[simp] theorem modCur_asks (s : State) (f : Elem → Elem) : (modCur s f).asks = s.asks := rfl
@[simp] theorem modCur_bulk (s : State) (f : Elem → Elem) : (modCur s f).bulk = s.bulk := rfl
@[simp] theorem modCur_roundGen (s : State) (f : Elem → Elem) : (modCur s f).roundGen = s.roundGen := rfl
@[simp] theorem modCur_roundNo (s : State) (f : Elem → Elem) : (modCur s f).roundNo = s.roundNo := rfl
@[simp] theorem modCur_sysStart (s : State) (f : Elem → Elem) : (modCur s f).sysStart = s.sysStart := rfl
@[simp] theorem modCur_sysSeen (s : State) (f : Elem → Elem) : (modCur s f).sysSeen = s.sysSeen := rfl
@[simp] theorem modCur_reports (s : State) (f : Elem → Elem) : (modCur s f).reports = s.reports := rfl
@[simp] theorem modCur_heldIn (s : State) (f : Elem → Elem) : (modCur s f).heldIn = s.heldIn := rfl
@[simp] theorem modCur_obHist (s : State) (f : Elem → Elem) : (modCur s f).obHist = s.obHist := rfl
@[simp] theorem modCur_sysHist (s : State) (f : Elem → Elem) : (modCur s f).sysHist = s.sysHist := rfl
@[simp] theorem modCur_slDone (s : State) (f : Elem → Elem) : (modCur s f).slDone = s.slDone := rfl
@[simp] theorem modCur_hor (s : State) (f : Elem → Elem) : (modCur s f).hor = s.hor := rfl
@[simp] theorem modCur_thermal (s : State) (f : Elem → Elem) : (modCur s f).thermal = s.thermal := rfl
@[simp] theorem modCur_hostLost (s : State) (f : Elem → Elem) : (modCur s f).hostLost = s.hostLost := rfl
@[simp] theorem modCur_pre (s : State) (f : Elem → Elem) : (modCur s f).pre = s.pre := rfl
@[simp] theorem modCur_ctxs (s : State) (f : Elem → Elem) : (modCur s f).ctxs = s.ctxs := rfl
@[simp] theorem modCur_out (s : State) (f : Elem → Elem) : (modCur s f).out = s.out := rfl

/-! ## Reading back -/

theorem elem_modElem_same (s : State) (e : Nat) (f : Elem → Elem) : elem (modElem s e f) e = f (elem s e) := elem_setElem_same s e _
theorem elem_modElem_other (s : State) (e k : Nat) (f : Elem → Elem) (h : k ≠ e) : elem (modElem s e f) k = elem s k :=
  elem_setElem_other s e k _ h
theorem clus_modClus_same (s : State) (c : Nat) (f : Cluster → Cluster) : clus (modClus s c f) c = f (clus s c) := tget_tput_same _ _ _ _
theorem clus_modClus_other (s : State) (c k : Nat) (f : Cluster → Cluster) (h : k ≠ c) : clus (modClus s c f) k = clus s k :=
  tget_tput_other _ _ _ _ _ h
theorem die_modDie_same (s : State) (d : Nat) (f : Die → Die) : die (modDie s d f) d = f (die s d) := tget_tput_same _ _ _ _
theorem die_modDie_other (s : State) (d k : Nat) (f : Die → Die) (h : k ≠ d) : die (modDie s d f) k = die s k :=
  tget_tput_other _ _ _ _ _ h
theorem queue_modQueue_same (s : State) (q : QueueId) (f : EQueue → EQueue) : queue (modQueue s q f) q = f (queue s q) :=
  tget_tput_same _ _ _ _
theorem queue_modQueue_other (s : State) (q k : QueueId) (f : EQueue → EQueue) (h : qKey k ≠ qKey q) :
    queue (modQueue s q f) k = queue s k := tget_tput_other _ _ _ _ _ h

@[simp] theorem elem_modClus (s : State) (c e : Nat) (f : Cluster → Cluster) : elem (modClus s c f) e = elem s e := rfl
@[simp] theorem elem_modDie (s : State) (d e : Nat) (f : Die → Die) : elem (modDie s d f) e = elem s e := rfl
@[simp] theorem elem_modQueue (s : State) (q : QueueId) (e : Nat) (f : EQueue → EQueue) : elem (modQueue s q f) e = elem s e := rfl
@[simp] theorem clus_setElem (s : State) (e c : Nat) (x : Elem) : clus (setElem s e x) c = clus s c := rfl
@[simp] theorem clus_modElem (s : State) (e c : Nat) (f : Elem → Elem) : clus (modElem s e f) c = clus s c := rfl
@[simp] theorem clus_modCur (s : State) (c : Nat) (f : Elem → Elem) : clus (modCur s f) c = clus s c := rfl
@[simp] theorem clus_modQueue (s : State) (q : QueueId) (c : Nat) (f : EQueue → EQueue) : clus (modQueue s q f) c = clus s c := rfl
@[simp] theorem die_setElem (s : State) (e d : Nat) (x : Elem) : die (setElem s e x) d = die s d := rfl
@[simp] theorem die_modCur (s : State) (d : Nat) (f : Elem → Elem) : die (modCur s f) d = die s d := rfl
@[simp] theorem queue_setElem (s : State) (e : Nat) (q : QueueId) (x : Elem) : queue (setElem s e x) q = queue s q := rfl
@[simp] theorem queue_modCur (s : State) (q : QueueId) (f : Elem → Elem) : queue (modCur s f) q = queue s q := rfl
@[simp] theorem queue_modClus (s : State) (c : Nat) (q : QueueId) (f : Cluster → Cluster) : queue (modClus s c f) q = queue s q := rfl

/-! ## Elements -/

@[simp] theorem modE_get (f : Elem → Elem) (s : State) : (modE f >>= fun _ => getE) s = .ok (f (curElem s), modCur s f) := by
  rw [M_bind_ok (modE_ok f s), getE_ok, curElem_modCur]

theorem lsWrite_bmask (x : Elem) (off n v : Nat) : (lsWrite x off n v).bmask = x.bmask := by unfold lsWrite; split <;> (try split) <;> rfl
theorem lsWrite_csr (x : Elem) (off n v : Nat) : (lsWrite x off n v).csr = x.csr := by unfold lsWrite; split <;> (try split) <;> rfl
theorem lsWrite_x (x : Elem) (off n v : Nat) : (lsWrite x off n v).x = x.x := by unfold lsWrite; split <;> (try split) <;> rfl
theorem lsWrite_twp (x : Elem) (off n v : Nat) : (lsWrite x off n v).twp = x.twp := by unfold lsWrite; split <;> (try split) <;> rfl
theorem lsWrite_tst (x : Elem) (off n v : Nat) : (lsWrite x off n v).tst = x.tst := by unfold lsWrite; split <;> (try split) <;> rfl
theorem lsWrite_tfpf (x : Elem) (off n v : Nat) : (lsWrite x off n v).tfpf = x.tfpf := by unfold lsWrite; split <;> (try split) <;> rfl
theorem lsWrite_tfpr (x : Elem) (off n v : Nat) : (lsWrite x off n v).tfpr = x.tfpr := by unfold lsWrite; split <;> (try split) <;> rfl
theorem lsWrite_seq (x : Elem) (off n v : Nat) : (lsWrite x off n v).seq = x.seq := by unfold lsWrite; split <;> (try split) <;> rfl
theorem lsWrite_afterEret (x : Elem) (off n v : Nat) : (lsWrite x off n v).afterEret = x.afterEret := by unfold lsWrite; split <;> (try split) <;> rfl
theorem lsWrite_bf (x : Elem) (off n v : Nat) : (lsWrite x off n v).bf = x.bf := by unfold lsWrite; split <;> (try split) <;> rfl
theorem lsWrite_v (x : Elem) (off n v : Nat) : (lsWrite x off n v).v = x.v := by unfold lsWrite; split <;> (try split) <;> rfl
theorem lsWrite_m (x : Elem) (off n v : Nat) : (lsWrite x off n v).m = x.m := by unfold lsWrite; split <;> (try split) <;> rfl
theorem lsWrite_req (x : Elem) (off n v : Nat) : (lsWrite x off n v).req = x.req := by unfold lsWrite; split <;> (try split) <;> rfl
theorem lsWrite_chans (x : Elem) (off n v : Nat) : (lsWrite x off n v).chans = x.chans := by unfold lsWrite; split <;> (try split) <;> rfl
theorem lsWrite_inq (x : Elem) (off n v : Nat) : (lsWrite x off n v).inq = x.inq := by unfold lsWrite; split <;> (try split) <;> rfl
theorem lsWrite_seqNo (x : Elem) (off n v : Nat) : (lsWrite x off n v).seqNo = x.seqNo := by unfold lsWrite; split <;> (try split) <;> rfl
theorem lsWrite_occ (x : Elem) (off n v : Nat) : (lsWrite x off n v).occ = x.occ := by unfold lsWrite; split <;> (try split) <;> rfl
theorem lsWrite_fifo (x : Elem) (off n v : Nat) : (lsWrite x off n v).fifo = x.fifo := by unfold lsWrite; split <;> (try split) <;> rfl
theorem lsWrite_credit (x : Elem) (off n v : Nat) : (lsWrite x off n v).credit = x.credit := by unfold lsWrite; split <;> (try split) <;> rfl
theorem lsWrite_iq (x : Elem) (off n v : Nat) : (lsWrite x off n v).iq = x.iq := by unfold lsWrite; split <;> (try split) <;> rfl
theorem lsWrite_last (x : Elem) (off n v : Nat) : (lsWrite x off n v).last = x.last := by unfold lsWrite; split <;> (try split) <;> rfl
theorem lsWrite_run (x : Elem) (off n v : Nat) : (lsWrite x off n v).run = x.run := by unfold lsWrite; split <;> (try split) <;> rfl
theorem lsWrite_under (x : Elem) (off n v : Nat) : (lsWrite x off n v).under = x.under := by unfold lsWrite; split <;> (try split) <;> rfl
theorem lsWrite_fin (x : Elem) (off n v : Nat) : (lsWrite x off n v).fin = x.fin := by unfold lsWrite; split <;> (try split) <;> rfl
theorem lsWrite_halted (x : Elem) (off n v : Nat) : (lsWrite x off n v).halted = x.halted := by unfold lsWrite; split <;> (try split) <;> rfl
theorem lsWrite_stopping (x : Elem) (off n v : Nat) : (lsWrite x off n v).stopping = x.stopping := by unfold lsWrite; split <;> (try split) <;> rfl
theorem lsWrite_stall (x : Elem) (off n v : Nat) : (lsWrite x off n v).stall = x.stall := by unfold lsWrite; split <;> (try split) <;> rfl
theorem lsWrite_tlb (x : Elem) (off n v : Nat) : (lsWrite x off n v).tlb = x.tlb := by unfold lsWrite; split <;> (try split) <;> rfl

end Sys2Proof.Machine
end

