-- ==== Sys2Proof/Laws/Engine.lean ====
section
/-! SUPPORT. What the shared operations of engine commands and of arrivals do: a step of a command whose job is that of the turn, its issue
and its work, the end of a block and of a burst, and taking an act that has arrived. -/

namespace Sys2Proof.Machine

/-! ## The engines' monad -/

theorem EM_bind_ok {α β : Type} {m : EM α} {f : α → EM β} {s t : State} {a : α} (h : m s = .ok (a, t)) : (m >>= f) s = f a t := by
  show (m s >>= fun p => f p.1 p.2) = _
  rw [h]; rfl

theorem EM_bind_error {α β : Type} {m : EM α} {f : α → EM β} {s : State} {e : JobStop} (h : m s = .error e) : (m >>= f) s = .error e := by
  show (m s >>= fun p => f p.1 p.2) = _
  rw [h]; rfl

@[simp] theorem EM_pure {α : Type} (a : α) (s : State) : (pure a : EM α) s = .ok (a, s) := rfl
@[simp] theorem EM_get (s : State) : (get : EM State) s = .ok (s, s) := rfl
@[simp] theorem EM_set (s t : State) : (set t : EM Unit) s = .ok ((), t) := rfl
@[simp] theorem EM_modify (f : State → State) (s : State) : (modify f : EM Unit) s = .ok ((), f s) := rfl
@[simp] theorem emClus_ok (s : State) : emClus s = .ok (clus s s.curQ.idx, s) := rfl
@[simp] theorem emModClus_ok (f : Cluster → Cluster) (s : State) : emModClus f s = .ok ((), modClus s s.curQ.idx f) := rfl
@[simp] theorem stepEnd_ok (n : Nat) (s : State) : stepEnd n s = .ok ((), modQueue s s.curQ (fun x => { x with edge := some n })) := rfl

/-! ## A step of a command -/

/-- A step of a command whose job is that of the turn, runs and is not done: the job that the command leaves, or its fault. -/
theorem jobStep_of {s : State} {i : Instr} {j : Job} (f : Job → EM Job) (h1 : curJob s = some j) (h2 : j.fin = none) (h3 : j.state = 4)
    (h4 : encodeCmd i = some j.cmd) :
    (∀ k t, f j s = .ok (k, t) → jobStep i f s = .next (setJob t t.curQ k)) ∧
    (∀ e, f j s = .error e → jobStep i f s = .next (jobStopped s j e)) := by
  have hj : ({ ({ j with state := 4 } : Job) with cmd := (encodeCmd i).getD ({ j with state := 4 } : Job).cmd } : Job) = j := by
    cases j; simp_all
  have hst : ({ j with state := 4 } : Job) = j := by cases j; simp_all
  have e1 : (j.fin.isSome || j.state == 5 || j.state == 3) = false := by simp [h2, h3]
  constructor <;> intro a b <;> (try intro c) <;> simp_all [jobStep, jobGo]

theorem issueThen_issue {check work : Job → EM Job} {s t : State} {j k : Job} (hi : j.issued = false) (h : check j s = .ok (k, t)) :
    issueThen check work j s = .ok ({ k with issued := true }, t) := by
  simp only [issueThen, hi, Bool.false_eq_true, if_false]
  rw [EM_bind_ok h]
  rfl

theorem issueThen_fault {check work : Job → EM Job} {s : State} {j : Job} {e : JobStop} (hi : j.issued = false) (h : check j s = .error e) :
    issueThen check work j s = .error e := by
  simp only [issueThen, hi, Bool.false_eq_true, if_false]
  rw [EM_bind_error h]

theorem issueThen_work {check work : Job → EM Job} {s : State} {j : Job} (hi : j.issued = true) : issueThen check work j s = work j s := by
  simp [issueThen, hi]

theorem blockDone_ok {j : Job} {n m : Nat} {s : State} (hf : j.fin = none) :
    blockDone j n m s = .ok ({ j with prog := j.prog + m, aux := j.prog + m,
                                      fin := if n ≤ j.prog + m then some (bnat (jTrunc j)) else none },
                             modQueue s s.curQ (fun x => { x with edge := some 0 })) := by
  unfold blockDone
  rw [EM_bind_ok (stepEnd_ok 0 s)]
  simp only [EM_pure, doneIf]
  split <;> simp_all [jTrunc]

theorem copyDone_ok {n : Nat} {k : Job} {s : State} (hf : k.fin = none) (hp : jPages k = []) :
    copyDone n k s = .ok ({ k with fin := if n ≤ k.prog then some (bnat (jTrunc k)) else none }, s) := by
  unfold copyDone
  by_cases h : k.prog < n
  · simp only [h, if_true, Nat.not_le.mpr h, if_false, EM_pure]
    cases k; simp_all
  · simp [h, Nat.not_lt.mp h, hp, doneIf]

/-! ## Arrivals -/

/-- An act in flight that no earlier one precedes (between the same two units, or another push to one queue) can be taken. -/
theorem takePacket_of {s : State} {n : Nat} {p : Packet} (h1 : s.net[n]? = some p)
    (h2 : ∀ q ∈ s.net.take n, arrivesFirst q p = false) : takePacket s n = some (p, { s with net := dropAt s.net n }) := by
  have h3 : (s.net.take n).any (fun q => arrivesFirst q p) = false :=
    List.any_eq_false.mpr (fun q hq => by rw [h2 q hq]; decide)
  unfold takePacket
  simp only [h1, h3]
  rfl

/-- All that an arrival by a port can do (R345, R352). -/
theorem comeIn_eq (s : State) (a : Arrival) :
    comeIn s a = if portTakes s (arrivalPort a) = true then
        (if portHeld s (arrivalPort a) = true ∧ isMarker a = false then
          { s with heldIn := s.heldIn ++ [{ edge := tget s.sysSeen (arrivalPort a) 0, arr := a }] }
        else takeArrival s a)
      else s := by
  cases h : portTakes s (arrivalPort a) <;> cases g : portHeld s (arrivalPort a) <;> cases m : isMarker a <;>
    simp [comeIn, portOpen, h, g, m]

/-- Without serial runs that have finished, none is left to commit (log 15). -/
theorem commitSerial_none {s : State} {lid : BitVec 32} (h : ∀ r ∈ domFinished s lid, r.2.serial = false) : commitSerial s lid = s := by
  have e : (domFinished s lid).filter (fun r => r.2.serial) = [] := by
    rw [List.filter_eq_nil_iff]; intro r hr; simp [h r hr]
  simp only [commitSerial, e]
  rfl

/-- An answer is one to an ended entry only where GCFG has put an entry in another's place (R252). -/
theorem oldAnswer_renewed {s : State} {g q : Nat} (h : g ∉ s.renewed) : oldAnswer s g q = false := by
  have e : s.renewed.contains g = false := by simpa using h
  unfold oldAnswer
  rw [e, Bool.false_and]

/-- A packet that is held is planned by the passing of the edge that it waits for, or stays held. -/
theorem releaseHeld_keeps {s : State} {h : HeldIn} (m : h ∈ s.heldIn) :
    h ∈ (releaseHeld s).heldIn ∨ Turn.held h.arr ∈ (releaseHeld s).agenda := by
  by_cases e : h.edge ≤ s.regs.srno
  · right
    simp only [releaseHeld, List.mem_append, List.mem_map, List.mem_filter]
    exact .inl ⟨h, ⟨m, by simp [e]⟩, rfl⟩
  · left
    simp only [releaseHeld, List.mem_filter]
    exact ⟨m, by simp [e]⟩

end Sys2Proof.Machine
end

