-- ==== Sys2Proof/Laws/Memory.lean ====
section
/-! SUPPORT. The laws of the tables and memories: reading after writing, the canonical form kept by every operation, equal memories for
equal bytes, little-endian numbers; and what the writes of physical memory keep. -/

namespace Sys2Proof.Machine

/-! ## Tables -/

theorem rising_iff {α : Type} (t : Tbl α) : rising t = true ↔ t.Pairwise (fun p q => p.1 < q.1) := by
  induction t with
  | nil => simp [rising]
  | cons p t ih =>
    cases t with
    | nil => simp [rising]
    | cons q t =>
      obtain ⟨k, v⟩ := p
      obtain ⟨j, w⟩ := q
      simp only [rising, Bool.and_eq_true, ih, List.pairwise_cons]
      constructor
      · rintro ⟨h, h2, h3⟩
        have hk : k < j := Nat.blt_eq.mp h
        refine ⟨fun x hx => ?_, h2, h3⟩
        rcases List.mem_cons.mp hx with rfl | hx
        · exact hk
        · exact Nat.lt_trans hk (h2 x hx)
      · rintro ⟨h, h2, h3⟩
        exact ⟨Nat.blt_eq.mpr (h (j, w) List.mem_cons_self), h2, h3⟩

theorem mem_tput {α : Type} {t : Tbl α} {a : Nat} {x : α} {p : Nat × α} (h : p ∈ tput t a x) : p = (a, x) ∨ p ∈ t := by
  induction t with
  | nil => simpa [tput] using h
  | cons q t ih =>
    obtain ⟨k, v⟩ := q
    simp only [tput] at h
    split at h
    · rcases List.mem_cons.mp h with h | h
      · exact .inl h
      · exact .inr h
    · split at h
      · rcases List.mem_cons.mp h with h | h
        · exact .inl h
        · exact .inr (List.mem_cons_of_mem _ h)
      · rcases List.mem_cons.mp h with h | h
        · exact .inr (h ▸ List.mem_cons_self)
        · rcases ih h with h | h
          · exact .inl h
          · exact .inr (List.mem_cons_of_mem _ h)

theorem mem_tdel {α : Type} {t : Tbl α} {a : Nat} {p : Nat × α} (h : p ∈ tdel t a) : p ∈ t := by
  induction t with
  | nil => simp [tdel] at h
  | cons q t ih =>
    obtain ⟨k, v⟩ := q
    simp only [tdel] at h
    split at h
    · exact List.mem_cons_of_mem _ h
    · rcases List.mem_cons.mp h with h | h
      · exact h ▸ List.mem_cons_self
      · exact List.mem_cons_of_mem _ (ih h)

theorem pairwise_tput {α : Type} {t : Tbl α} (a : Nat) (x : α) (h : t.Pairwise (fun p q => p.1 < q.1)) :
    (tput t a x).Pairwise (fun p q => p.1 < q.1) := by
  induction t with
  | nil => simp [tput]
  | cons q t ih =>
    obtain ⟨k, v⟩ := q
    rw [List.pairwise_cons] at h
    simp only [tput]
    split
    · rename_i hlt
      refine List.pairwise_cons.mpr ⟨fun p hp => ?_, List.pairwise_cons.mpr h⟩
      rcases List.mem_cons.mp hp with rfl | hp
      · exact hlt
      · exact Nat.lt_trans hlt (h.1 p hp)
    · split
      · rename_i hn he
        have : a = k := by simpa using he
        subst this
        exact List.pairwise_cons.mpr h
      · rename_i hn he
        have hka : k < a := by simp at he; omega
        refine List.pairwise_cons.mpr ⟨fun p hp => ?_, ih h.2⟩
        rcases mem_tput hp with rfl | hp
        · exact hka
        · exact h.1 p hp

theorem pairwise_tdel {α : Type} {t : Tbl α} (a : Nat) (h : t.Pairwise (fun p q => p.1 < q.1)) :
    (tdel t a).Pairwise (fun p q => p.1 < q.1) := by
  induction t with
  | nil => simp [tdel]
  | cons q t ih =>
    obtain ⟨k, v⟩ := q
    rw [List.pairwise_cons] at h
    simp only [tdel]
    split
    · exact h.2
    · exact List.pairwise_cons.mpr ⟨fun p hp => h.1 p (mem_tdel hp), ih h.2⟩

theorem rising_tput {α : Type} {t : Tbl α} (a : Nat) (x : α) (h : rising t = true) : rising (tput t a x) = true :=
  (rising_iff _).mpr (pairwise_tput a x ((rising_iff t).mp h))

theorem tget_unlisted {α : Type} {t : Tbl α} {a : Nat} (d : α) (h : ∀ p ∈ t, p.1 ≠ a) : tget t a d = d := by
  induction t with
  | nil => rfl
  | cons q t ih =>
    obtain ⟨k, v⟩ := q
    have hk : (k == a) = false := by simpa using h (k, v) List.mem_cons_self
    simp only [tget, hk, Bool.false_eq_true, if_false]
    exact ih (fun p hp => h p (List.mem_cons_of_mem _ hp))

theorem tget_tdel_same {α : Type} {t : Tbl α} (a : Nat) (d : α) (h : t.Pairwise (fun p q => p.1 < q.1)) : tget (tdel t a) a d = d := by
  induction t with
  | nil => rfl
  | cons q t ih =>
    obtain ⟨k, v⟩ := q
    rw [List.pairwise_cons] at h
    simp only [tdel]
    split
    · rename_i he
      have hk : k = a := by simpa using he
      exact tget_unlisted d (fun p hp => by have := h.1 p hp; simp only at this; omega)
    · rename_i he
      simp only [tget, Bool.not_eq_true] at he ⊢
      simp only [he, Bool.false_eq_true, if_false]
      exact ih h.2

theorem tget_tdel_other {α : Type} (t : Tbl α) (a b : Nat) (d : α) (h : b ≠ a) : tget (tdel t a) b d = tget t b d := by
  induction t with
  | nil => rfl
  | cons q t ih =>
    obtain ⟨k, v⟩ := q
    simp only [tdel]
    split
    · rename_i he
      have hk : (k == b) = false := by simp at he ⊢; omega
      simp [tget, hk]
    · simp only [tget, ih]

/-! ## Memories -/

theorem noZero_iff (m : Mem) : noZero m = true ↔ ∀ p ∈ m, p.2 ≠ 0 := by
  induction m with
  | nil => simp [noZero]
  | cons p m ih =>
    obtain ⟨a, b⟩ := p
    simp [noZero, ih]

theorem wf_iff (m : Mem) : Memory.wf m = true ↔ m.Pairwise (fun p q => p.1 < q.1) ∧ ∀ p ∈ m, p.2 ≠ 0 := by
  simp only [Memory.wf, Bool.and_eq_true, rising_iff, noZero_iff]

theorem wf_nil : Memory.wf [] = true := rfl

theorem wf_memPut {m : Mem} (a : Nat) (b : Byte) (h : Memory.wf m = true) : Memory.wf (memPut m a b) = true := by
  rw [wf_iff] at h ⊢
  unfold memPut
  split
  · exact ⟨pairwise_tdel a h.1, fun p hp => h.2 p (mem_tdel hp)⟩
  · rename_i hb
    refine ⟨pairwise_tput a b h.1, fun p hp => ?_⟩
    rcases mem_tput hp with rfl | hp
    · simpa using hb
    · exact h.2 p hp

theorem wf_memWrite {m : Mem} (a : Nat) (l : List Byte) (h : Memory.wf m = true) : Memory.wf (memWrite m a l) = true := by
  induction l generalizing m a with
  | nil => exact h
  | cons b l ih => exact ih (a + 1) (wf_memPut a b h)

theorem wf_memPutNat {m : Mem} (a n v : Nat) (h : Memory.wf m = true) : Memory.wf (memPutNat m a n v) = true := wf_memWrite a _ h

theorem wf_filter {m : Mem} (p : Host.Cell → Bool) (h : Memory.wf m = true) : Memory.wf (m.filter p) = true := by
  rw [wf_iff] at h ⊢
  exact ⟨h.1.filter p, fun q hq => h.2 q (List.mem_of_mem_filter hq)⟩

theorem wf_memClear {m : Mem} (a n : Nat) (h : Memory.wf m = true) : Memory.wf (memClear m a n) = true := wf_filter _ h

theorem memGet_memPut_same {m : Mem} (a : Nat) (b : Byte) (h : Memory.wf m = true) : memGet (memPut m a b) a = b := by
  unfold memGet memPut
  split
  · rename_i hb
    rw [tget_tdel_same a 0 ((wf_iff m).mp h).1]
    exact (beq_iff_eq.mp hb).symm
  · exact tget_tput_same _ _ _ _

theorem memGet_memPut_other (m : Mem) (a c : Nat) (b : Byte) (h : c ≠ a) : memGet (memPut m a b) c = memGet m c := by
  unfold memGet memPut
  split
  · exact tget_tdel_other _ _ _ _ h
  · exact tget_tput_other _ _ _ _ _ h

theorem memGet_memWrite_before (m : Mem) (a c : Nat) (l : List Byte) (h : c < a) : memGet (memWrite m a l) c = memGet m c := by
  induction l generalizing m a with
  | nil => rfl
  | cons b l ih =>
    show memGet (memWrite (memPut m a b) (a + 1) l) c = _
    rw [ih _ _ (by omega), memGet_memPut_other _ _ _ _ (by omega)]

theorem memGet_memWrite_after (m : Mem) (a c : Nat) (l : List Byte) (h : a + l.length ≤ c) : memGet (memWrite m a l) c = memGet m c := by
  induction l generalizing m a with
  | nil => rfl
  | cons b l ih =>
    show memGet (memWrite (memPut m a b) (a + 1) l) c = _
    simp only [List.length_cons] at h
    rw [ih _ _ (by omega), memGet_memPut_other _ _ _ _ (by omega)]

theorem memRead_memWrite_same {m : Mem} (a : Nat) (l : List Byte) (h : Memory.wf m = true) : memRead (memWrite m a l) a l.length = l := by
  induction l generalizing m a with
  | nil => rfl
  | cons b l ih =>
    show memGet (memWrite (memPut m a b) (a + 1) l) a :: memRead (memWrite (memPut m a b) (a + 1) l) (a + 1) l.length = _
    rw [ih (a + 1) (wf_memPut a b h), memGet_memWrite_before _ _ _ _ (by omega), memGet_memPut_same a b h]

theorem memRead_congr {m k : Mem} {a n : Nat} (h : ∀ i, a ≤ i → i < a + n → memGet m i = memGet k i) : memRead m a n = memRead k a n := by
  induction n generalizing a with
  | zero => rfl
  | succ n ih =>
    simp only [memRead]
    rw [h a (by omega) (by omega), ih (fun i h1 h2 => h i (by omega) (by omega))]

theorem memRead_memWrite_apart (m : Mem) (a c n : Nat) (l : List Byte) (h : c + n ≤ a ∨ a + l.length ≤ c) :
    memRead (memWrite m a l) c n = memRead m c n := by
  apply memRead_congr
  intro i h1 h2
  rcases h with h | h
  · exact memGet_memWrite_before _ _ _ _ (by omega)
  · exact memGet_memWrite_after _ _ _ _ (by omega)

theorem memRead_length (m : Mem) (a n : Nat) : (memRead m a n).length = n := by
  induction n generalizing a with
  | zero => rfl
  | succ n ih => simp [memRead, ih]

theorem memGet_memClear_outside (m : Mem) (a n c : Nat) (h : c < a ∨ a + n ≤ c) : memGet (memClear m a n) c = memGet m c := by
  unfold memGet memClear
  induction m with
  | nil => rfl
  | cons p m ih =>
    obtain ⟨k, b⟩ := p
    rw [List.filter_cons]
    split
    · simp only [tget, ih]
    · rename_i hk
      have hkc : (k == c) = false := by
        simp only [Bool.or_eq_true, Nat.blt_eq, Nat.ble_eq, not_or] at hk
        simp; omega
      simp only [tget, hkc, Bool.false_eq_true, if_false]
      exact ih

theorem memGet_memClear_inside (m : Mem) (a n c : Nat) (h1 : a ≤ c) (h2 : c < a + n) : memGet (memClear m a n) c = 0 := by
  apply tget_unlisted
  intro p hp hc
  have := List.of_mem_filter hp
  simp only [Bool.or_eq_true, Nat.blt_eq, Nat.ble_eq] at this
  omega

theorem tget_listed {α : Type} {t : Tbl α} {a : Nat} {x : α} (d : α) (h : t.Pairwise (fun p q => p.1 < q.1)) (hm : (a, x) ∈ t) :
    tget t a d = x := by
  induction t with
  | nil => cases hm
  | cons q t ih =>
    obtain ⟨k, v⟩ := q
    rw [List.pairwise_cons] at h
    rcases List.mem_cons.mp hm with he | hm
    · obtain ⟨rfl, rfl⟩ := Prod.mk.inj he
      simp [tget]
    · have hk : (k == a) = false := by
        have := h.1 _ hm
        simp only at this
        simp; omega
      simp only [tget, hk, Bool.false_eq_true, if_false]
      exact ih h.2 hm

/-- Memories of canonical form that read alike are equal. -/
theorem memory_ext {m k : Mem} (hm : Memory.wf m = true) (hk : Memory.wf k = true) (h : ∀ a, memGet m a = memGet k a) : m = k := by
  rw [wf_iff] at hm hk
  have sub : ∀ {x y : Mem}, (x.Pairwise (fun p q => p.1 < q.1) ∧ ∀ p ∈ x, p.2 ≠ 0) → (∀ a, memGet x a = memGet y a) → ∀ p ∈ x, p ∈ y := by
    intro x y hx hxy p hp
    obtain ⟨a, b⟩ := p
    have h1 : memGet y a = b := by rw [← hxy]; exact tget_listed 0 hx.1 hp
    by_contra hn
    have h2 : ∀ q ∈ y, q.1 = a → q.2 ≠ b := by
      intro q hq h3 h4
      exact hn (by obtain ⟨c, d⟩ := q; simp only at h3 h4; subst h3; subst h4; exact hq)
    have h5 : ∀ (z : Mem), (∀ q ∈ z, q.1 = a → q.2 ≠ b) → memGet z a ≠ b := by
      intro z hz
      induction z with
      | nil => exact fun h6 => hx.2 _ hp h6.symm
      | cons q z ih =>
        obtain ⟨c, d⟩ := q
        unfold memGet tget
        split
        · rename_i hc
          exact hz (c, d) List.mem_cons_self (beq_iff_eq.mp hc)
        · exact ih (fun r hr => hz r (List.mem_cons_of_mem _ hr))
    exact h5 y h2 h1
  exact List.Perm.eq_of_pairwise (fun a b _ _ h1 h2 => absurd h1 (by omega)) hm.1 hk.1
    ((List.perm_ext_iff_of_nodup (hm.1.imp (fun h => by intro e; subst e; exact Nat.lt_irrefl _ h))
      (hk.1.imp (fun h => by intro e; subst e; exact Nat.lt_irrefl _ h))).mpr
      (fun p => ⟨sub hm h p, sub hk (fun a => (h a).symm) p⟩))

/-! ## Little-endian numbers (R92) -/

theorem leBytes_length (n v : Nat) : (leBytes n v).length = n := by
  induction n generalizing v with
  | zero => rfl
  | succ n ih => simp [leBytes, ih]

theorem leNat_leBytes (n v : Nat) : leNat (leBytes n v) = v % 2 ^ (8 * n) := by
  induction n generalizing v with
  | zero => simp [leBytes, leNat, Nat.mod_one]
  | succ n ih =>
    simp only [leBytes, leNat, ih, BitVec.toNat_ofNat]
    have h : 2 ^ (8 * (n + 1)) = 256 * 2 ^ (8 * n) := by rw [Nat.mul_succ, Nat.pow_add]; omega
    rw [h, Nat.mod_mul]

theorem leNat_lt (l : List Byte) : leNat l < 2 ^ (8 * l.length) := by
  induction l with
  | nil => simp [leNat]
  | cons b l ih =>
    have h : 2 ^ (8 * (l.length + 1)) = 256 * 2 ^ (8 * l.length) := by rw [Nat.mul_succ, Nat.pow_add]; omega
    simp only [leNat, List.length_cons, h]
    have := b.isLt
    omega

theorem memNat_memPutNat_same {m : Mem} (a n v : Nat) (h : Memory.wf m = true) : memNat (memPutNat m a n v) a n = v % 2 ^ (8 * n) := by
  have := memRead_memWrite_same a (leBytes n v) h
  rw [leBytes_length] at this
  unfold memNat memPutNat
  rw [this, leNat_leBytes]

theorem memDword_memPutNat_same {m : Mem} (a : Nat) (v : Dword) (h : Memory.wf m = true) : memDword (memPutNat m a 8 v.toNat) a = v := by
  unfold memDword
  rw [memNat_memPutNat_same a 8 _ h]
  apply BitVec.eq_of_toNat_eq
  have := v.isLt
  simp only [BitVec.toNat_ofNat]
  omega

theorem memDword_memPutNat_apart (m : Mem) (a c v : Nat) (h : c + 8 ≤ a ∨ a + 8 ≤ c) : memDword (memPutNat m a 8 v) c = memDword m c := by
  unfold memDword memNat memPutNat
  rw [memRead_memWrite_apart _ _ _ _ _ (by rw [leBytes_length]; exact h)]

/-! ## Physical memory -/

theorem wf_foldl_memPut {m : Mem} (l : Tbl Byte) (h : Memory.wf m = true) :
    Memory.wf (l.foldl (fun m u => memPut m u.1 u.2) m) = true := by
  induction l generalizing m with
  | nil => exact h
  | cons u l ih => exact ih (wf_memPut _ _ h)

theorem wf_putBytes {m : Mem} (bads : List Nat) (ups : Tbl Byte) (h : Memory.wf m = true) : Memory.wf (putBytes m bads ups).1 = true :=
  wf_foldl_memPut _ h

theorem writeRaw_memOk (s : State) (ups : Tbl Byte) (h : s.memOk) : (writeRaw s ups).1.memOk := ⟨wf_putBytes _ _ h.1, h.2⟩

theorem countDrop_memOk (s : State) (i : Nat) (h : s.memOk) : (countDrop s i).memOk := h

theorem writeOut_memOk (s : State) (lid : BitVec 32) (pa : Nat) (ups : Tbl Byte) (h : s.memOk) : (writeOut s lid pa ups).memOk := by
  unfold writeOut
  split <;> exact h

/-- Writing the state of a cblock keeps the form, in any memory (R306). -/
theorem wf_putState (s : State) {m : Mem} (pa st : Nat) (h : Memory.wf m = true) : Memory.wf (putState s m pa st) = true := by
  unfold putState putStateBits
  split
  · exact h
  · exact wf_memPutNat _ _ _ h

/-- So does a region of states that turns RAW (R306). -/
theorem wf_rawStates {m : Mem} (base lim : Nat) (h : Memory.wf m = true) : Memory.wf (rawStates m base lim) = true := by
  unfold rawStates
  induction span 0 ((3 * lim + 7) / 8) with
  | nil => exact h
  | cons k l ih => exact wf_memPut _ _ ih

theorem storeCb_memOk (s : State) (base codec : Nat) (l : List Byte) (h : s.memOk) : (storeCb s base codec l).memOk := by
  refine ⟨?_, h.2⟩
  unfold storeCb
  apply wf_putState
  apply wf_memWrite
  split
  · exact wf_memClear _ _ h.1
  · exact h.1

theorem writePlain_memOk (s : State) (codec : Nat) (ups : Tbl Byte) (h : s.memOk) : (writePlain s codec ups).1.memOk := by
  unfold writePlain
  split
  · exact h
  · dsimp only
    repeat' split
    all_goals first | exact h | exact writeRaw_memOk _ _ h | exact storeCb_memOk _ _ _ _ h

theorem writeCb_memOk (s : State) (lid : BitVec 32) (codec : Nat) (ups : Tbl Byte) (h : s.memOk) : (writeCb s lid codec ups).1.memOk := by
  unfold writeCb
  split
  · exact h
  · dsimp only
    repeat' split
    all_goals first | exact h | exact countDrop_memOk _ _ h | exact writeOut_memOk _ _ _ _ h | exact writePlain_memOk _ _ _ h

theorem applyWritesIn_memOk (lid : BitVec 32) (s : State) (ws : Tbl (Byte × Nat)) (h : s.memOk) : (applyWritesIn lid s ws).1.memOk := by
  unfold applyWritesIn
  have : ∀ (l : List (Nat × Tbl Byte)) (r : State × List WErr), r.1.memOk →
      (l.foldl (fun r g => let t := writeCb r.1 lid g.1 g.2; (t.1, r.2 ++ t.2)) r).1.memOk := by
    intro l
    induction l with
    | nil => exact fun r hr => hr
    | cons g l ih => exact fun r hr => ih _ (writeCb_memOk r.1 lid g.1 g.2 hr)
  exact this _ (s, []) h

theorem physWrite_memOk (s : State) (pa : Nat) (l : List Byte) (codec : Nat) (h : s.memOk) : (physWrite s pa l codec).1.memOk :=
  applyWritesIn_memOk 0 s _ h

theorem countDrops_memOk (s : State) (i : Nat) (l : List WErr) (h : s.memOk) : (countDrops s i l).memOk := by
  unfold countDrops
  induction l generalizing s with
  | nil => exact h
  | cons e l ih =>
    refine ih _ ?_
    dsimp only
    split
    · exact countDrop_memOk _ _ h
    · exact h

theorem physStore_memOk (s : State) (pa : Nat) (l : List Byte) (h : s.memOk) : (physStore s pa l).memOk :=
  countDrops_memOk _ _ _ (physWrite_memOk _ _ _ _ h)

theorem keepMarks_memOk (s : State) (l : List Kept) (h : s.memOk) : (keepMarks s l).memOk := by
  unfold keepMarks
  induction l.take (l.length - s.marks.length) with
  | nil => exact h
  | cons k l ih =>
    cases k with
    | pte a bits =>
      simp only [List.foldr_cons, keepOne]
      split
      · exact ih
      · exact physStore_memOk _ _ _ ih
    | drop d => exact countDrop_memOk _ _ ih

end Sys2Proof.Machine
end

