-- ==== Sys2Proof/Laws/Merge.lean ====
section
/-! SUPPORT. Lemmas of the COMMITs of a system domain (R276, R280; log 53): what a plan holds, and in which order. -/

namespace Sys2Proof.Machine

/-- The runs that a system edge commits are of those it considers, may commit, and read no line that stands against them at the start of the plan
(R276, R280; log 53). -/
theorem sysPlan_spec {ok : Nat × SysRun → Bool} {w : List (Nat × Nat)} {l : List (Nat × SysRun)} {x : Nat × SysRun}
    (h : x ∈ sysPlan ok w l) : x ∈ l ∧ ok x = true ∧ ∃ v : List (Nat × Nat), w ⊆ v ∧ sysReads x.2 v = false := by
  induction l generalizing w with
  | nil => simp [sysPlan] at h
  | cons y l ih =>
    unfold sysPlan at h
    split at h
    · simp at h
    · split at h
      · rcases List.mem_cons.1 h with rfl | h
        · exact ⟨by simp, by assumption, w, fun _ a => a, by simpa using ‹¬sysReads _ w = true›⟩
        · obtain ⟨a, b, v, c, d⟩ := ih h
          exact ⟨List.mem_cons_of_mem _ a, b, v, fun _ m => c (List.mem_append_left _ m), d⟩
      · obtain ⟨a, b, v, c, d⟩ := ih h
        exact ⟨List.mem_cons_of_mem _ a, b, v, c, d⟩

/-- The plan keeps the order of what it considers (R276). -/
theorem sysPlan_sublist (ok : Nat × SysRun → Bool) (w : List (Nat × Nat)) (l : List (Nat × SysRun)) :
    (sysPlan ok w l).Sublist l := by
  induction l generalizing w with
  | nil => simp [sysPlan]
  | cons y l ih =>
    unfold sysPlan
    split
    · exact List.nil_sublist _
    · split
      · exact (ih _).cons_cons y
      · exact (ih _).cons y

end Sys2Proof.Machine
end

