-- ==== Sys2Proof/Laws/PerInstr.lean ====
section
/-! SUPPORT. Statements about every instruction as syntax, one lemma for each constructor. Kinds: an instruction is an element word, an engine
command or an event, so at most one of the encoders gives it bits. -/

namespace Sys2Proof.Laws

/-- At most one encoder gives the instruction bits. -/
def Kinds.Statement (i : Instr) : Prop := encodeWord i = none ∨ encodeCmd i = none

theorem Kinds.add (d a b : Reg) : Kinds.Statement (.add d a b) := .inr rfl
theorem Kinds.sub (d a b : Reg) : Kinds.Statement (.sub d a b) := .inr rfl
theorem Kinds.and (d a b : Reg) : Kinds.Statement (.and d a b) := .inr rfl
theorem Kinds.or (d a b : Reg) : Kinds.Statement (.or d a b) := .inr rfl
theorem Kinds.xor (d a b : Reg) : Kinds.Statement (.xor d a b) := .inr rfl
theorem Kinds.andn (d a b : Reg) : Kinds.Statement (.andn d a b) := .inr rfl
theorem Kinds.sll (d a b : Reg) : Kinds.Statement (.sll d a b) := .inr rfl
theorem Kinds.srl (d a b : Reg) : Kinds.Statement (.srl d a b) := .inr rfl
theorem Kinds.sra (d a b : Reg) : Kinds.Statement (.sra d a b) := .inr rfl
theorem Kinds.slt (d a b : Reg) : Kinds.Statement (.slt d a b) := .inr rfl
theorem Kinds.sltu (d a b : Reg) : Kinds.Statement (.sltu d a b) := .inr rfl
theorem Kinds.min (d a b : Reg) : Kinds.Statement (.min d a b) := .inr rfl
theorem Kinds.max (d a b : Reg) : Kinds.Statement (.max d a b) := .inr rfl
theorem Kinds.minu (d a b : Reg) : Kinds.Statement (.minu d a b) := .inr rfl
theorem Kinds.maxu (d a b : Reg) : Kinds.Statement (.maxu d a b) := .inr rfl
theorem Kinds.mul (d a b : Reg) : Kinds.Statement (.mul d a b) := .inr rfl
theorem Kinds.mulh (d a b : Reg) : Kinds.Statement (.mulh d a b) := .inr rfl
theorem Kinds.mulhu (d a b : Reg) : Kinds.Statement (.mulhu d a b) := .inr rfl
theorem Kinds.div (d a b : Reg) : Kinds.Statement (.div d a b) := .inr rfl
theorem Kinds.divu (d a b : Reg) : Kinds.Statement (.divu d a b) := .inr rfl
theorem Kinds.rem (d a b : Reg) : Kinds.Statement (.rem d a b) := .inr rfl
theorem Kinds.remu (d a b : Reg) : Kinds.Statement (.remu d a b) := .inr rfl
theorem Kinds.clz (d a : Reg) : Kinds.Statement (.clz d a) := .inr rfl
theorem Kinds.ctz (d a : Reg) : Kinds.Statement (.ctz d a) := .inr rfl
theorem Kinds.popc (d a : Reg) : Kinds.Statement (.popc d a) := .inr rfl
theorem Kinds.lea (d a b : Reg) (sh : BitVec 5) : Kinds.Statement (.lea d a b sh) := .inr rfl
theorem Kinds.cmovz (d a b : Reg) : Kinds.Statement (.cmovz d a b) := .inr rfl
theorem Kinds.cmovnz (d a b : Reg) : Kinds.Statement (.cmovnz d a b) := .inr rfl
theorem Kinds.exts (d a : Reg) (sh : BitVec 5) : Kinds.Statement (.exts d a sh) := .inr rfl
theorem Kinds.extz (d a : Reg) (sh : BitVec 5) : Kinds.Statement (.extz d a sh) := .inr rfl
theorem Kinds.addi (d a : Reg) (imm : BitVec 16) : Kinds.Statement (.addi d a imm) := .inr rfl
theorem Kinds.andi (d a : Reg) (imm : BitVec 16) : Kinds.Statement (.andi d a imm) := .inr rfl
theorem Kinds.ori (d a : Reg) (imm : BitVec 16) : Kinds.Statement (.ori d a imm) := .inr rfl
theorem Kinds.xori (d a : Reg) (imm : BitVec 16) : Kinds.Statement (.xori d a imm) := .inr rfl
theorem Kinds.slti (d a : Reg) (imm : BitVec 16) : Kinds.Statement (.slti d a imm) := .inr rfl
theorem Kinds.sltiu (d a : Reg) (imm : BitVec 16) : Kinds.Statement (.sltiu d a imm) := .inr rfl
theorem Kinds.lui (d : Reg) (imm : BitVec 16) : Kinds.Statement (.lui d imm) := .inr rfl
theorem Kinds.slli (d a : Reg) (amt : BitVec 6) : Kinds.Statement (.slli d a amt) := .inr rfl
theorem Kinds.srli (d a : Reg) (amt : BitVec 6) : Kinds.Statement (.srli d a amt) := .inr rfl
theorem Kinds.srai (d a : Reg) (amt : BitVec 6) : Kinds.Statement (.srai d a amt) := .inr rfl
theorem Kinds.orih (d a : Reg) (imm : BitVec 16) : Kinds.Statement (.orih d a imm) := .inr rfl
theorem Kinds.orit (d a : Reg) (imm : BitVec 16) : Kinds.Statement (.orit d a imm) := .inr rfl
theorem Kinds.fadd (d a b : Reg) (f : FpFmt) : Kinds.Statement (.fadd d a b f) := .inr rfl
theorem Kinds.fsub (d a b : Reg) (f : FpFmt) : Kinds.Statement (.fsub d a b f) := .inr rfl
theorem Kinds.fmul (d a b : Reg) (f : FpFmt) : Kinds.Statement (.fmul d a b f) := .inr rfl
theorem Kinds.ffma (d a b : Reg) (f : FpFmt) : Kinds.Statement (.ffma d a b f) := .inr rfl
theorem Kinds.fdiv (d a b : Reg) (f : FpFmt) : Kinds.Statement (.fdiv d a b f) := .inr rfl
theorem Kinds.fsqrt (d a : Reg) (f : FpFmt) : Kinds.Statement (.fsqrt d a f) := .inr rfl
theorem Kinds.fmin (d a b : Reg) (f : FpFmt) : Kinds.Statement (.fmin d a b f) := .inr rfl
theorem Kinds.fmax (d a b : Reg) (f : FpFmt) : Kinds.Statement (.fmax d a b f) := .inr rfl
theorem Kinds.fcmpeq (d a b : Reg) (f : FpFmt) : Kinds.Statement (.fcmpeq d a b f) := .inr rfl
theorem Kinds.fcmplt (d a b : Reg) (f : FpFmt) : Kinds.Statement (.fcmplt d a b f) := .inr rfl
theorem Kinds.fcmple (d a b : Reg) (f : FpFmt) : Kinds.Statement (.fcmple d a b f) := .inr rfl
theorem Kinds.fcvt (d a : Reg) (src : CvtSrc) (dst : Fmt) (sat : Bool) : Kinds.Statement (.fcvt d a src dst sat) := .inr rfl
theorem Kinds.fclass (d a : Reg) (f : FpFmt) : Kinds.Statement (.fclass d a f) := .inr rfl
theorem Kinds.fneg (d a : Reg) (f : FpFmt) : Kinds.Statement (.fneg d a f) := .inr rfl
theorem Kinds.fabs (d a : Reg) (f : FpFmt) : Kinds.Statement (.fabs d a f) := .inr rfl
theorem Kinds.ldb (d : Reg) (bf : BitVec 4) (x : Reg) (disp : BitVec 12) : Kinds.Statement (.ldb d bf x disp) := .inr rfl
theorem Kinds.ldbu (d : Reg) (bf : BitVec 4) (x : Reg) (disp : BitVec 12) : Kinds.Statement (.ldbu d bf x disp) := .inr rfl
theorem Kinds.ldh (d : Reg) (bf : BitVec 4) (x : Reg) (disp : BitVec 12) : Kinds.Statement (.ldh d bf x disp) := .inr rfl
theorem Kinds.ldhu (d : Reg) (bf : BitVec 4) (x : Reg) (disp : BitVec 12) : Kinds.Statement (.ldhu d bf x disp) := .inr rfl
theorem Kinds.ldw (d : Reg) (bf : BitVec 4) (x : Reg) (disp : BitVec 12) : Kinds.Statement (.ldw d bf x disp) := .inr rfl
theorem Kinds.ldwu (d : Reg) (bf : BitVec 4) (x : Reg) (disp : BitVec 12) : Kinds.Statement (.ldwu d bf x disp) := .inr rfl
theorem Kinds.ldd (d : Reg) (bf : BitVec 4) (x : Reg) (disp : BitVec 12) : Kinds.Statement (.ldd d bf x disp) := .inr rfl
theorem Kinds.stb (d : Reg) (bf : BitVec 4) (x : Reg) (disp : BitVec 12) : Kinds.Statement (.stb d bf x disp) := .inr rfl
theorem Kinds.sth (d : Reg) (bf : BitVec 4) (x : Reg) (disp : BitVec 12) : Kinds.Statement (.sth d bf x disp) := .inr rfl
theorem Kinds.stw (d : Reg) (bf : BitVec 4) (x : Reg) (disp : BitVec 12) : Kinds.Statement (.stw d bf x disp) := .inr rfl
theorem Kinds.std (d : Reg) (bf : BitVec 4) (x : Reg) (disp : BitVec 12) : Kinds.Statement (.std d bf x disp) := .inr rfl
theorem Kinds.ldm (d : Reg) (bf : BitVec 4) (cnt : Reg) (disp : BitVec 12) : Kinds.Statement (.ldm d bf cnt disp) := .inr rfl
theorem Kinds.stm (d : Reg) (bf : BitVec 4) (cnt : Reg) (disp : BitVec 12) : Kinds.Statement (.stm d bf cnt disp) := .inr rfl
theorem Kinds.amoAdd (d : Reg) (bf : BitVec 4) (x b : Reg) (use : AmoUse) : Kinds.Statement (.amoAdd d bf x b use) := .inr rfl
theorem Kinds.amoAnd (d : Reg) (bf : BitVec 4) (x b : Reg) (use : AmoUse) : Kinds.Statement (.amoAnd d bf x b use) := .inr rfl
theorem Kinds.amoOr (d : Reg) (bf : BitVec 4) (x b : Reg) (use : AmoUse) : Kinds.Statement (.amoOr d bf x b use) := .inr rfl
theorem Kinds.amoXor (d : Reg) (bf : BitVec 4) (x b : Reg) (use : AmoUse) : Kinds.Statement (.amoXor d bf x b use) := .inr rfl
theorem Kinds.amoMax (d : Reg) (bf : BitVec 4) (x b : Reg) (use : AmoUse) : Kinds.Statement (.amoMax d bf x b use) := .inr rfl
theorem Kinds.amoMin (d : Reg) (bf : BitVec 4) (x b : Reg) (use : AmoUse) : Kinds.Statement (.amoMin d bf x b use) := .inr rfl
theorem Kinds.amoMaxu (d : Reg) (bf : BitVec 4) (x b : Reg) (use : AmoUse) : Kinds.Statement (.amoMaxu d bf x b use) := .inr rfl
theorem Kinds.amoMinu (d : Reg) (bf : BitVec 4) (x b : Reg) (use : AmoUse) : Kinds.Statement (.amoMinu d bf x b use) := .inr rfl
theorem Kinds.amoSwap (d : Reg) (bf : BitVec 4) (x b : Reg) (use : AmoUse) : Kinds.Statement (.amoSwap d bf x b use) := .inr rfl
theorem Kinds.amoCas (d : Reg) (bf : BitVec 4) (x b : Reg) (use : AmoUse) : Kinds.Statement (.amoCas d bf x b use) := .inr rfl
theorem Kinds.amoLoad (d : Reg) (bf : BitVec 4) (x : Reg) (use : AmoUse) : Kinds.Statement (.amoLoad d bf x use) := .inr rfl
theorem Kinds.amoStore (bf : BitVec 4) (x b : Reg) (use : AmoUse) : Kinds.Statement (.amoStore bf x b use) := .inr rfl
theorem Kinds.fence (scope : BitVec 2) : Kinds.Statement (.fence scope) := .inr rfl
theorem Kinds.beq (a b : Reg) (n : Bool) (disp : BitVec 15) : Kinds.Statement (.beq a b n disp) := .inr rfl
theorem Kinds.bne (a b : Reg) (n : Bool) (disp : BitVec 15) : Kinds.Statement (.bne a b n disp) := .inr rfl
theorem Kinds.blt (a b : Reg) (n : Bool) (disp : BitVec 15) : Kinds.Statement (.blt a b n disp) := .inr rfl
theorem Kinds.bge (a b : Reg) (n : Bool) (disp : BitVec 15) : Kinds.Statement (.bge a b n disp) := .inr rfl
theorem Kinds.bltu (a b : Reg) (n : Bool) (disp : BitVec 15) : Kinds.Statement (.bltu a b n disp) := .inr rfl
theorem Kinds.bgeu (a b : Reg) (n : Bool) (disp : BitVec 15) : Kinds.Statement (.bgeu a b n disp) := .inr rfl
theorem Kinds.j (disp : BitVec 25) : Kinds.Statement (.j disp) := .inr rfl
theorem Kinds.jal (disp : BitVec 25) : Kinds.Statement (.jal disp) := .inr rfl
theorem Kinds.jr (a : Reg) (imm : BitVec 16) : Kinds.Statement (.jr a imm) := .inr rfl
theorem Kinds.jalr (d a : Reg) (imm : BitVec 16) : Kinds.Statement (.jalr d a imm) := .inr rfl
theorem Kinds.csrrd (d : Reg) (csr : BitVec 10) : Kinds.Statement (.csrrd d csr) := .inr rfl
theorem Kinds.csrwr (d a : Reg) (csr : BitVec 10) : Kinds.Statement (.csrwr d a csr) := .inr rfl
theorem Kinds.csrset (d a : Reg) (csr : BitVec 10) : Kinds.Statement (.csrset d a csr) := .inr rfl
theorem Kinds.csrclr (d a : Reg) (csr : BitVec 10) : Kinds.Statement (.csrclr d a csr) := .inr rfl
theorem Kinds.trap (code : BitVec 5) : Kinds.Statement (.trap code) := .inr rfl
theorem Kinds.eret : Kinds.Statement .eret := .inr rfl
theorem Kinds.tlbinv (a b : Reg) (kind : BitVec 5) : Kinds.Statement (.tlbinv a b kind) := .inr rfl
theorem Kinds.iflush : Kinds.Statement .iflush := .inr rfl
theorem Kinds.bfld (a : Reg) (n : BitVec 5) : Kinds.Statement (.bfld a n) := .inr rfl
theorem Kinds.bfst (a : Reg) (n : BitVec 5) : Kinds.Statement (.bfst a n) := .inr rfl
theorem Kinds.nop : Kinds.Statement .nop := .inr rfl
theorem Kinds.halt : Kinds.Statement .halt := .inr rfl
theorem Kinds.send (d a b : Reg) (len1 : BitVec 5) : Kinds.Statement (.send d a b len1) := .inr rfl
theorem Kinds.sendm (d a b : Reg) (len1 : BitVec 5) : Kinds.Statement (.sendm d a b len1) := .inr rfl
theorem Kinds.tend : Kinds.Statement .tend := .inr rfl
theorem Kinds.tabort (defer : Bool) : Kinds.Statement (.tabort defer) := .inr rfl
theorem Kinds.chcfg (a b : Reg) : Kinds.Statement (.chcfg a b) := .inr rfl
theorem Kinds.chmask (a : Reg) : Kinds.Statement (.chmask a) := .inr rfl
theorem Kinds.chunmask (a : Reg) : Kinds.Statement (.chunmask a) := .inr rfl
theorem Kinds.tsset (a : Reg) : Kinds.Statement (.tsset a) := .inr rfl
theorem Kinds.launch (d a : Reg) (n : BitVec 5) : Kinds.Statement (.launch d a n) := .inr rfl
theorem Kinds.scread (d : Reg) (sc : BitVec 8) : Kinds.Statement (.scread d sc) := .inr rfl
theorem Kinds.scinc (a : Reg) (sc : BitVec 8) : Kinds.Statement (.scinc a sc) := .inr rfl
theorem Kinds.scarm (d a : Reg) (sc : BitVec 8) : Kinds.Statement (.scarm d a sc) := .inr rfl
theorem Kinds.scexpect (d a : Reg) (sc : BitVec 8) : Kinds.Statement (.scexpect d a sc) := .inr rfl
theorem Kinds.scmode (a : Reg) (sc : BitVec 8) : Kinds.Statement (.scmode a sc) := .inr rfl
theorem Kinds.barv (a : Reg) (tag : BitVec 5) : Kinds.Statement (.barv a tag) := .inr rfl
theorem Kinds.barcfg (a : Reg) (tag : BitVec 5) : Kinds.Statement (.barcfg a tag) := .inr rfl
theorem Kinds.enq (d a : Reg) (eng : BitVec 5) : Kinds.Statement (.enq d a eng) := .inr rfl
theorem Kinds.jobst (d a : Reg) : Kinds.Statement (.jobst d a) := .inr rfl
theorem Kinds.jobarm (a b : Reg) : Kinds.Statement (.jobarm a b) := .inr rfl
theorem Kinds.osclaim (d a : Reg) : Kinds.Statement (.osclaim d a) := .inr rfl
theorem Kinds.osfree (a b : Reg) : Kinds.Statement (.osfree a b) := .inr rfl
theorem Kinds.jobresume (d a : Reg) : Kinds.Statement (.jobresume d a) := .inr rfl
theorem Kinds.jobcancel (d a : Reg) : Kinds.Statement (.jobcancel d a) := .inr rfl
theorem Kinds.cfopen (d a : Reg) : Kinds.Statement (.cfopen d a) := .inr rfl
theorem Kinds.cfnext (d a : Reg) : Kinds.Statement (.cfnext d a) := .inr rfl
theorem Kinds.cfexpect (d a : Reg) : Kinds.Statement (.cfexpect d a) := .inr rfl
theorem Kinds.cfpost (d a : Reg) : Kinds.Statement (.cfpost d a) := .inr rfl
theorem Kinds.cfread (d a : Reg) : Kinds.Statement (.cfread d a) := .inr rfl
theorem Kinds.cfseal (d a : Reg) : Kinds.Statement (.cfseal d a) := .inr rfl
theorem Kinds.cfstat (d a : Reg) (sel : BitVec 5) : Kinds.Statement (.cfstat d a sel) := .inr rfl
theorem Kinds.exitmark (d a : Reg) : Kinds.Statement (.exitmark d a) := .inr rfl
theorem Kinds.confx (d a b : Reg) : Kinds.Statement (.confx d a b) := .inr rfl
theorem Kinds.gstore (d a b : Reg) : Kinds.Statement (.gstore d a b) := .inr rfl
theorem Kinds.grdy (d a : Reg) : Kinds.Statement (.grdy d a) := .inr rfl
theorem Kinds.gpull (d a : Reg) : Kinds.Statement (.gpull d a) := .inr rfl
theorem Kinds.gcnt (d a : Reg) (sel : BitVec 5) : Kinds.Statement (.gcnt d a sel) := .inr rfl
theorem Kinds.gcfg (d a : Reg) : Kinds.Statement (.gcfg d a) := .inr rfl
theorem Kinds.hsift (d a b : Reg) : Kinds.Statement (.hsift d a b) := .inr rfl
theorem Kinds.htopk (d a b : Reg) (renorm : Bool) : Kinds.Statement (.htopk d a b renorm) := .inr rfl
theorem Kinds.rcupd (d a : Reg) (del : Bool) : Kinds.Statement (.rcupd d a del) := .inr rfl
theorem Kinds.kvfork (d a : Reg) : Kinds.Statement (.kvfork d a) := .inr rfl
theorem Kinds.kvput (d a : Reg) : Kinds.Statement (.kvput d a) := .inr rfl
theorem Kinds.kvpub (d a : Reg) : Kinds.Statement (.kvpub d a) := .inr rfl
theorem Kinds.kvstat (d a : Reg) : Kinds.Statement (.kvstat d a) := .inr rfl
theorem Kinds.kvfree (d a : Reg) : Kinds.Statement (.kvfree d a) := .inr rfl
theorem Kinds.vclaim (d a b : Reg) : Kinds.Statement (.vclaim d a b) := .inr rfl
theorem Kinds.vsync (d : Reg) : Kinds.Statement (.vsync d) := .inr rfl
theorem Kinds.vfree : Kinds.Statement .vfree := .inr rfl
theorem Kinds.vmlogicAnd (md ma mb : BitVec 3) : Kinds.Statement (.vmlogicAnd md ma mb) := .inr rfl
theorem Kinds.vmlogicOr (md ma mb : BitVec 3) : Kinds.Statement (.vmlogicOr md ma mb) := .inr rfl
theorem Kinds.vmlogicXor (md ma mb : BitVec 3) : Kinds.Statement (.vmlogicXor md ma mb) := .inr rfl
theorem Kinds.vmlogicAndn (md ma mb : BitVec 3) : Kinds.Statement (.vmlogicAndn md ma mb) := .inr rfl
theorem Kinds.vmlogicNot (md ma : BitVec 3) : Kinds.Statement (.vmlogicNot md ma) := .inr rfl
theorem Kinds.vmlogicMov (md ma : BitVec 3) : Kinds.Statement (.vmlogicMov md ma) := .inr rfl
theorem Kinds.vmlogicSet (md : BitVec 3) : Kinds.Statement (.vmlogicSet md) := .inr rfl
theorem Kinds.vmlogicClr (md : BitVec 3) : Kinds.Statement (.vmlogicClr md) := .inr rfl
theorem Kinds.vmpop (d : Reg) (ma : BitVec 3) : Kinds.Statement (.vmpop d ma) := .inr rfl
theorem Kinds.viota (vd : BitVec 5) (a b : Reg) (m : BitVec 3) (f : Fmt) : Kinds.Statement (.viota vd a b m f) := .inr rfl
theorem Kinds.vld (vd : BitVec 5) (bf : BitVec 4) (x : Reg) (m : BitVec 3) (f : Fmt) : Kinds.Statement (.vld vd bf x m f) := .inr rfl
theorem Kinds.vst (vd : BitVec 5) (bf : BitVec 4) (x : Reg) (m : BitVec 3) (f : Fmt) : Kinds.Statement (.vst vd bf x m f) := .inr rfl
theorem Kinds.vlds (vd : BitVec 5) (bf : BitVec 4) (x : Reg) (m : BitVec 3) (f : Fmt) : Kinds.Statement (.vlds vd bf x m f) := .inr rfl
theorem Kinds.vsts (vd : BitVec 5) (bf : BitVec 4) (x : Reg) (m : BitVec 3) (f : Fmt) : Kinds.Statement (.vsts vd bf x m f) := .inr rfl
theorem Kinds.vldx (vd : BitVec 5) (bf : BitVec 4) (vi : BitVec 5) (m : BitVec 3) (f : Fmt) : Kinds.Statement (.vldx vd bf vi m f) := .inr rfl
theorem Kinds.vstx (vd : BitVec 5) (bf : BitVec 4) (vi : BitVec 5) (m : BitVec 3) (f : Fmt) : Kinds.Statement (.vstx vd bf vi m f) := .inr rfl
theorem Kinds.vbcast (vd : BitVec 5) (a : Reg) (m : BitVec 3) (f : Fmt) : Kinds.Statement (.vbcast vd a m f) := .inr rfl
theorem Kinds.vextr (d : Reg) (va : BitVec 5) (b : Reg) (f : Fmt) : Kinds.Statement (.vextr d va b f) := .inr rfl
theorem Kinds.vins (vd : BitVec 5) (a b : Reg) (f : Fmt) : Kinds.Statement (.vins vd a b f) := .inr rfl
theorem Kinds.vadd (vd va vb : BitVec 5) (m : BitVec 3) (f : Fmt) : Kinds.Statement (.vadd vd va vb m f) := .inr rfl
theorem Kinds.vsub (vd va vb : BitVec 5) (m : BitVec 3) (f : Fmt) : Kinds.Statement (.vsub vd va vb m f) := .inr rfl
theorem Kinds.vmul (vd va vb : BitVec 5) (m : BitVec 3) (f : Fmt) : Kinds.Statement (.vmul vd va vb m f) := .inr rfl
theorem Kinds.vfma (vd va vb : BitVec 5) (m : BitVec 3) (f : Fmt) : Kinds.Statement (.vfma vd va vb m f) := .inr rfl
theorem Kinds.vmin (vd va vb : BitVec 5) (m : BitVec 3) (f : Fmt) : Kinds.Statement (.vmin vd va vb m f) := .inr rfl
theorem Kinds.vmax (vd va vb : BitVec 5) (m : BitVec 3) (f : Fmt) : Kinds.Statement (.vmax vd va vb m f) := .inr rfl
theorem Kinds.vabs (vd va : BitVec 5) (m : BitVec 3) (f : Fmt) : Kinds.Statement (.vabs vd va m f) := .inr rfl
theorem Kinds.vneg (vd va : BitVec 5) (m : BitVec 3) (f : Fmt) : Kinds.Statement (.vneg vd va m f) := .inr rfl
theorem Kinds.vand (vd va vb : BitVec 5) (m : BitVec 3) (f : Fmt) : Kinds.Statement (.vand vd va vb m f) := .inr rfl
theorem Kinds.vor (vd va vb : BitVec 5) (m : BitVec 3) (f : Fmt) : Kinds.Statement (.vor vd va vb m f) := .inr rfl
theorem Kinds.vxor (vd va vb : BitVec 5) (m : BitVec 3) (f : Fmt) : Kinds.Statement (.vxor vd va vb m f) := .inr rfl
theorem Kinds.vshl (vd va vb : BitVec 5) (m : BitVec 3) (f : Fmt) : Kinds.Statement (.vshl vd va vb m f) := .inr rfl
theorem Kinds.vshr (vd va vb : BitVec 5) (m : BitVec 3) (f : Fmt) : Kinds.Statement (.vshr vd va vb m f) := .inr rfl
theorem Kinds.vcmpeq (md : BitVec 3) (va vb : BitVec 5) (m : BitVec 3) (f : Fmt) : Kinds.Statement (.vcmpeq md va vb m f) := .inr rfl
theorem Kinds.vcmplt (md : BitVec 3) (va vb : BitVec 5) (m : BitVec 3) (f : Fmt) : Kinds.Statement (.vcmplt md va vb m f) := .inr rfl
theorem Kinds.vsel (vd va vb : BitVec 5) (m : BitVec 3) (f : Fmt) : Kinds.Statement (.vsel vd va vb m f) := .inr rfl
theorem Kinds.vexp2 (vd va : BitVec 5) (m : BitVec 3) (f : Fmt) : Kinds.Statement (.vexp2 vd va m f) := .inr rfl
theorem Kinds.vlog2 (vd va : BitVec 5) (m : BitVec 3) (f : Fmt) : Kinds.Statement (.vlog2 vd va m f) := .inr rfl
theorem Kinds.vrcp (vd va : BitVec 5) (m : BitVec 3) (f : Fmt) : Kinds.Statement (.vrcp vd va m f) := .inr rfl
theorem Kinds.vrsqrt (vd va : BitVec 5) (m : BitVec 3) (f : Fmt) : Kinds.Statement (.vrsqrt vd va m f) := .inr rfl
theorem Kinds.vsqrt (vd va : BitVec 5) (m : BitVec 3) (f : Fmt) : Kinds.Statement (.vsqrt vd va m f) := .inr rfl
theorem Kinds.vcvt (vd va : BitVec 5) (src : Fmt) (sat : Bool) (m : BitVec 3) (dst : Fmt) : Kinds.Statement (.vcvt vd va src sat m dst) := .inr rfl
theorem Kinds.vqnt (vd va : BitVec 5) (b : Reg) (m : BitVec 3) (f : Fmt) : Kinds.Statement (.vqnt vd va b m f) := .inr rfl
theorem Kinds.vdqnt (vd va : BitVec 5) (b : Reg) (m : BitVec 3) (f : Fmt) : Kinds.Statement (.vdqnt vd va b m f) := .inr rfl
theorem Kinds.vtern (vd va : BitVec 5) (b : Reg) (m : BitVec 3) (f : Fmt) : Kinds.Statement (.vtern vd va b m f) := .inr rfl
theorem Kinds.vredsum (d : Reg) (va : BitVec 5) (m : BitVec 3) (f : Fmt) : Kinds.Statement (.vredsum d va m f) := .inr rfl
theorem Kinds.vredmax (d : Reg) (va : BitVec 5) (m : BitVec 3) (f : Fmt) : Kinds.Statement (.vredmax d va m f) := .inr rfl
theorem Kinds.vredmin (d : Reg) (va : BitVec 5) (m : BitVec 3) (f : Fmt) : Kinds.Statement (.vredmin d va m f) := .inr rfl
theorem Kinds.vredamax (d : Reg) (va : BitVec 5) (m : BitVec 3) (f : Fmt) : Kinds.Statement (.vredamax d va m f) := .inr rfl
theorem Kinds.vscan (vd va : BitVec 5) (m : BitVec 3) (f : Fmt) : Kinds.Statement (.vscan vd va m f) := .inr rfl
theorem Kinds.vperm (vd va vb : BitVec 5) (m : BitVec 3) (f : Fmt) : Kinds.Statement (.vperm vd va vb m f) := .inr rfl
theorem Kinds.vslide (vd va : BitVec 5) (b : Reg) (m : BitVec 3) (f : Fmt) : Kinds.Statement (.vslide vd va b m f) := .inr rfl
theorem Kinds.abound (d : Reg) (va vb : BitVec 5) (m : BitVec 3) : Kinds.Statement (.abound d va vb m) := .inr rfl
theorem Kinds.audchk (d a b : Reg) : Kinds.Statement (.audchk d a b) := .inr rfl
theorem Kinds.mfill (h : CmdHdr) (slot : BitVec 8) (nslot1 : BitVec 8) (src : Dword) : Kinds.Statement (.mfill h slot nslot1 src) := .inl rfl
theorem Kinds.mwload (h : CmdHdr) (slot : BitVec 8) (wfmt : Fmt) : Kinds.Statement (.mwload h slot wfmt) := .inl rfl
theorem Kinds.mstream (h : CmdHdr) (srcShape ovw : Bool) (cn1 : BitVec 6) (sfmt : Fmt) (slot : BitVec 8) (row0 nrow1 : BitVec 13) (shape : Dword) : Kinds.Statement (.mstream h srcShape ovw cn1 sfmt slot row0 nrow1 shape) := .inl rfl
theorem Kinds.mzero (h : CmdHdr) (cn1 : BitVec 6) (row0 nrow1 : BitVec 13) : Kinds.Statement (.mzero h cn1 row0 nrow1) := .inl rfl
theorem Kinds.mstore (h : CmdHdr) (scm : BitVec 2) (cn1 : BitVec 6) (afmt : Fmt) (rm : BitVec 2) (sat : Bool) (scale : BitVec 32) (row0 nrow1 : BitVec 13) (dst : Dword) : Kinds.Statement (.mstore h scm cn1 afmt rm sat scale row0 nrow1 dst) := .inl rfl
theorem Kinds.mloadacc (h : CmdHdr) (cn1 : BitVec 6) (afmt : Fmt) (row0 nrow1 : BitVec 13) (src : Dword) : Kinds.Statement (.mloadacc h cn1 afmt row0 nrow1 src) := .inl rfl
theorem Kinds.msave (h : CmdHdr) (pre : Bool) (cap : BitVec 32) (hw : BitVec 14) (lid : BitVec 32) (img : Dword) : Kinds.Statement (.msave h pre cap hw lid img) := .inl rfl
theorem Kinds.mrestore (h : CmdHdr) (img : Dword) : Kinds.Statement (.mrestore h img) := .inl rfl
theorem Kinds.cpy (h : CmdHdr) (icnt far : Bool) (src dst : Dword) : Kinds.Statement (.cpy h icnt far src dst) := .inl rfl
theorem Kinds.cpym (h : CmdHdr) (rowm colm : BitVec 8) (die : BitVec 2) (dkind dsig far : Bool) (slot : BitVec 8) (src : Dword) (doff : BitVec 22) : Kinds.Statement (.cpym h rowm colm die dkind dsig far slot src doff) := .inl rfl
theorem Kinds.cpyg (h : CmdHdr) (ifmt far : Bool) (src dst : Dword) : Kinds.Statement (.cpyg h ifmt far src dst) := .inl rfl
theorem Kinds.cpys (h : CmdHdr) (ifmt far : Bool) (src dst : Dword) : Kinds.Statement (.cpys h ifmt far src dst) := .inl rfl
theorem Kinds.cpypg (h : CmdHdr) (npg1 : BitVec 16) (tier : BitVec 2) (va grant : Dword) : Kinds.Statement (.cpypg h npg1 tier va grant) := .inl rfl
theorem Kinds.cpyfill (h : CmdHdr) (dst val : Dword) : Kinds.Statement (.cpyfill h dst val) := .inl rfl
theorem Kinds.cpymsg (h : CmdHdr) (far : Bool) (src q : Dword) : Kinds.Statement (.cpymsg h far src q) := .inl rfl
theorem Kinds.kvgather (h : CmdHdr) (pol far : Bool) (part : BitVec 2) (rec dst : Dword) : Kinds.Statement (.kvgather h pol far part rec dst) := .inl rfl
theorem Kinds.bfill (h : CmdHdr) (gexit last : BitVec 16) (perl : Bool) (rec : Dword) : Kinds.Statement (.bfill h gexit last perl rec) := .inl rfl
theorem Kinds.bfcancel (h : CmdHdr) (job : Dword) : Kinds.Statement (.bfcancel h job) := .inl rfl
theorem Kinds.rcsnap (h : CmdHdr) (rec : Dword) (epoch : BitVec 32) : Kinds.Statement (.rcsnap h rec epoch) := .inl rfl
theorem Kinds.rcxchg (h : CmdHdr) (rec : Dword) (b : BitVec 5) (wait : BitVec 8) : Kinds.Statement (.rcxchg h rec b wait) := .inl rfl
theorem Kinds.rcpeel (h : CmdHdr) (rec : Dword) : Kinds.Statement (.rcpeel h rec) := .inl rfl
theorem Kinds.rcfetch (h : CmdHdr) (rec : Dword) : Kinds.Statement (.rcfetch h rec) := .inl rfl
theorem Kinds.rcround (h : CmdHdr) (rec : Dword) (wait : BitVec 8) : Kinds.Statement (.rcround h rec wait) := .inl rfl
theorem Kinds.gallred (h : CmdHdr) (group cctr : BitVec 8) (nch : BitVec 16) (seq : BitVec 32) (nb1 : BitVec 10) (dst : Dword) : Kinds.Statement (.gallred h group cctr nch seq nb1 dst) := .inl rfl
theorem Kinds.gallgath (h : CmdHdr) (group cctr : BitVec 8) (nch : BitVec 16) (seq : BitVec 32) (nb1 : BitVec 10) (dst : Dword) : Kinds.Statement (.gallgath h group cctr nch seq nb1 dst) := .inl rfl
theorem Kinds.gbcast (h : CmdHdr) (group cctr : BitVec 8) (nch : BitVec 16) (root : BitVec 6) (seq : BitVec 32) (nb1 : BitVec 10) (dst : Dword) : Kinds.Statement (.gbcast h group cctr nch root seq nb1 dst) := .inl rfl
theorem Kinds.matrixStepEnd (cl : Nat) : Kinds.Statement (.matrixStepEnd cl) := .inr rfl
theorem Kinds.copyBurst (cl : Nat) : Kinds.Statement (.copyBurst cl) := .inr rfl
theorem Kinds.engineAgeing (q : QueueId) (jid : BitVec 32) : Kinds.Statement (.engineAgeing q jid) := .inr rfl
theorem Kinds.engineDone (q : QueueId) (jid : BitVec 32) : Kinds.Statement (.engineDone q jid) := .inr rfl
theorem Kinds.kvgatherDeferResume (cl : Nat) (jid : BitVec 32) : Kinds.Statement (.kvgatherDeferResume cl jid) := .inr rfl
theorem Kinds.messageArrival (n : Nat) : Kinds.Statement (.messageArrival n) := .inr rfl
theorem Kinds.portWordArrival (n : Nat) : Kinds.Statement (.portWordArrival n) := .inr rfl
theorem Kinds.creditReturn (n : Nat) : Kinds.Statement (.creditReturn n) := .inr rfl
theorem Kinds.handlerSelection (el : Nat) : Kinds.Statement (.handlerSelection el) := .inr rfl
theorem Kinds.urgentInterruption (el : Nat) : Kinds.Statement (.urgentInterruption el) := .inr rfl
theorem Kinds.serialAdmission (el ch : Nat) : Kinds.Statement (.serialAdmission el ch) := .inr rfl
theorem Kinds.commit (el k : Nat) : Kinds.Statement (.commit el k) := .inr rfl
theorem Kinds.iatom (el k : Nat) : Kinds.Statement (.iatom el k) := .inr rfl
theorem Kinds.roundMarkerInjection : Kinds.Statement .roundMarkerInjection := .inr rfl
theorem Kinds.roundEdge : Kinds.Statement .roundEdge := .inr rfl
theorem Kinds.slotQuantumExpiry (slot : Nat) : Kinds.Statement (.slotQuantumExpiry slot) := .inr rfl
theorem Kinds.horizonReport (slid : BitVec 32) (j : Nat) (peer : Peer) (l : Dword) (part : SysPart) : Kinds.Statement (.horizonReport slid j peer l part) := .inr rfl
theorem Kinds.launchPacket (n : Nat) : Kinds.Statement (.launchPacket n) := .inr rfl
theorem Kinds.launchAdmission (die : Nat) : Kinds.Statement (.launchAdmission die) := .inr rfl
theorem Kinds.slotTakeRecord (slot : Nat) : Kinds.Statement (.slotTakeRecord slot) := .inr rfl
theorem Kinds.cfopenHome (n : Nat) : Kinds.Statement (.cfopenHome n) := .inr rfl
theorem Kinds.cfnextHome (n : Nat) : Kinds.Statement (.cfnextHome n) := .inr rfl
theorem Kinds.cfexpectHome (n : Nat) : Kinds.Statement (.cfexpectHome n) := .inr rfl
theorem Kinds.cfsealHome (n : Nat) : Kinds.Statement (.cfsealHome n) := .inr rfl
theorem Kinds.exitmarkHome (n : Nat) : Kinds.Statement (.exitmarkHome n) := .inr rfl
theorem Kinds.cfpostHome (n : Nat) : Kinds.Statement (.cfpostHome n) := .inr rfl
theorem Kinds.cfreadHome (n : Nat) : Kinds.Statement (.cfreadHome n) := .inr rfl
theorem Kinds.cfreadLateness (die obj k : Nat) : Kinds.Statement (.cfreadLateness die obj k) := .inr rfl
theorem Kinds.barrierArrival (n : Nat) : Kinds.Statement (.barrierArrival n) := .inr rfl
theorem Kinds.barcfgApply (n : Nat) : Kinds.Statement (.barcfgApply n) := .inr rfl
theorem Kinds.groupContribution (n : Nat) : Kinds.Statement (.groupContribution n) := .inr rfl
theorem Kinds.groupResult (n : Nat) : Kinds.Statement (.groupResult n) := .inr rfl
theorem Kinds.groupTimeout (g : BitVec 8) (s : BitVec 32) : Kinds.Statement (.groupTimeout g s) := .inr rfl
theorem Kinds.groupSlotFree (g : BitVec 8) (s : BitVec 32) : Kinds.Statement (.groupSlotFree g s) := .inr rfl
theorem Kinds.grdyAnnounce (n : Nat) : Kinds.Statement (.grdyAnnounce n) := .inr rfl
theorem Kinds.gpullRequest (n : Nat) : Kinds.Statement (.gpullRequest n) := .inr rfl
theorem Kinds.gpullTimeout (k : Nat) : Kinds.Statement (.gpullTimeout k) := .inr rfl
theorem Kinds.chunkDelivery (q : QueueId) (jid : BitVec 32) : Kinds.Statement (.chunkDelivery q jid) := .inr rfl
theorem Kinds.chunkTimeout (q : QueueId) (jid : BitVec 32) : Kinds.Statement (.chunkTimeout q jid) := .inr rfl
theorem Kinds.cellUpdate (n : Nat) : Kinds.Statement (.cellUpdate n) := .inr rfl
theorem Kinds.foldRequest (idie : Nat) (peer : Peer) (rec : Dword) (epoch : BitVec 32) (b : BitVec 5) (seeds : List Dword) : Kinds.Statement (.foldRequest idie peer rec epoch b seeds) := .inr rfl
theorem Kinds.rcxchgWaitExpiry (q : QueueId) (jid : BitVec 32) : Kinds.Statement (.rcxchgWaitExpiry q jid) := .inr rfl
theorem Kinds.fabricForward (port : Nat) (p : FabPkt) : Kinds.Statement (.fabricForward port p) := .inr rfl
theorem Kinds.remoteRequest (peer : Peer) (pa : Nat) (op : RemoteOp) : Kinds.Statement (.remoteRequest peer pa op) := .inr rfl
theorem Kinds.flitCrcFailure (l : LinkId) (flit : SeenFlit) : Kinds.Statement (.flitCrcFailure l flit) := .inr rfl
theorem Kinds.cxlDeviceRemoval (port : Nat) : Kinds.Statement (.cxlDeviceRemoval port) := .inr rfl
theorem Kinds.hostBar2Write (off : Nat) (bytes : List Byte) : Kinds.Statement (.hostBar2Write off bytes) := .inr rfl
theorem Kinds.hostBar2Read (off n : Nat) : Kinds.Statement (.hostBar2Read off n) := .inr rfl
theorem Kinds.qdb (q : BitVec 10) : Kinds.Statement (.qdb q) := .inr rfl
theorem Kinds.registerWrite (off : Nat) (v : Dword) : Kinds.Statement (.registerWrite off v) := .inr rfl
theorem Kinds.hostCompletionTimeout (el : Nat) : Kinds.Statement (.hostCompletionTimeout el) := .inr rfl
theorem Kinds.patrolScrub (at' : ScrubAt) (uncorrectable : Bool) : Kinds.Statement (.patrolScrub at' uncorrectable) := .inr rfl
theorem Kinds.wake (n : Nat) : Kinds.Statement (.wake n) := .inr rfl
theorem Kinds.stop (n : Nat) : Kinds.Statement (.stop n) := .inr rfl
theorem Kinds.preempt (n : Nat) : Kinds.Statement (.preempt n) := .inr rfl
theorem Kinds.resume (n : Nat) : Kinds.Statement (.resume n) := .inr rfl
theorem Kinds.discard (n : Nat) : Kinds.Statement (.discard n) := .inr rfl
theorem Kinds.preemptRequest (n : Nat) : Kinds.Statement (.preemptRequest n) := .inr rfl
theorem Kinds.preemptStop : Kinds.Statement .preemptStop := .inr rfl
theorem Kinds.preemptCapture : Kinds.Statement .preemptCapture := .inr rfl
theorem Kinds.mread (addr : Nat) (auth : Bool) : Kinds.Statement (.mread addr auth) := .inr rfl
theorem Kinds.mwrite (addr : Nat) (v : Dword) (auth : Bool) : Kinds.Statement (.mwrite addr v auth) := .inr rfl
theorem Kinds.attest (nonce : BitVec 256) : Kinds.Statement (.attest nonce) := .inr rfl
theorem Kinds.mclear (addr : Nat) (auth : Bool) : Kinds.Statement (.mclear addr auth) := .inr rfl
theorem Kinds.powerOnReset (r : BootReport) : Kinds.Statement (.powerOnReset r) := .inr rfl
theorem Kinds.unassignedOpcode (w : BitVec 32) : Kinds.Statement (.unassignedOpcode w) := .inr rfl
theorem Kinds.linkUp (port : Nat) : Kinds.Statement (.linkUp port) := .inr rfl
theorem Kinds.capabilityRefresh (r : BootReport) : Kinds.Statement (.capabilityRefresh r) := .inr rfl
theorem Kinds.measurementRequest (img : BitVec 3) (digest : BitVec 256) : Kinds.Statement (.measurementRequest img digest) := .inr rfl

end Sys2Proof.Laws
end

