-- ==== Sys2Proof/Tests/Slice0.lean ====
section
/-! SUPPORT. Tests: ill-formed terms, words written out from the spec's encodings, and states that meet the hypotheses of the statements. -/

open Sys2Proof Sys2Proof.Machine

namespace Sys2Proof.Tests

set_option maxRecDepth 20000
set_option Elab.async false



/-! ## The decoder, on words written out from R62 to R74: one for every element instruction -/

theorem test_decode_int_1 :
    decodeWord 0b000000_01011_00101_01101_00000000000 = .ok (.add 11 5 13) ∧
    decodeWord 0b000000_10101_00010_00011_00000000001 = .ok (.sub 21 2 3) ∧
    decodeWord 0b000000_11011_10010_00100_00000000010 = .ok (.and 27 18 4) ∧
    decodeWord 0b000000_01100_10011_00010_00000000011 = .ok (.or 12 19 2) ∧
    decodeWord 0b000000_10001_00111_00010_00000000100 = .ok (.xor 17 7 2) ∧
    decodeWord 0b000000_00011_01110_01000_00000000101 = .ok (.andn 3 14 8) ∧
    decodeWord 0b000000_00011_10010_01110_00000000110 = .ok (.sll 3 18 14) ∧
    decodeWord 0b000000_00010_11011_10011_00000000111 = .ok (.srl 2 27 19) ∧
    decodeWord 0b000000_00100_01000_10101_00000001000 = .ok (.sra 4 8 21) ∧
    decodeWord 0b000000_10101_10011_00010_00000001001 = .ok (.slt 21 19 2) := by decide

theorem test_decode_int_2 :
    decodeWord 0b000000_10011_01101_00010_00000001010 = .ok (.sltu 19 13 2) ∧
    decodeWord 0b000000_01000_00010_10010_00000001011 = .ok (.min 8 2 18) ∧
    decodeWord 0b000000_00101_01010_01110_00000001100 = .ok (.max 5 10 14) ∧
    decodeWord 0b000000_00101_10010_00100_00000001101 = .ok (.minu 5 18 4) ∧
    decodeWord 0b000000_10011_01010_10010_00000001110 = .ok (.maxu 19 10 18) ∧
    decodeWord 0b000000_11011_10110_00110_00000001111 = .ok (.mul 27 22 6) ∧
    decodeWord 0b000000_00100_10011_10101_00000010000 = .ok (.mulh 4 19 21) ∧
    decodeWord 0b000000_00111_01100_00100_00000010001 = .ok (.mulhu 7 12 4) ∧
    decodeWord 0b000000_10010_10111_00011_00000010010 = .ok (.div 18 23 3) ∧
    decodeWord 0b000000_10011_00010_10100_00000010011 = .ok (.divu 19 2 20) := by decide

theorem test_decode_int_3 :
    decodeWord 0b000000_00111_10000_10110_00000010100 = .ok (.rem 7 16 22) ∧
    decodeWord 0b000000_10010_01110_11001_00000010101 = .ok (.remu 18 14 25) ∧
    decodeWord 0b000000_01011_01111_0000000000010110 = .ok (.clz 11 15) ∧
    decodeWord 0b000000_10011_01111_0000000000010111 = .ok (.ctz 19 15) ∧
    decodeWord 0b000000_01100_01010_0000000000011000 = .ok (.popc 12 10) ∧
    decodeWord 0b000000_01000_11010_00110_00010_011001 = .ok (.lea 8 26 6 2) ∧
    decodeWord 0b000000_00011_10011_01010_00000011010 = .ok (.cmovz 3 19 10) ∧
    decodeWord 0b000000_10001_10000_01011_00000011011 = .ok (.cmovnz 17 16 11) ∧
    decodeWord 0b000000_11000_01111_00000_01010_011100 = .ok (.exts 24 15 10) ∧
    decodeWord 0b000000_10100_00011_00000_00100_011101 = .ok (.extz 20 3 4) := by decide

theorem test_decode_imm_1 :
    decodeWord 0b000001_10001_01110_1101011110001111 = .ok (.addi 17 14 0xd78f) ∧
    decodeWord 0b000010_00101_10000_1000101000001000 = .ok (.andi 5 16 0x8a08) ∧
    decodeWord 0b000011_10110_00011_1101000001010000 = .ok (.ori 22 3 0xd050) ∧
    decodeWord 0b000100_01011_10111_1111111100100101 = .ok (.xori 11 23 0xff25) ∧
    decodeWord 0b000101_10011_11010_1001000110011001 = .ok (.slti 19 26 0x9199) ∧
    decodeWord 0b000110_11011_00011_1100010100011001 = .ok (.sltiu 27 3 0xc519) ∧
    decodeWord 0b000111_10000_00000_1001000010100010 = .ok (.lui 16 0x90a2) ∧
    decodeWord 0b001000_00010_11000_0000000000_101101 = .ok (.slli 2 24 45) ∧
    decodeWord 0b001000_01010_10101_0000000001_100101 = .ok (.srli 10 21 37) ∧
    decodeWord 0b001000_10110_11011_0000000010_011101 = .ok (.srai 22 27 29) := by decide

theorem test_decode_imm_2 :
    decodeWord 0b001001_01010_10111_1101100011010100 = .ok (.orih 10 23 0xd8d4) ∧
    decodeWord 0b001011_00001_01111_1010101100000100 = .ok (.orit 1 15 0xab04) := by decide

theorem test_decode_fpu_1 :
    decodeWord 0b001010_10100_00100_10000_00000_000000 = .ok (.fadd 20 4 16 .fp32) ∧
    decodeWord 0b001010_00111_11001_01010_00000_000001 = .ok (.fsub 7 25 10 .fp32) ∧
    decodeWord 0b001010_11000_01000_01101_00001_000010 = .ok (.fmul 24 8 13 .fp64) ∧
    decodeWord 0b001010_10000_00011_00110_00001_000011 = .ok (.ffma 16 3 6 .fp64) ∧
    decodeWord 0b001010_01101_10010_01001_00000_000100 = .ok (.fdiv 13 18 9 .fp32) ∧
    decodeWord 0b001010_11011_01110_00000_00010_000101 = .ok (.fsqrt 27 14 .bf16) ∧
    decodeWord 0b001010_01001_10111_01110_00001_000110 = .ok (.fmin 9 23 14 .fp64) ∧
    decodeWord 0b001010_10110_01101_01000_00000_000111 = .ok (.fmax 22 13 8 .fp32) ∧
    decodeWord 0b001010_00011_00110_00101_00000_001000 = .ok (.fcmpeq 3 6 5 .fp32) ∧
    decodeWord 0b001010_10110_01000_00001_00001_001001 = .ok (.fcmplt 22 8 1 .fp64) := by decide

theorem test_decode_fpu_2 :
    decodeWord 0b001010_11011_10011_00110_00001_001010 = .ok (.fcmple 27 19 6 .fp64) ∧
    decodeWord 0b001010_01010_00001_1_0101_00100_001011 = .ok (.fcvt 10 1 .int64 .e5m2 true) ∧
    decodeWord 0b001010_00101_01110_00000_00010_001100 = .ok (.fclass 5 14 .bf16) ∧
    decodeWord 0b001010_01100_10100_00000_00010_001101 = .ok (.fneg 12 20 .bf16) ∧
    decodeWord 0b001010_01011_00101_00000_00010_001110 = .ok (.fabs 11 5 .bf16) := by decide

theorem test_decode_mem_1 :
    decodeWord 0b010000_10001_1010_10101_100011011100 = .ok (.ldb 17 10 21 0x8dc) ∧
    decodeWord 0b010001_01111_1110_11001_111001000110 = .ok (.ldbu 15 14 25 0xe46) ∧
    decodeWord 0b010010_01101_0111_00100_111001100111 = .ok (.ldh 13 7 4 0xe67) ∧
    decodeWord 0b010011_00010_0100_00011_101101010110 = .ok (.ldhu 2 4 3 0xb56) ∧
    decodeWord 0b010100_01111_0011_00100_100011010110 = .ok (.ldw 15 3 4 0x8d6) ∧
    decodeWord 0b010101_00100_0001_10011_100110011110 = .ok (.ldwu 4 1 19 0x99e) ∧
    decodeWord 0b010110_01100_1010_00001_101101010010 = .ok (.ldd 12 10 1 0xb52) ∧
    decodeWord 0b011000_10100_0111_00101_110000001000 = .ok (.stb 20 7 5 0xc08) ∧
    decodeWord 0b011001_01100_1010_10000_100111010111 = .ok (.sth 12 10 16 0x9d7) ∧
    decodeWord 0b011010_10000_1000_01010_101001001101 = .ok (.stw 16 8 10 0xa4d) := by decide

theorem test_decode_mem_2 :
    decodeWord 0b011011_00100_1100_01011_110000111011 = .ok (.std 4 12 11 0xc3b) ∧
    decodeWord 0b011100_01001_1100_00111_101101000111 = .ok (.ldm 9 12 7 0xb47) ∧
    decodeWord 0b011101_00101_0011_00111_100001101101 = .ok (.stm 5 3 7 0x86d) := by decide

theorem test_decode_amo_1 :
    decodeWord 0b011110_11001_1001_01010_10101_0000_000 = .ok (.amoAdd 25 9 10 21 .spec) ∧
    decodeWord 0b011110_10111_1110_01001_10001_0001_010 = .ok (.amoAnd 23 14 9 17 .comm) ∧
    decodeWord 0b011110_00110_1101_01000_10010_0010_100 = .ok (.amoOr 6 13 8 18 .quant) ∧
    decodeWord 0b011110_11001_1001_01011_10101_0011_001 = .ok (.amoXor 25 9 11 21 .unp) ∧
    decodeWord 0b011110_10100_1101_11010_11001_0100_001 = .ok (.amoMax 20 13 26 25 .unp) ∧
    decodeWord 0b011110_11010_0100_11011_01101_0101_001 = .ok (.amoMin 26 4 27 13 .unp) ∧
    decodeWord 0b011110_00111_1001_10000_01100_0110_000 = .ok (.amoMaxu 7 9 16 12 .spec) ∧
    decodeWord 0b011110_00001_1101_01001_10000_0111_010 = .ok (.amoMinu 1 13 9 16 .comm) ∧
    decodeWord 0b011110_00111_1100_10100_01111_1000_000 = .ok (.amoSwap 7 12 20 15 .spec) ∧
    decodeWord 0b011110_01100_0110_00011_01000_1001_001 = .ok (.amoCas 12 6 3 8 .unp) := by decide

theorem test_decode_amo_2 :
    decodeWord 0b011110_01000_0100_01011_000001010_001 = .ok (.amoLoad 8 4 11 .unp) ∧
    decodeWord 0b011110_00000_1000_10100_11011_1011_001 = .ok (.amoStore 8 20 27 .unp) ∧
    decodeWord 0b011111_000000000000000000000000_10 = .ok (.fence 2) := by decide

theorem test_decode_branch :
    decodeWord 0b100000_10101_01100_1_100101011011001 = .ok (.beq 21 12 true 0x4ad9) ∧
    decodeWord 0b100001_11011_10110_1_111000110111010 = .ok (.bne 27 22 true 0x71ba) ∧
    decodeWord 0b100010_11010_10111_1_101100110000010 = .ok (.blt 26 23 true 0x5982) ∧
    decodeWord 0b100011_10000_00110_1_110101010001110 = .ok (.bge 16 6 true 0x6a8e) ∧
    decodeWord 0b100100_00011_11010_1_111001010101001 = .ok (.bltu 3 26 true 0x72a9) ∧
    decodeWord 0b100101_01111_01101_1_100101011011101 = .ok (.bgeu 15 13 true 0x4add) ∧
    decodeWord 0b101000_0_1010100010101010110010011 = .ok (.j 0x1515593) ∧
    decodeWord 0b101001_0_1010000010000101100101011 = .ok (.jal 0x1410b2b) ∧
    decodeWord 0b101010_00000_00001_1111011100100000 = .ok (.jr 1 0xf720) ∧
    decodeWord 0b101011_11010_10101_1111100101101110 = .ok (.jalr 26 21 0xf96e) := by decide

theorem test_decode_sys_1 :
    decodeWord 0b110000_10110_00000_11111_000000_00000 = .ok (.csrrd 22 0x3e0) ∧
    decodeWord 0b110000_01100_00101_10010_000001_10010 = .ok (.csrwr 12 5 0x252) ∧
    decodeWord 0b110000_10010_00101_00001_000010_10110 = .ok (.csrset 18 5 0x36) ∧
    decodeWord 0b110000_00001_11010_11000_000011_01000 = .ok (.csrclr 1 26 0x308) ∧
    decodeWord 0b110000_000000000000000000100_10101 = .ok (.trap 21) ∧
    decodeWord 0b110000_00000000000000000010100000 = .ok (.eret) ∧
    decodeWord 0b110000_00000_00100_10001_00011000_110 = .ok (.tlbinv 4 17 6) ∧
    decodeWord 0b110000_00000000000000000011100000 = .ok (.iflush) ∧
    decodeWord 0b110000_00000_00101_00000001000_00111 = .ok (.bfld 5 7) ∧
    decodeWord 0b110000_00000_00111_00000001001_01110 = .ok (.bfst 7 14) := by decide

theorem test_decode_sys_2 :
    decodeWord 0b110000_00000000000000000101000000 = .ok (.nop) ∧
    decodeWord 0b110000_00000000000000000101100000 = .ok (.halt) := by decide

theorem test_decode_task :
    decodeWord 0b110001_00111_00001_01001_000000_01010 = .ok (.send 7 1 9 10) ∧
    decodeWord 0b110001_10001_01000_11001_000001_10011 = .ok (.sendm 17 8 25 19) ∧
    decodeWord 0b110001_00000000000000000001000000 = .ok (.tend) ∧
    decodeWord 0b110001_0000000000000000000110000_1 = .ok (.tabort true) ∧
    decodeWord 0b110001_00000_01011_01001_00010000000 = .ok (.chcfg 11 9) ∧
    decodeWord 0b110001_00000_10010_0000000010100000 = .ok (.chmask 18) ∧
    decodeWord 0b110001_00000_01110_0000000011000000 = .ok (.chunmask 14) ∧
    decodeWord 0b110001_00000_11011_0000000011100000 = .ok (.tsset 27) ∧
    decodeWord 0b110001_00101_00010_00000001000_01111 = .ok (.launch 5 2 15) := by decide

theorem test_decode_sync :
    decodeWord 0b110010_11000_0000000_011_000000_11011 = .ok (.scread 24 123) ∧
    decodeWord 0b110010_00000_01111_00_110_000001_01010 = .ok (.scinc 15 202) ∧
    decodeWord 0b110010_10011_11011_00_101_000010_00101 = .ok (.scarm 19 27 165) ∧
    decodeWord 0b110010_01110_11011_00_101_000011_00001 = .ok (.scexpect 14 27 161) ∧
    decodeWord 0b110010_00000_00101_00_101_000100_01001 = .ok (.scmode 5 169) ∧
    decodeWord 0b110010_00000_00101_00000000101_00001 = .ok (.barv 5 1) ∧
    decodeWord 0b110010_00000_01111_00000000110_00111 = .ok (.barcfg 15 7) := by decide

theorem test_decode_engine :
    decodeWord 0b110011_00110_00001_00000000000_00010 = .ok (.enq 6 1 2) ∧
    decodeWord 0b110011_00110_00101_0000000000100000 = .ok (.jobst 6 5) ∧
    decodeWord 0b110011_00000_10000_10100_00001000000 = .ok (.jobarm 16 20) ∧
    decodeWord 0b110011_11000_00100_0000000001100000 = .ok (.osclaim 24 4) ∧
    decodeWord 0b110011_00000_10010_00010_00010000000 = .ok (.osfree 18 2) ∧
    decodeWord 0b110011_01011_10110_0000000010100000 = .ok (.jobresume 11 22) ∧
    decodeWord 0b110011_10001_10010_0000000011000000 = .ok (.jobcancel 17 18) := by decide

theorem test_decode_cflow :
    decodeWord 0b110100_10000_11010_0000000000000000 = .ok (.cfopen 16 26) ∧
    decodeWord 0b110100_11001_00100_0000000000100000 = .ok (.cfnext 25 4) ∧
    decodeWord 0b110100_10010_00010_0000000001000000 = .ok (.cfexpect 18 2) ∧
    decodeWord 0b110100_01000_00111_0000000001100000 = .ok (.cfpost 8 7) ∧
    decodeWord 0b110100_01001_00010_0000000010000000 = .ok (.cfread 9 2) ∧
    decodeWord 0b110100_11001_00100_0000000010100000 = .ok (.cfseal 25 4) ∧
    decodeWord 0b110100_10001_01111_00000000110_00001 = .ok (.cfstat 17 15 1) ∧
    decodeWord 0b110100_11001_00011_0000000011100000 = .ok (.exitmark 25 3) ∧
    decodeWord 0b110100_01111_01011_10100_00100000000 = .ok (.confx 15 11 20) := by decide

theorem test_decode_group :
    decodeWord 0b110101_10001_10100_00111_00000000000 = .ok (.gstore 17 20 7) ∧
    decodeWord 0b110101_10111_01001_0000000000100000 = .ok (.grdy 23 9) ∧
    decodeWord 0b110101_01111_10001_0000000001000000 = .ok (.gpull 15 17) ∧
    decodeWord 0b110101_10010_11010_00000000011_00010 = .ok (.gcnt 18 26 2) ∧
    decodeWord 0b110101_10001_01000_0000000010000000 = .ok (.gcfg 17 8) := by decide

theorem test_decode_route :
    decodeWord 0b110110_10111_10001_01001_00000000000 = .ok (.hsift 23 17 9) ∧
    decodeWord 0b110110_10010_00111_11011_0000010000_1 = .ok (.htopk 18 7 27 true) ∧
    decodeWord 0b110110_01111_00101_000000000100000_1 = .ok (.rcupd 15 5 true) := by decide

theorem test_decode_kv :
    decodeWord 0b110111_01110_00100_0000000000000000 = .ok (.kvfork 14 4) ∧
    decodeWord 0b110111_01101_01111_0000000000100000 = .ok (.kvput 13 15) ∧
    decodeWord 0b110111_01011_00011_0000000001000000 = .ok (.kvpub 11 3) ∧
    decodeWord 0b110111_10110_01000_0000000001100000 = .ok (.kvstat 22 8) ∧
    decodeWord 0b110111_01110_00011_0000000010000000 = .ok (.kvfree 14 3) := by decide

theorem test_decode_vctl_1 :
    decodeWord 0b111000_00111_10110_01010_00000000000 = .ok (.vclaim 7 22 10) ∧
    decodeWord 0b111000_11010_000000000000000000001 = .ok (.vsync 26) ∧
    decodeWord 0b111000_00000000000000000000000010 = .ok (.vfree) ∧
    decodeWord 0b111000_00_001_00_111_00_010_00000000011 = .ok (.vmlogicAnd 1 7 2) ∧
    decodeWord 0b111000_00_110_00_011_00_010_00100000011 = .ok (.vmlogicOr 6 3 2) ∧
    decodeWord 0b111000_00_011_00_010_00_100_01000000011 = .ok (.vmlogicXor 3 2 4) ∧
    decodeWord 0b111000_00_010_00_110_00_001_01100000011 = .ok (.vmlogicAndn 2 6 1) ∧
    decodeWord 0b111000_00_100_00_010_0000010000000011 = .ok (.vmlogicNot 4 2) ∧
    decodeWord 0b111000_00_110_00_111_0000010100000011 = .ok (.vmlogicMov 6 7) ∧
    decodeWord 0b111000_00_010_000000000011000000011 = .ok (.vmlogicSet 2) := by decide

theorem test_decode_vctl_2 :
    decodeWord 0b111000_00_010_000000000011100000011 = .ok (.vmlogicClr 2) ∧
    decodeWord 0b111000_10111_00_100_0000000000000100 = .ok (.vmpop 23 4) ∧
    decodeWord 0b111000_10001_01101_01011_100_0111_0101 = .ok (.viota 17 13 11 4 .int16) := by decide

theorem test_decode_vls :
    decodeWord 0b111001_01100_0_0110_00011_001_0101_0000 = .ok (.vld 12 6 3 1 .e5m2) ∧
    decodeWord 0b111001_10010_0_1000_01111_110_0000_0001 = .ok (.vst 18 8 15 6 .fp64) ∧
    decodeWord 0b111001_01101_0_0110_10001_101_0100_0010 = .ok (.vlds 13 6 17 5 .e4m3) ∧
    decodeWord 0b111001_10001_0_0010_00100_111_0011_0011 = .ok (.vsts 17 2 4 7 .bf16) ∧
    decodeWord 0b111001_11101_0_0010_00011_001_1110_0100 = .ok (.vldx 29 2 3 1 .cfx64) ∧
    decodeWord 0b111001_11001_0_0011_01001_111_0010_0101 = .ok (.vstx 25 3 9 7 .fp16) ∧
    decodeWord 0b111001_11011_01110_00000_111_1110_0110 = .ok (.vbcast 27 14 7 .cfx64) ∧
    decodeWord 0b111001_10110_11011_01001_000_0110_0111 = .ok (.vextr 22 27 9 .int8) ∧
    decodeWord 0b111001_00101_10010_10001_000_1001_1000 = .ok (.vins 5 18 17 .int64) := by decide

theorem test_decode_varith_1 :
    decodeWord 0b111010_10000_10111_01011_001_0110_0000 = .ok (.vadd 16 23 11 1 .int8) ∧
    decodeWord 0b111010_00010_11010_10111_100_0001_0001 = .ok (.vsub 2 26 23 4 .fp32) ∧
    decodeWord 0b111010_01001_11111_00001_110_0001_0010 = .ok (.vmul 9 31 1 6 .fp32) ∧
    decodeWord 0b111010_11010_01001_00011_101_0011_0011 = .ok (.vfma 26 9 3 5 .bf16) ∧
    decodeWord 0b111010_00011_01001_11100_001_1001_0100 = .ok (.vmin 3 9 28 1 .int64) ∧
    decodeWord 0b111010_00001_01011_10010_100_0110_0101 = .ok (.vmax 1 11 18 4 .int8) ∧
    decodeWord 0b111010_10100_00101_00000_001_0011_0110 = .ok (.vabs 20 5 1 .bf16) ∧
    decodeWord 0b111010_11111_00100_00000_010_0110_0111 = .ok (.vneg 31 4 2 .int8) ∧
    decodeWord 0b111010_00010_00110_00111_011_1011_1000 = .ok (.vand 2 6 7 3 .uint16) ∧
    decodeWord 0b111010_01010_10001_11001_010_1000_1001 = .ok (.vor 10 17 25 2 .int32) := by decide

theorem test_decode_varith_2 :
    decodeWord 0b111010_01111_10001_10110_010_1000_1010 = .ok (.vxor 15 17 22 2 .int32) ∧
    decodeWord 0b111010_01100_11010_00001_011_0110_1011 = .ok (.vshl 12 26 1 3 .int8) ∧
    decodeWord 0b111010_00001_11000_10001_101_0111_1100 = .ok (.vshr 1 24 17 5 .int16) ∧
    decodeWord 0b111010_00_101_10000_01000_100_0001_1101 = .ok (.vcmpeq 5 16 8 4 .fp32) ∧
    decodeWord 0b111010_00_110_11011_10101_100_1100_1110 = .ok (.vcmplt 6 27 21 4 .uint32) ∧
    decodeWord 0b111010_10000_10010_11011_100_1010_1111 = .ok (.vsel 16 18 27 4 .uint8) := by decide

theorem test_decode_vec59 :
    decodeWord 0b111011_01010_10111_00000_010_0001_0000 = .ok (.vexp2 10 23 2 .fp32) ∧
    decodeWord 0b111011_01011_00111_00000_110_0001_0001 = .ok (.vlog2 11 7 6 .fp32) ∧
    decodeWord 0b111011_01101_01100_00000_001_0001_0010 = .ok (.vrcp 13 12 1 .fp32) ∧
    decodeWord 0b111011_00001_00011_00000_110_0011_0011 = .ok (.vrsqrt 1 3 6 .bf16) ∧
    decodeWord 0b111011_01110_00110_00000_001_0001_0100 = .ok (.vsqrt 14 6 1 .fp32) := by decide

theorem test_decode_vcvt :
    decodeWord 0b111100_10110_11011_1_0001_100_0110_0000 = .ok (.vcvt 22 27 .fp32 true 4 .int8) ∧
    decodeWord 0b111100_11100_10001_10110_011_1010_0001 = .ok (.vqnt 28 17 22 3 .uint8) ∧
    decodeWord 0b111100_01000_10111_01010_001_0011_0010 = .ok (.vdqnt 8 23 10 1 .bf16) ∧
    decodeWord 0b111100_00110_01001_01111_001_1101_0011 = .ok (.vtern 6 9 15 1 .tern2) := by decide

theorem test_decode_vred :
    decodeWord 0b111101_01100_11111_00000_011_1010_0000 = .ok (.vredsum 12 31 3 .uint8) ∧
    decodeWord 0b111101_01011_01000_00000_001_0110_0001 = .ok (.vredmax 11 8 1 .int8) ∧
    decodeWord 0b111101_00111_01100_00000_010_0000_0010 = .ok (.vredmin 7 12 2 .fp64) ∧
    decodeWord 0b111101_01011_01101_00000_001_0011_0011 = .ok (.vredamax 11 13 1 .bf16) ∧
    decodeWord 0b111101_01001_10001_00000_110_0011_0100 = .ok (.vscan 9 17 6 .bf16) ∧
    decodeWord 0b111101_01000_10001_11001_001_0001_0101 = .ok (.vperm 8 17 25 1 .fp32) ∧
    decodeWord 0b111101_01001_11011_00011_010_0110_0110 = .ok (.vslide 9 27 3 2 .int8) ∧
    decodeWord 0b111101_10011_00010_00001_011_00010111 = .ok (.abound 19 2 1 3) ∧
    decodeWord 0b111101_01010_10101_01000_00000011000 = .ok (.audchk 10 21 8) := by decide


/-! ## The decoder, on command words written out from R78, R197, R211, R238, R241, R261 and R268 -/

/-- A command word from its four dwords, D0 the least significant (R78). -/
def cmdWord (d3 d2 d1 d0 : BitVec 64) : BitVec 256 := d3 ++ d2 ++ d1 ++ d0

/-- A header with priority 3 and nothing else. -/
def hdrPlain : CmdHdr := { prio := 3, wait := none, sig := none, done := none }

/-- A header with priority 5 that waits for counter 4 to reach 2, signals counter 6 by 1 and sends a completion message to channel 9. -/
def hdrFull : CmdHdr := { prio := 5, wait := some (4, 2), sig := some (6, 1), done := some 9 }

/-- The worked case of R197. -/
theorem test_decode_mstream_worked :
    decodeCmd (cmdWord 0 0x00000000000FE400 0x0000000103FC0001 0x0500000002041B03) =
      some (.mstream { prio := 3, wait := some (4, 2), sig := some (5, 1), done := none } false false 63 .bf16 16 1024 127 0) := by decide

theorem test_decode_matrix_fill :
    -- MFILL: SLOT 200, NSLOT − 1 = 55; D2 the source shape address
    decodeCmd (cmdWord 0 0x0000000000010040 (0b00000000000000000000000000000000_00110111_11001000_00_000000_00000000)
      (0b00000000_00000000000000000000000000000000_00000000_00_0_0_0_011_00000001)) = some (.mfill hdrPlain 200 55 0x10040) ∧
    -- MWLOAD: SLOT 252, WFMT FP64, the whole header
    decodeCmd (cmdWord 0 0 (0b000000000000000000000000000000000000_0000_11111100_00_001001_00000001)
      (0b00000110_00000000000000000000000000000010_00000100_00_1_1_1_101_00000010)) = some (.mwload hdrFull 252 .fp64) := by decide

theorem test_decode_matrix_stream :
    -- MSTREAM: from a shape, OVW, CN − 1 = 9, SFMT FP64, rows 1 to 4095
    decodeCmd (cmdWord 0x40 (0b00000000000000000000000000000000000000_0111111111110_0000000000001)
      (0b0000000000000000000000000000_00000000_0000_001001_1_1_00_000000_00000000)
      (0b00000000_00000000000000000000000000000000_00000000_00_0_0_0_011_00000011)) =
        some (.mstream hdrPlain true true 9 .fp64 0 1 4094 0x40) ∧
    -- MZERO: CN − 1 = 33, rows 8191 alone
    decodeCmd (cmdWord 0 (0b00000000000000000000000000000000000000_0000000000000_1111111111111)
      (0b0000000000000000000000000000000000000000_100001_00_00_000000_00000000)
      (0b00000000_00000000000000000000000000000000_00000000_00_0_0_0_011_00000100)) = some (.mzero hdrPlain 33 8191 0) := by decide

theorem test_decode_matrix_store :
    -- MSTORE: SCM 1, CN − 1 = 63, AFMT INT32, RM 2, SAT, SCALE 0x40490FDB, ROW0 5, NROW − 1 = 6
    decodeCmd (cmdWord 0x1000 (0b00000000000000000000000000000000000000_0000000000110_0000000000101)
      (0b01000000010010010000111111011011_0_1_10_1000_111111_01_00_000000_00000000)
      (0b00000000_00000000000000000000000000000000_00000000_00_0_0_0_011_00000101)) =
        some (.mstore hdrPlain 1 63 .int32 2 true 0x40490FDB 5 6 0x1000) ∧
    -- MLOADACC: CN − 1 = 1, AFMT FP32, ROW0 7, NROW − 1 = 8
    decodeCmd (cmdWord 0x2000 (0b00000000000000000000000000000000000000_0000000001000_0000000000111)
      (0b000000000000000000000000000000000000_0001_000001_00_00_000000_00000000)
      (0b00000000_00000000000000000000000000000000_00000000_00_0_0_0_011_00000110)) =
        some (.mloadacc hdrPlain 1 .fp32 7 8 0x2000) := by decide

theorem test_decode_matrix_image :
    -- MSAVE: PRE, CAP 0x8000, HW 8192, LID 0x77
    decodeCmd (cmdWord 0x300 (0b00000000000000000000000001110111_000000000000000000_10000000000000)
      (0b00000000000000001000000000000000_000000000000000_1_00_000000_00000000)
      (0b00000000_00000000000000000000000000000000_00000000_00_0_0_0_011_00000111)) =
        some (.msave hdrPlain true 0x8000 8192 0x77 0x300) ∧
    decodeCmd (cmdWord 0x400 0 0 (0b00000000_00000000000000000000000000000000_00000000_00_0_0_0_011_00001000)) =
      some (.mrestore hdrPlain 0x400) := by decide

theorem test_decode_copy_1 :
    -- CPY: ICNT, not FAR
    decodeCmd (cmdWord 0x80 0x40 (0b0000000000000000000000000000000000000000000000_0_1_00_000000_00000000)
      (0b00000000_00000000000000000000000000000000_00000000_00_0_0_0_011_00100000)) = some (.cpy hdrPlain true false 0x40 0x80) ∧
    -- CPYM: ROWM 0x81, COLM 0x7E, DIE 2, DKIND slots, DSIG, FAR, SLOT 130, the whole header
    decodeCmd (cmdWord 0 0xC0 (0b0000000000000000000_10000010_1_1_1_10_01111110_10000001_00_001001_00000001)
      (0b00000110_00000000000000000000000000000010_00000100_00_1_1_1_101_00100001)) =
        some (.cpym hdrFull 0x81 0x7E 2 true true true 130 0xC0 0) ∧
    -- CPYG: IFMT INT64, FAR; CPYS: IFMT INT32, FAR
    decodeCmd (cmdWord 0x140 0x100 (0b0000000000000000000000000000000000000000000000_1_1_00_000000_00000000)
      (0b00000000_00000000000000000000000000000000_00000000_00_0_0_0_011_00100010)) = some (.cpyg hdrPlain true true 0x100 0x140) ∧
    decodeCmd (cmdWord 0x140 0x100 (0b0000000000000000000000000000000000000000000000_1_0_00_000000_00000000)
      (0b00000000_00000000000000000000000000000000_00000000_00_0_0_0_011_00100011)) = some (.cpys hdrPlain false true 0x100 0x140) := by
  decide

theorem test_decode_copy_2 :
    -- CPYPG: NPG − 1 = 300, TIER far
    decodeCmd (cmdWord 0x180 0x30000 (0b000000000000000000000000000000_01_0000000100101100_00_000000_00000000)
      (0b00000000_00000000000000000000000000000000_00000000_00_0_0_0_011_00100100)) =
        some (.cpypg hdrPlain 300 1 0x30000 0x180) ∧
    -- CPYFILL
    decodeCmd (cmdWord 0xDEADBEEF 0x1C0 0 (0b00000000_00000000000000000000000000000000_00000000_00_0_0_0_011_00100101)) =
      some (.cpyfill hdrPlain 0x1C0 0xDEADBEEF) ∧
    -- CPYMSG: FAR
    decodeCmd (cmdWord 0x240 0x200 (0b00000000000000000000000000000000000000000000000_1_00_000000_00000000)
      (0b00000000_00000000000000000000000000000000_00000000_00_0_0_0_011_00100110)) = some (.cpymsg hdrPlain true 0x200 0x240) ∧
    -- KVGATHER: defer, not FAR, both parts
    decodeCmd (cmdWord 0x2C0 0x280 (0b00000000000000000000000000000000000000000000_10_0_1_00_000000_00000000)
      (0b00000000_00000000000000000000000000000000_00000000_00_0_0_0_011_00100111)) =
        some (.kvgather hdrPlain true false 2 0x280 0x2C0) := by decide

theorem test_decode_backfill :
    -- BFILL: G_EXIT 3, LAST 40, PERL
    decodeCmd (cmdWord 0 0x300 (0b000000000000000_1_0000000000101000_0000000000000011_00_000000_00000000)
      (0b00000000_00000000000000000000000000000000_00000000_00_0_0_0_011_01000000)) = some (.bfill hdrPlain 3 40 true 0x300) ∧
    -- BFCANCEL of a job of engine 2
    decodeCmd (cmdWord 0 0x40000007 0 (0b00000000_00000000000000000000000000000000_00000000_00_0_0_0_011_01000001)) =
      some (.bfcancel hdrPlain 0x40000007) := by decide

theorem test_decode_reconcile :
    decodeCmd (cmdWord 0x12345678 0x340 0 (0b00000000_00000000000000000000000000000000_00000000_00_0_0_0_011_01100000)) =
      some (.rcsnap hdrPlain 0x340 0x12345678) ∧
    decodeCmd (cmdWord (0b000000000000000000000000000000000000000000000000_00001100_000_01010) 0x340 0
      (0b00000000_00000000000000000000000000000000_00000000_00_0_0_0_011_01100001)) = some (.rcxchg hdrPlain 0x340 10 12) ∧
    decodeCmd (cmdWord 0 0x340 0 (0b00000000_00000000000000000000000000000000_00000000_00_0_0_0_011_01100010)) =
      some (.rcpeel hdrPlain 0x340) ∧
    decodeCmd (cmdWord 0 0x340 0 (0b00000000_00000000000000000000000000000000_00000000_00_0_0_0_011_01100011)) =
      some (.rcfetch hdrPlain 0x340) ∧
    decodeCmd (cmdWord (0b000000000000000000000000000000000000000000000000_00100001_00000000) 0x340 0
      (0b00000000_00000000000000000000000000000000_00000000_00_0_0_0_011_01100100)) = some (.rcround hdrPlain 0x340 33) := by decide

theorem test_decode_router :
    -- GALLRED: GROUP 17, CCTR 18, NCH 19, SEQ 20, NB64 − 1 = 21
    decodeCmd (cmdWord 0x380 (0b0000000000000000000000_0000010101_00000000000000000000000000010100)
      (0b0000000000000000_0000000000010011_00010010_00010001_00_000000_00000000)
      (0b00000000_00000000000000000000000000000000_00000000_00_0_0_0_011_01110000)) =
        some (.gallred hdrPlain 17 18 19 20 21 0x380) ∧
    decodeCmd (cmdWord 0x380 (0b0000000000000000000000_0000010101_00000000000000000000000000010100)
      (0b0000000000000000_0000000000010011_00010010_00010001_00_000000_00000000)
      (0b00000000_00000000000000000000000000000000_00000000_00_0_0_0_011_01110001)) =
        some (.gallgath hdrPlain 17 18 19 20 21 0x380) ∧
    -- GBCAST: ROOT leaf 22
    decodeCmd (cmdWord 0x380 (0b0000000000000000000000_0000010101_00000000000000000000000000010100)
      (0b0000000000_010110_0000000000010011_00010010_00010001_00_000000_00000000)
      (0b00000000_00000000000000000000000000000000_00000000_00_0_0_0_011_01110010)) =
        some (.gbcast hdrPlain 17 18 19 22 20 21 0x380) := by decide

/-! ## Ill-formed terms: one for each check of the fields (R63, R67 to R70, R72, R74, R80), and words that the decoder refuses -/

theorem test_wf_int : (Instr.lea 1 2 3 5).wf = false ∧ (Instr.lea 1 2 3 4).wf = true := by decide

theorem test_wf_fcvt :
    (Instr.fcvt 1 2 .fp32 .int8 false).wf = false ∧ (Instr.fcvt 1 2 .fp32 .fp32 false).wf = false ∧
    (Instr.fcvt 1 2 .int32 .int64 false).wf = false ∧ (Instr.fcvt 1 2 .fp64 .fp32 true).wf = false ∧
    (Instr.fcvt 1 2 .fp64 .e4m3 true).wf = true := by decide

theorem test_wf_registers :
    (Instr.ldd 1 2 28 0).wf = false ∧ (Instr.beq 28 1 false 0).wf = false ∧ (Instr.beq 1 28 false 0).wf = false ∧
    (Instr.csrrd 28 7).wf = false ∧ (Instr.send 1 28 2 0).wf = false ∧ (Instr.amoAdd 28 0 1 2 .spec).wf = false ∧
    (Instr.vclaim 31 1 2).wf = false ∧ (Instr.add 28 29 30).wf = true := by decide

theorem test_wf_multi :
    (Instr.ldm 0 1 3 0).wf = false ∧ (Instr.ldm 1 1 0 0).wf = false ∧ (Instr.ldm 1 1 28 0).wf = false ∧
    (Instr.stm 20 1 9 0).wf = false ∧ (Instr.stm 20 1 8 0).wf = true := by decide

theorem test_wf_amo :
    (Instr.amoSwap 1 0 2 3 .comm).wf = false ∧ (Instr.amoCas 1 0 2 3 .quant).wf = false ∧ (Instr.amoLoad 1 0 2 .quant).wf = false ∧
    (Instr.amoStore 0 1 2 .comm).wf = false ∧ (Instr.amoMinu 1 0 2 3 .quant).wf = true := by decide

theorem test_wf_system :
    (Instr.tlbinv 1 2 8).wf = false ∧ (Instr.bfld 1 0).wf = false ∧ (Instr.bfld 1 16).wf = false ∧ (Instr.bfst 1 16).wf = false ∧
    (Instr.bfst 1 0).wf = true ∧ (Instr.launch 1 2 16).wf = false := by decide

theorem test_wf_sync_engine :
    (Instr.barv 1 8).wf = false ∧ (Instr.barcfg 1 8).wf = false ∧ (Instr.enq 1 0 0).wf = false ∧ (Instr.enq 1 25 0).wf = false ∧
    (Instr.enq 1 24 5).wf = false ∧ (Instr.enq 1 24 4).wf = true ∧ (Instr.cfstat 1 2 5).wf = false ∧ (Instr.gcnt 1 2 3).wf = false := by
  decide

theorem test_wf_vector_formats :
    (Instr.viota 1 2 3 0 .fp32).wf = false ∧ (Instr.vadd 1 2 3 0 .e4m3).wf = false ∧ (Instr.vabs 1 2 0 .uint8).wf = false ∧
    (Instr.vand 1 2 3 0 .fp32).wf = false ∧ (Instr.vexp2 1 2 0 .fp64).wf = false ∧ (Instr.vqnt 1 2 3 0 .fp32).wf = false ∧
    (Instr.vtern 1 2 3 0 .int8).wf = false ∧ (Instr.vredamax 1 2 0 .int8).wf = false ∧ (Instr.vperm 1 2 3 0 .tern2).wf = false := by decide

theorem test_wf_vector_converts :
    (Instr.vcvt 1 2 .cfx64 false 0 .fp32).wf = false ∧ (Instr.vcvt 1 2 .fp32 false 0 .cfx64).wf = false ∧
    (Instr.vcvt 1 2 .fp32 false 0 .fp32).wf = false ∧ (Instr.vcvt 1 2 .fp32 true 0 .bf16).wf = false ∧
    (Instr.abound 1 2 31 0).wf = false ∧ (Instr.abound 1 2 30 0).wf = true := by decide

theorem test_wf_matrix :
    (Instr.mfill hdrPlain 200 56 0).wf = false ∧ (Instr.mfill hdrPlain 0 0 32).wf = false ∧ (Instr.mwload hdrPlain 0 .int16).wf = false ∧
    (Instr.mwload hdrPlain 253 .fp64).wf = false ∧ (Instr.mwload hdrPlain 255 .fp32).wf = false ∧
    (Instr.mstream hdrPlain false false 0 .int16 0 0 0 0).wf = false ∧ (Instr.mstream hdrPlain false false 0 .bf16 0 8191 1 0).wf = false ∧
    (Instr.mstream hdrPlain false false 0 .fp64 0 4095 1 0).wf = false ∧ (Instr.mstream hdrPlain true false 0 .bf16 1 0 0 0).wf = false ∧
    (Instr.mstream hdrPlain true false 0 .bf16 0 0 0 32).wf = false ∧ (Instr.mstream hdrPlain false false 0 .bf16 0 0 0 64).wf = false ∧
    (Instr.mzero hdrPlain 0 8191 1).wf = false := by decide

theorem test_wf_matrix_store :
    (Instr.mstore hdrPlain 0 0 .bf16 0 false 0 0 0 0).wf = false ∧ (Instr.mstore hdrPlain 3 0 .fp32 0 false 0 0 0 0).wf = false ∧
    (Instr.mstore hdrPlain 0 0 .fp32 0 false 1 0 0 0).wf = false ∧ (Instr.mstore hdrPlain 0 0 .fp64 0 false 0 4095 1 0).wf = false ∧
    (Instr.mstore hdrPlain 0 0 .fp32 0 false 0 0 0 32).wf = false ∧ (Instr.mloadacc hdrPlain 0 .bf16 0 0 0).wf = false ∧
    (Instr.mloadacc hdrPlain 0 .fp32 8191 1 0).wf = false ∧ (Instr.mloadacc hdrPlain 0 .fp32 0 0 32).wf = false ∧
    (Instr.msave hdrPlain false 0 8193 0 0).wf = false ∧ (Instr.msave hdrPlain false 0 0 0 64).wf = false ∧
    (Instr.mrestore hdrPlain 64).wf = false := by decide

theorem test_wf_copy :
    (Instr.cpy hdrPlain false false 32 0).wf = false ∧ (Instr.cpy hdrPlain false false 0 32).wf = false ∧
    (Instr.cpym hdrPlain 0 1 0 false false false 0 0 0).wf = false ∧ (Instr.cpym hdrPlain 1 0 0 false false false 0 0 0).wf = false ∧
    (Instr.cpym hdrPlain 1 1 0 false false false 1 0 0).wf = false ∧ (Instr.cpym hdrPlain 1 1 0 true false false 0 0 1).wf = false ∧
    (Instr.cpym hdrPlain 1 1 0 false true false 0 0 0).wf = false ∧ (Instr.cpym hdrPlain 1 1 0 false false false 0 32 0).wf = true ∧
    (Instr.cpyg hdrPlain false false 32 0).wf = false ∧ (Instr.cpys hdrPlain false false 0 32).wf = false ∧
    (Instr.cpypg hdrPlain 0 2 0 0).wf = false ∧ (Instr.cpypg hdrPlain 0 1 4096 0).wf = false ∧ (Instr.cpypg hdrPlain 0 1 0 32).wf = false := by
  decide

theorem test_wf_copy_more :
    (Instr.cpyfill hdrPlain 32 0).wf = false ∧ (Instr.cpymsg hdrPlain false 32 0).wf = false ∧ (Instr.cpymsg hdrPlain false 0 32).wf = false ∧
    (Instr.kvgather hdrPlain false false 3 0 0).wf = false ∧ (Instr.kvgather hdrPlain false false 0 32 0).wf = false ∧
    (Instr.kvgather hdrPlain false false 0 0 32).wf = false ∧ (Instr.bfill hdrPlain 4 4 false 0).wf = false ∧
    (Instr.bfill hdrPlain 4 5 false 32).wf = false ∧ (Instr.bfcancel hdrPlain 7).wf = false := by decide

theorem test_wf_collective :
    (Instr.rcsnap hdrPlain 32 0).wf = false ∧ (Instr.rcxchg hdrPlain 32 0 1).wf = false ∧ (Instr.rcxchg hdrPlain 0 5 1).wf = false ∧
    (Instr.rcxchg hdrPlain 0 17 1).wf = false ∧ (Instr.rcxchg hdrPlain 0 6 0).wf = false ∧ (Instr.rcpeel hdrPlain 32).wf = false ∧
    (Instr.rcfetch hdrPlain 32).wf = false ∧ (Instr.rcround hdrPlain 32 1).wf = false ∧ (Instr.rcround hdrPlain 0 0).wf = false ∧
    (Instr.gallred hdrPlain 0 0 0 0 0 32).wf = false ∧ (Instr.gallgath hdrPlain 0 0 0 0 0 32).wf = false ∧
    (Instr.gbcast hdrPlain 0 0 0 0 0 0 32).wf = false := by decide

/-- R63, R64, R65, R70, R75, R76: an unassigned major opcode, an unassigned fn, a nonzero rsv bit, a port where none may stand, an unassigned
use and format code 15 are refused by name. -/
theorem test_decode_refuses :
    decodeWord (0b111111_00000000000000000000000000) = .error .major ∧
    decodeWord (0b000000_00001_00010_00011_00000_011110) = .error .sub ∧
    decodeWord (0b000000_00001_00010_00011_00001_000000) = .error .reserved ∧
    decodeWord (0b010110_00001_0010_11100_000000000000) = .error .limits ∧
    decodeWord (0b011110_00001_0010_00011_00100_0000_101) = .error .sub ∧
    decodeWord (0b111001_00001_0_0010_00011_000_1111_0000) = .error .limits := by decide

/-- R78 to R80: an unassigned command opcode and a nonzero rsv bit of D0, D1 and D3 are refused. -/
theorem test_decode_cmd_refuses :
    decodeCmd (cmdWord 0 0 0 0x00) = none ∧ decodeCmd (cmdWord 0 0 0 0x09) = none ∧
    decodeCmd (cmdWord 0 0x40 0 0x4001) = none ∧ decodeCmd (cmdWord 0 0x40 0x4000 0x01) = none ∧
    decodeCmd (cmdWord 1 0x40 0 0x01) = none ∧ (decodeCmd (cmdWord 0 0x40 0 0x01)).isSome = true := by decide



/-! ## Small states -/

/-- An element in supervisor mode at its next instruction, with a run under way and an identity mapping of the first 4 TiB. -/
def base : State := placeWord State.reset []

/-- The current element changed. -/
def onElem (s : State) (f : Elem → Elem) : State := modCur s f

/-- A workspace register of the current element set. -/
def reg (s : State) (r : Nat) (v : Nat) : State := onElem s (fun x => lsWrite x (wOff x r) 8 v)

/-- w1, w2 and w3 set. -/
def regs3 (u v w : Nat) : State := reg (reg (reg base 1 u) 2 v) 3 w

/-- The same in user mode. -/
def user (s : State) : State := onElem s (fun x => { x with csr := { x.csr with status := setMode x.csr.status 0 } })

/-- The running run changed. -/
def onRun (s : State) (f : Run → Run) : State := onElem s (fun x => { x with run := x.run.map f })

/-- Dwords written to local store from an offset. -/
def lsPut (s : State) (off : Nat) : List Nat → State
  | [] => s
  | v :: l => lsPut (onElem s (fun x => lsWrite x off 8 v)) (off + 8) l

/-- A buffer record of the current element: base, extent and BMODE. -/
def bufAt (s : State) (n bs ext mode : Nat) : State :=
  onElem s (fun x => { x with bf := tput x.bf n (BitVec.ofNat 256 (bs + ext * 2 ^ 64 + mode * 2 ^ 180)) })

/-- The answer is this next state. -/
def answers (o : Host.Outcome State Fault Refusal) (t : State) : Bool :=
  match o with | .next u => decide (u = t) | _ => false

/-- The answer is a next state that satisfies a condition. -/
def goesTo (o : Host.Outcome State Fault Refusal) (p : State → Bool) : Bool :=
  match o with | .next u => p u | _ => false

/-- The instruction completes in this state. -/
def doesB (i : Instr) (s t : State) : Bool := answers (exec i s) (advance t)

/-- The instruction traps. -/
def trapsB (i : Instr) (s : State) (cause : Nat) (ev : Dword) : Bool := answers (exec i s) (takeTrap (noteMcheck s cause ev) cause ev)

/-- The computation ends well. -/
def good {ε α : Type} (o : Except ε α) : Bool := match o with | .ok _ => true | .error _ => false

/-- A word waits at the north port of element 40, which has a neighbour there. -/
def atPort : State :=
  let s : State := { State.reset with cur := 64 }
  let t := placeWord s []
  onElem t (fun x => { x with fifo := tput x.fifo 0 [{ word := 7, ts := 1, lid := 0 }] })



/-! ## Words and steps -/

/-- The premises of DecodeEncodeWord and DecodeEncodeCommand. -/
theorem test_hyp_encodings :
    (Instr.vfma 3 4 5 2 .fp32).wf = true ∧ encodeWord (.vfma 3 4 5 2 .fp32) = some 0xE8642A13 ∧
    (Instr.mzero hdrPlain 33 8191 0).wf = true ∧ (encodeCmd (.mzero hdrPlain 33 8191 0)).isSome = true := by decide

/-- The state that a turn of element 0 finds, with NOP at its place, and the same with the current slot annulled. -/
def turnOf (s : State) : State := { s with agenda := [], tick := s.tick + 1, marks := [], cur := 0 }

/-- The premises of StepRunsDecoded for an element, and what follows. -/
theorem test_hyp_step_element :
    let s := State.reset.withFetchWord 32 0xC0000140
    let a := onElem s (fun x => { x with seq := { x.seq with ap := true } })
    s.agenda = [.element 0] ∧ canMove s 0 = true ∧ s.hostLost = none ∧ (curElem (turnOf s)).seq.ap = false ∧
    (match fetch (turnOf s) with | .ok (w, t) => decodeWord w == .ok .nop && (namesPort w && isUrgent (curElem t)) == false
                                                  && goesTo (exec .nop t) (fun u => answers (step s) u) | .error _ => false) = true ∧
    canMove a 0 = true ∧ (curElem (turnOf a)).seq.ap = true ∧ answers (step a) (advance (turnOf a)) = true := by decide

/-- The premises of StepRunsDecoded for an engine. -/
theorem test_hyp_step_engine :
    let w := (encodeCmd (.mzero hdrPlain 3 0 0)).getD 0
    let s := State.reset.withFetchWord 256 w.toNat
    let q : QueueId := { eng := 0, idx := 0 }
    let s1 : State := { s with agenda := [], tick := s.tick + 1 }
    s.agenda = [.engine q false] ∧ (queue s1 q).edge = none ∧ (chooseJob s1 q false).isSome = true ∧
    (match chooseJob s1 q false with
     | some j => decodeCmd j.cmd == some (.mzero hdrPlain 3 0 0)
        && goesTo (exec (.mzero hdrPlain 3 0 0) (takeJob s1 q false j)) (fun u => answers (step s) u)
     | none => false) = true := by decide

/-- The premises of RefusedWordsTrap: a refused word; a word that names a port, in an urgent task. -/
theorem test_hyp_refused :
    let s := onRun base (fun r => { r with urgent := true })
    decodeWord 0xFC000000 = .error .major ∧ decodeWord 0x03800000 = .ok (.add 28 0 0) ∧ namesPort 0x03800000 = true ∧
    isUrgent (curElem s) = true ∧ answers (execWord 0xFC000000 base) (takeTrap base cILLOP 0xFC000000) = true ∧
    answers (execWord 0x03800000 s) (takeTrap s cILLOP 0x03800000) = true := by decide

/-- The premise of StepKeepsMemoryForm for grants, and ResetMemoryForm. -/
theorem test_hyp_grants : State.reset.memOk ∧ State.reset.grantsOk := by
  refine ⟨⟨by decide, by decide, ?_, ?_⟩, ?_⟩ <;> intro p hp <;> cases hp

/-- The premises of StepKeepsMemoryForm, on a machine whose memory lists bytes. -/
theorem test_hyp_memory :
    let s := State.reset.withFetchWord 32 0xC0000140
    Memory.wf s.mem = true ∧ Memory.wf s.memEdge = true ∧ s.mem ≠ [] ∧ goesTo (step s) (fun t => Memory.wf t.mem) = true := by decide

/-- The premises of ResetValues: the first, the last and the exceptional CSRs. -/
theorem test_hyp_reset :
    (csrKind 0).isSome = true ∧ csrGet State.reset 0 = 0x100000000 ∧ (csrKind 5).isSome = true ∧ csrGet State.reset 5 = 10 ∧
    (csrKind 7).isSome = true ∧ csrGet State.reset 7 = 0 ∧ (0 : Nat) < 2 ∧ (1 : Nat) < 2 := by decide

/-! ## Registers -/

/-- The premises of IntGroup, DivisionCorners and ImmediateGroup: two sources and a destination; a port as source and as destination. -/
theorem test_hyp_registers :
    let s := regs3 6 7 8
    s.canRead2 1 2 = true ∧ (s.after2 1 2).canWrite 3 = true ∧ doesB (.add 3 1 2) s ((s.after2 1 2).putReg 3 13) = true ∧
    s.canRead 1 = true ∧ (s.after1 1).canWrite 3 = true ∧ s.canWrite 27 = true := by decide

theorem test_hyp_ports :
    atPort.canRead2 28 1 = true ∧ (atPort.after2 28 1).canWrite 29 = true ∧
    doesB (.sub 29 28 0) atPort ((atPort.after2 28 0).putReg 29 7) = true := by decide

/-- The premises of the conditional moves: a zero and another condition. -/
theorem test_hyp_moves :
    let s := regs3 6 0 8
    s.canRead2 1 2 = true ∧ s.src2 1 2 = 0 ∧ (s.after2 1 2).canWrite 4 = true ∧ doesB (.cmovz 4 1 2) s ((s.after2 1 2).putReg 4 6) = true ∧
    s.canRead2 1 3 = true ∧ s.src2 1 3 ≠ 0 ∧ doesB (.cmovz 4 1 3) s (s.after2 1 3) = true ∧ doesB (.cmovnz 4 1 2) s (s.after2 1 2) = true := by
  decide

/-- R110: the corners of division. -/
theorem test_div_corners :
    divQ true 0x8000000000000000 (BitVec.allOnes 64) = 0x8000000000000000 ∧ divR true 0x8000000000000000 (BitVec.allOnes 64) = 0 ∧
    divQ true 7 0 = BitVec.allOnes 64 ∧ divR true 7 0 = 7 ∧ (divQ true (0 - 7) 2).toInt = -3 ∧ (divR true (0 - 7) 2).toInt = -1 ∧
    divQ false 7 2 = 3 ∧ divR false 7 2 = 1 := by decide

/-- R109: MULH of two negatives, SRA by an amount beyond 63, and MIN and MINU of −1 and 1. -/
theorem test_int_values :
    doesB (.mulh 4 1 2) (regs3 (2 ^ 64 - 1) (2 ^ 64 - 2) 0) ((regs3 (2 ^ 64 - 1) (2 ^ 64 - 2) 0).putReg 4 0) = true ∧
    doesB (.mulhu 4 1 2) (regs3 (2 ^ 64 - 1) (2 ^ 64 - 1) 0) ((regs3 (2 ^ 64 - 1) (2 ^ 64 - 1) 0).putReg 4 (BitVec.ofNat 64 (2 ^ 64 - 2))) = true ∧
    doesB (.sra 4 1 2) (regs3 (2 ^ 63) 65 0) ((regs3 (2 ^ 63) 65 0).putReg 4 0xC000000000000000) = true ∧
    doesB (.min 4 1 2) (regs3 (2 ^ 64 - 1) 1 0) ((regs3 (2 ^ 64 - 1) 1 0).putReg 4 (BitVec.allOnes 64)) = true ∧
    doesB (.minu 4 1 2) (regs3 (2 ^ 64 - 1) 1 0) ((regs3 (2 ^ 64 - 1) 1 0).putReg 4 1) = true := by decide

/-- R109, R112: CLZ and CTZ of 0, EXTS from bit 7, LEA by 4, LUI of a negative value and SLTIU of −1. -/
theorem test_int_more :
    doesB (.clz 4 1) (regs3 0 0 0) ((regs3 0 0 0).putReg 4 64) = true ∧ doesB (.ctz 4 1) (regs3 0 0 0) ((regs3 0 0 0).putReg 4 64) = true ∧
    doesB (.exts 4 1 7) (regs3 0x80 0 0) ((regs3 0x80 0 0).putReg 4 (BitVec.ofInt 64 (-128))) = true ∧
    doesB (.lea 4 1 2 4) (regs3 1 2 0) ((regs3 1 2 0).putReg 4 33) = true ∧
    doesB (.lui 4 0x8000) base (base.putReg 4 0xFFFFFFFF80000000) = true ∧
    doesB (.sltiu 4 1 0xFFFF) (regs3 5 0 0) ((regs3 5 0 0).putReg 4 1) = true := by decide

/-- The premises of PortStops: an urgent task, a port without a neighbour, an empty port, and a port without credits. -/
theorem test_hyp_port_stops :
    let u := onRun atPort (fun r => { r with urgent := true })
    let e := onElem atPort (fun x => { x with fifo := [] })
    let c := onElem atPort (fun x => { x with credit := tput x.credit 0 0 })
    isUrgent (curElem u) = true ∧ trapsB (.add 1 28 0) u cILLOP (instrWord (.add 1 28 0)) = true ∧
    neighbour base 0 (portOf 28) = none ∧ trapsB (.add 1 28 0) base cILLOP (instrWord (.add 1 28 0)) = true ∧
    (neighbour e 64 (portOf 28)).isSome = true ∧ isUrgent (curElem e) = false ∧ tget (curElem e).fifo (portOf 28) [] = [] ∧
    answers (exec (.add 1 28 0) e) (abortRunning e 64 (.port 0 true)) = true ∧ c.tsOk = true ∧ tget (curElem c).credit (portOf 28) 16 = 0 ∧
    answers (exec (.lui 28 3) c) (abortRunning c 64 (.port 0 false)) = true := by decide

/-- The premises of FpuResults; 1.5 + 2.5 in FP32, and −2.75 to INT32 by round to nearest even. -/
theorem test_hyp_fpu :
    let s := regs3 0x3FC00000 0x40200000 0xC0300000
    s.canRead2 1 2 = true ∧ (s.after2 1 2).canRead 3 = true ∧ ((s.after2 1 2).after1 3).canWrite 3 = true ∧
    doesB (.fadd 4 1 2 .fp32) s (s.putFp 4 0x40800000 0) = true ∧
    doesB (.fcvt 4 3 .fp32 .int32 false) s (s.putFp 4 (BitVec.ofInt 64 (-3)) flNX) = true := by decide

/-- The premises of RegisterInstructionFrame. -/
theorem test_hyp_register_frame :
    let s := regs3 6 7 8
    registerForm (.ffma 3 1 2 .fp64) = some (3, [1, 2, 3]) ∧ s.canWrite 3 = true ∧ s.canRead 1 = true ∧ s.canRead 2 = true ∧ s.canRead 3 = true ∧
    goesTo (exec (.ffma 3 1 2 .fp64) s) (fun _ => true) = true ∧ registerForm (.lui 0 7) = some (0, []) ∧ s.canWrite 0 = true ∧
    goesTo (exec (.lui 0 7) s) (fun _ => true) = true := by decide

/-! ## Loads, stores and atomics -/

/-- bf5 covers 0x100 bytes of local store at 0x400, bf6 0x1000 bytes of memory at 0x400000, bf7 is like bf5 under ZERO, bf8 under CLAMP;
w1 is 8, w2 0x1122334455667788. -/
def access : State :=
  bufAt (bufAt (bufAt (bufAt (regs3 8 0x1122334455667788 0x100) 5 (lsBase + 0x400) 0x100 0) 6 0x400000 0x1000 0) 7 (lsBase + 0x400) 0x100 2)
    8 (lsBase + 0x400) 0x100 1

/-- The translation of an access to bf6, and the state that it leaves. -/
def mapped (s : State) (k : AccKind) (off sz : Nat) (p : Xlat → State → Bool) : Bool :=
  match s.mappedAt k 6 off sz with | some (r, t) => p r t | none => false

/-- The premises of SingleAccesses: a load in local store, in memory, and beyond the extent under ZERO. -/
theorem test_hyp_loads :
    let s := access
    s.canRead 1 = true ∧ (s.after1 1).localAt 5 (memOff (s.src1 1) 0 8) 8 = some 0x408 ∧
    lsPoisoned (curElem (s.after1 1)) 0x408 8 = false ∧ (s.after1 1).canWrite 4 = true ∧
    (s.after1 1).localAt 5 (memOff (s.src1 1) 0xF7 1) 1 = some 0x4FF ∧
    mapped s .load 8 8 (fun r t => t.canTrack (r.pa / 64) r.untr && ((t.tracked (r.pa / 64) r.untr).seen r.pa 8).isSome
      && (t.tracked (r.pa / 64) r.untr).canWrite 4 && doesB (.ldd 4 6 1 0) s ((t.tracked (r.pa / 64) r.untr).putReg 4 0)) = true ∧
    (s.after1 3).zeroAt 7 (memOff (s.src1 3) 0 8) 8 = true ∧ doesB (.ldd 4 7 3 0) s (s.putReg 4 0) = true := by decide

/-- The premises of SingleAccesses: a store in local store, in memory, and beyond the extent under ZERO. -/
theorem test_hyp_stores :
    let s := access
    s.canRead2 1 2 = true ∧ (s.after2 1 2).localAt 5 (memOff (s.src1 1) 0 2) 2 = some 0x408 ∧ (curElem s).lsBad.contains (0x408 / 8) = false ∧
    s.canLog (0x408 / 8) = true ∧ doesB (.sth 2 5 1 0) s (s.putLs 0x408 2 0x7788) = true ∧
    mapped s .store 8 8 (fun r t => t.canBuffer r.pa && doesB (.std 2 6 1 0) s (t.buffered r.pa r.codec (leBytes 8 0x1122334455667788))) = true ∧
    (s.after2 3 2).zeroAt 7 (memOff (s.src1 3) 0 8) 8 = true ∧ doesB (.std 2 7 3 0) s s = true := by decide

/-- The premises of SingleAccesses for a store beyond the extent under ZERO whose register is a port: its word is taken. -/
theorem test_hyp_store_port :
    let s := bufAt (reg atPort 3 0x100) 7 (lsBase + 0x400) 0x100 2
    s.canRead 3 = true ∧ (s.after1 3).zeroAt 7 (memOff (s.src1 3) 0 8) 8 = true ∧ (s.after1 3).canRead 28 = true ∧
    doesB (.std 28 7 3 0) s ((s.after1 3).after1 28) = true := by decide +kernel

/-- R117: LDB sign-extends, LDWU does not; CLAMP brings an offset beyond the extent back to the last dword. -/
theorem test_load_values :
    let s := lsPut access 0x408 [0xFFFFFFFF80]
    let c := lsPut access 0x4F8 [77]
    doesB (.ldb 4 5 1 0) s (s.putReg 4 (BitVec.ofInt 64 (-128))) = true ∧ doesB (.ldwu 4 5 1 0) s (s.putReg 4 0xFFFFFF80) = true ∧
    doesB (.ldd 4 8 3 0) c (c.putReg 4 77) = true := by decide

/-- The premises of AccessTraps, clause by clause: PRIV, BOUNDS by the extent, PROT, ALIGN, BOUNDS by the local store. -/
theorem test_hyp_access_traps :
    let u := user access
    let p := bufAt access 9 (2 ^ 55) 0x100 0
    let e := bufAt access 9 (2 ^ 55 - 0x100) 0x100 0
    let b := onElem e (fun x => { x with bmask := 0x7F })
    u.mode = 0 ∧ trapsB (.ldd 4 0 1 0) u cPRIV (instrWord (.ldd 4 0 1 0)) = true ∧
    boundOff (bfReg (curElem access) 5) false 0x100 8 = none ∧ trapsB (.ldd 4 5 3 0) access cBOUNDS (dw (lsBase + 0x500)) = true ∧
    boundOff (bfReg (curElem p) 9) false 8 8 = some (8, true) ∧ trapsB (.ldd 4 9 1 0) p cPROT (dw (2 ^ 55 + 8)) = true ∧
    trapsB (.ldw 4 5 1 0) (reg access 1 6) cALIGN (dw (lsBase + 0x406)) = true ∧
    lsSize (curElem b) < 2 ^ 55 - 0xF8 - lsBase + 8 ∧ trapsB (.ldd 4 9 1 0) b cBOUNDS (dw (2 ^ 55 - 0xF8)) = true := by decide

/-- The premise of AccessTraps' last clause: an address above the mapped 4 TiB is not translated. -/
theorem test_hyp_access_fault :
    let s := bufAt access 9 (2 ^ 43) 0x100 0
    (match translate s (.element 0) (asidOf s (curElem s) 0) (2 ^ 43 + 8) 1 .store with
     | .error e => decide (xMarks s (idieOf (dieOf 0)) e = []) && trapsB (.std 2 9 1 0) s (xCause .store e) (dw (2 ^ 43 + 8))
     | .ok _ => false) = true := by decide

/-- bf9 names a page that the TLB maps to bank 16 of cluster 0's scratchpad, of which 16 banks are usable; its PTE, at 0x400100, has D clear. -/
def beyondBanks : State :=
  let s := onElem (bufAt access 9 (2 ^ 43) 0x100 0) (fun x =>
    { x with tlb := [{ asid := 0, level := 2, vpn := 2 ^ 27, pte := dw (spAddr 0 0x200000 + 0x4F), at' := 0x400100 }] })
  modClus s 0 (fun c => { c with spb := 16 })

/-- The premise of AccessTraps' very last clause, for a store: BOUNDS, and the D that the translation has set stays. -/
theorem test_hyp_access_beyond :
    (match translate beyondBanks (.element 0) (asidOf beyondBanks (curElem beyondBanks) 0) (2 ^ 43 + 8) 1 .store with
     | .ok (r, u) => r.beyond && decide (u.marks.length = 1)
       && goesTo (exec (.std 2 9 1 0) beyondBanks) (fun t => (curElem t).x.ecause == cBOUNDS && memDword t.mem 0x400100 == 0x80)
     | .error _ => false) = true := by decide

/-- The premise of MultipleAccesses for BOUNDS beyond the usable banks, at the first dword of a load. -/
theorem test_hyp_multiple_beyond :
    (match translate beyondBanks (.element 0) (asidOf beyondBanks (curElem beyondBanks) 0) (2 ^ 43) 1 .load with
     | .ok (r, _) => r.beyond && trapsB (.ldm 4 9 2 0) beyondBanks cBOUNDS (dw (2 ^ 43)) | .error _ => false) = true := by decide +kernel

/-- The premises of StoreFrame: into local store, and into memory. -/
theorem test_hyp_store_frame :
    let s := access
    s.canRead 1 = true ∧ s.canRead 2 = true ∧ goesTo (exec (.stw 2 5 1 0) s) (fun _ => true) = true ∧
    s.localAt 5 (memOff (s.src1 1) 0 4) 4 = some 0x408 ∧ s.canLog (0x408 / 8) = true ∧ (curElem s).lsBad.contains (0x408 / 8) = false ∧
    goesTo (exec (.stw 2 6 1 0) s) (fun _ => true) = true ∧ mapped s .store 8 4 (fun r u => u.canBuffer r.pa) = true := by decide

/-- The premises of MultipleAccesses: three registers from w4, from 0x408 of local store. -/
theorem test_hyp_multiple :
    let s := access
    multiOk 4 3 = true ∧ (curElem s).afterEret = false ∧ (match (curElem s).run with | some r => decide (r.undo.length + 3 ≤ undoCap) | none => false) = true ∧
    (∀ i, i < 3 → s.localAt 5 (multiOff 1 i) 8 = some (0x408 + 8 * i)) ∧ lsPoisoned (curElem s) 0x408 24 = false ∧
    (∀ i, i < 3 → s.canRead (regPlus 4 i) = true) ∧ wOff (curElem s) 7 ≤ 0x408 ∧
    goesTo (exec (.ldm 4 5 3 1) (lsPut s 0x408 [1, 2, 3])) (fun t => getW (curElem t) 4 == 1 && getW (curElem t) 6 == 3) = true ∧
    goesTo (exec (.stm 1 5 3 1) s) (fun t => memDword (curElem t).ls 0x410 == 0x1122334455667788) = true := by decide

/-- Three dwords of local store at 0x408 go to w4 to w6; the first is taken under ZERO at 0x100, beyond the extent of bf7. -/
theorem test_hyp_by_dword_local :
    let s := lsPut access 0x408 [1, 2, 3]
    let u (n : Nat) : State := (List.range n).foldl (fun t i => t.putReg (regPlus 4 i) (BitVec.ofNat 64 (i + 1))) s
    s.firstDword = 0 ∧ (∀ n, n < 3 → (u n).localAt 5 (multiOff 1 n) 8 = some (0x408 + 8 * n) ∧ (u n).canWrite (regPlus 4 n) = true ∧
      lsPoisoned (curElem (u n)) (0x408 + 8 * n) 8 = false ∧ (u n).lineAt 5 (multiOff 1 n) 8 = none) ∧
    doesB (.ldm 4 5 3 1) s (modCur (u 3) (fun y => setEprog (setVdone y 0) 0)) = true ∧
    (∀ n, n < 3 → access.zeroAt 7 (multiOff 32 n) 8 = true) ∧
    doesB (.stm 1 7 3 32) access (modCur access (fun y => setEprog (setVdone y 0) 0)) = true := by decide +kernel

/-- The memory that a program at 0x400038 through bf6 sees. -/
def twoLines : State := { access with mem := memWrite access.mem 0x400038 (leBytes 8 11 ++ leBytes 8 22 ++ leBytes 8 33) }

/-- The state after one dword of an LDM from memory. -/
def afterDword (s : State) (n : Nat) (d : Reg) (v : Dword) : State :=
  match s.mappedAt .load 6 (multiOff 7 n) 8 with
  | some (r, u) => (u.tracked (r.pa / 64) r.untr).putReg d v
  | none => s

/-- The premises of MultipleAccesses for a memory on two lines: the first dword lies on one, the second and the third on another; the
instruction keeps its place and is executed again. -/
theorem test_hyp_by_dword_memory :
    let s := twoLines
    let u := afterDword s 0 4 11
    mapped s .load 0x38 8 (fun r t => t.canTrack (r.pa / 64) r.untr && (t.tracked (r.pa / 64) r.untr).canWrite 4) = true ∧
    u.lineAt 6 (multiOff 7 1) 8 = some (0x400040 / 64) ∧ s.lineAt 6 (multiOff 7 0) 8 = some (0x400000 / 64) ∧
    answers (exec (.ldm 4 6 3 7) s) (modCur u (fun y => setVdone y 1)) = true ∧
    (modCur u (fun y => setVdone y 1)).firstDword = 1 := by decide +kernel

/-- The premises of MultipleAccesses for a trap after two dwords, for one that the translation raises, and for the resumption after ERET. -/
theorem test_hyp_multiple_traps :
    let s := lsPut access 0x4F0 [1, 2]
    let u := (s.putReg 4 1).putReg 5 2
    let f := bufAt access 9 (2 ^ 43) 0x100 0
    let e := onElem (lsPut access 0x408 [1, 2, 3]) (fun x => { x with afterEret := true, x := { x.x with eprog := 2 } })
    boundOff (bfReg (curElem u) 5) false (multiOff 30 2) 8 = none ∧
    answers (exec (.ldm 4 5 3 30) s) (takeTrap (modCur u (fun y => setEprog y 2)) cBOUNDS (dw (lsBase + 0x500))) = true ∧
    (match translate f (.element 0) (asidOf f (curElem f) 0) (2 ^ 43) 1 .store with
     | .error x => goesTo (exec (.stm 1 9 2 0) f) (fun t => decide (t = takeTrap (noteMcheck (modCur f (fun y => setEprog y 0)) (xCause .store x) (dw (2 ^ 43))) (xCause .store x) (dw (2 ^ 43))))
     | .ok _ => false) = true ∧
    e.firstDword = 2 ∧ doesB (.ldm 4 5 3 1) e (modCur (e.putReg 6 3) (fun y => setEprog (setVdone y 0) 0)) = true := by decide +kernel



/-- A lookup that must succeed satisfies a condition. -/
def holds {α : Type} (o : Option α) (p : α → Bool) : Bool := match o with | some a => p a | none => false

/-- The premises of SpeculativeAtomics: in local store and in memory; CAS with an equal and with another comparand. -/
theorem test_hyp_amo_local :
    let s := reg (lsPut access 0x408 [5]) 4 5
    s.canRead 4 = true ∧ s.canRead 1 = true ∧ s.canRead 2 = true ∧ s.localAt 5 (s.src1 1).toNat 8 = some 0x408 ∧
    lsPoisoned (curElem s) 0x408 8 = false ∧ s.canLog (0x408 / 8) = true ∧ (s.putLs 0x408 8 1).canWrite 4 = true ∧
    doesB (.amoCas 4 5 1 2 .spec) s ((s.putLs 0x408 8 0x1122334455667788).putReg 4 5) = true ∧
    doesB (.amoCas 3 5 1 2 .spec) s ((s.putLs 0x408 8 5).putReg 3 5) = true ∧
    doesB (.amoMax 4 5 1 2 .spec) s ((s.putLs 0x408 8 0x1122334455667788).putReg 4 5) = true := by decide

theorem test_hyp_amo_memory :
    mapped access .rmw 8 8 (fun r t => t.canTrack (r.pa / 64) r.untr && ((t.tracked (r.pa / 64) r.untr).seen r.pa 8).isSome
      && (t.tracked (r.pa / 64) r.untr).canBuffer r.pa
      && (let u := (t.tracked (r.pa / 64) r.untr).buffered r.pa r.codec (leBytes 8 0x1122334455667788)
          u.canWrite 4 && doesB (.amoAdd 4 6 1 2 .spec) access (u.putReg 4 0))) = true := by decide

/-- A speculative AMO_LOAD and AMO_STORE, in local store and in memory; an AMO beyond the extent under ZERO. -/
theorem test_hyp_amo_load_store :
    doesB (.amoLoad 4 5 1 .spec) (lsPut access 0x408 [5]) ((lsPut access 0x408 [5]).putReg 4 5) = true ∧
    doesB (.amoStore 5 1 2 .spec) access (access.putLs 0x408 8 0x1122334455667788) = true ∧
    mapped access .load 8 8 (fun r t => t.canTrack (r.pa / 64) r.untr && (t.tracked (r.pa / 64) r.untr).canWrite 4
      && doesB (.amoLoad 4 6 1 .spec) access ((t.tracked (r.pa / 64) r.untr).putReg 4 0)) = true ∧
    mapped access .rmw 8 8 (fun r t => (t.tracked (r.pa / 64) r.untr).canBuffer r.pa && doesB (.amoStore 6 1 2 .spec) access
      ((t.tracked (r.pa / 64) r.untr).buffered r.pa r.codec (leBytes 8 0x1122334455667788))) = true ∧
    access.canRead 3 = true ∧ access.zeroAt 7 (access.src1 3).toNat 8 = true ∧ doesB (.amoAdd 4 7 3 2 .quant) access (access.putReg 4 0) = true ∧
    doesB (.amoLoad 4 7 3 .unp) access (access.putReg 4 0) = true ∧ doesB (.amoStore 7 3 2 .spec) access access = true := by
  decide +kernel

/-- The premises of ImmediateAtomics on local store: PROT. -/
theorem test_hyp_immediate_local :
    access.canRead 1 = true ∧ access.localAt 5 (access.src1 1).toNat 8 = some 0x408 ∧
    trapsB (.amoAdd 4 5 1 2 .unp) access cPROT (dw (lsBase + 0x408)) = true ∧
    trapsB (.amoStore 5 1 2 .nord) access cPROT (dw (lsBase + 0x408)) = true := by decide +kernel

/-- The queue entry of an AMO_ADD through bf6 with w4 to come, or none. -/
def addEntry (pa codec d : Nat) : Iatom :=
  { pa := pa, va := dw 0x400008, codec := codec, aop := 0, v := 0x1122334455667788, cmp := 0, use := .unp, d := d, held := false }

/-- An element whose queue of immediate atomics is full. -/
def iqFull : State := onElem access (fun x => { x with iq := List.replicate 8 (addEntry 0 0 0) })

/-- The premises of ImmediateAtomics: without a destination, with one, and with a full queue. -/
theorem test_hyp_iatom :
    (access.accessVa 6 (access.src1 1).toNat 8) = some 0x400008 ∧ (curElem access).iq.length < iqCap ∧
    mapped access .rmw 8 8 (fun r t => (physDword t r.pa).isSome && t.canLog (wOff (curElem t) 4 / 8)
      && doesB (.amoAdd 0 6 1 2 .unp) access (modCur t (fun y => { y with iq := y.iq ++ [addEntry r.pa r.codec 0] }))
      && answers (exec (.amoAdd 4 6 1 2 .unp) access)
          (modCur (t.logged (wOff (curElem t) 4 / 8)) (fun y => { y with iq := y.iq ++ [addEntry r.pa r.codec 4], stall := .value }))) = true ∧
    mapped iqFull .rmw 8 8 (fun _ t => decide ((curElem t).iq.length = iqCap)
      && answers (exec (.amoAdd 4 6 1 2 .unp) iqFull) (modCur t (fun y => { y with stall := .room }))) = true := by decide +kernel

theorem test_hyp_iatom_posted :
    mapped access .load 8 8 (fun r t => (physDword t r.pa).isSome) = true ∧
    mapped access .rmw 8 8 (fun r t =>
      let a : Iatom := { pa := r.pa, va := dw 0x400008, codec := r.codec, aop := 11, v := 0x1122334455667788, cmp := 0, use := .nord, d := 0, held := false }
      doesB (.amoStore 6 1 2 .nord) access (modCur t (fun y => { y with iq := y.iq ++ [a] }))) = true := by decide +kernel

/-- An immediate ADD of 3 to a dword of cluster 0's scratchpad. -/
def addAtHome (u : AmoUse) : Iatom :=
  { pa := spAddr 0 0x100, va := 0, codec := 0, aop := 0, v := 3, cmp := 0, use := u, d := 0, held := false }

/-- The premises of AtomicAtHome: at home in a scratchpad. -/
theorem test_hyp_at_home :
    let a := addAtHome .unp
    let s := { base with mem := memPutNat base.mem a.pa 8 9 }
    a.pa % 8 = 0 ∧ paRegion a.pa = 3 ∧ metaSpace s a.pa = none ∧ physDword s a.pa = some 9 ∧ Memory.wf s.mem = true ∧
    (iatomDo s 0 a).2 = some 9 ∧ memDword (iatomDo s 0 a).1.mem a.pa = 12 := by decide

/-- The premise of AtomicAtHome for another device: without a route the drop is counted and nothing comes. -/
theorem test_hyp_atomic_away :
    let a : Iatom := { addAtHome .unp with pa := 2 ^ 51 + 8 }
    paRegion a.pa = 8 ∧ (iatomDo base 0 a).2 = none ∧ tget (die (iatomDo base 0 a).1 4).tele 0x18 0 = 1 := by decide

/-- The premises of AtomicAtHome: the IATOM of an entry without a destination, with one, and of a quantum entry. -/
theorem test_hyp_iatom_step :
    let s (u : AmoUse) (d : Nat) : State :=
      onElem { base with mem := memPutNat base.mem (spAddr 0 0x100) 8 9 } (fun x => { x with iq := [{ addAtHome u with d := d }], stall := if d = 0 then .room else .value })
    mustPrecede (addAtHome .unp) (addAtHome .unp) = true ∧
    goesTo (exec (.iatom 0 0) (s .unp 0)) (fun t => (curElem t).stall == .none && (curElem t).iq == [] && memDword t.mem (spAddr 0 0x100) == 12) = true ∧
    goesTo (exec (.iatom 0 0) (s .unp 4)) (fun t => (curElem t).stall == .none && getW (curElem t) 4 == 9
      && (curElem t).seq == seqNext (curElem base).seq) = true ∧
    goesTo (exec (.iatom 0 0) (s .quant 4)) (fun t => (curElem t).stall == .value && t.quants == [{ el := 0, a := { addAtHome .quant with d := 4, held := true }, peer := none }]) = true ∧
    (let two := onElem (s .unp 0) (fun x => { x with iq := [{ addAtHome .quant with held := true }, addAtHome .comm], stall := .fence 1 })
     mustPrecede { addAtHome .quant with held := true } (addAtHome .comm) = false ∧ mustPrecede (addAtHome .quant) (addAtHome .comm) = true ∧
     goesTo (exec (.iatom 0 1) two) (fun t => (curElem t).stall == .fence 1 && decide ((curElem t).iq.length = 1)) = true) := by
  decide +kernel

/-- The premises of AtomicAtHome: the edge's combination: 9 stood there at the round's beginning, 20 stands there now. -/
theorem test_hyp_quantum :
    let a : Iatom := { addAtHome .quant with d := 4, held := true }
    let s : State := { base with mem := memPutNat base.mem a.pa 8 20, memEdge := memPutNat base.mem a.pa 8 9 }
    let q : QOp := { el := 0, a := a, peer := none }
    let p : QOp := { el := 0, a := a, peer := some { port := 0, dev := 9 } }
    physDword { s with mem := s.memEdge } a.pa = some 9 ∧ physDword s a.pa = some 20 ∧ metaSpace s a.pa = none ∧
    Memory.wf s.mem = true ∧ Memory.wf (elem s 0).ls = true ∧ memDword (quantOne s q).mem a.pa = 23 ∧ getW (elem (quantOne s q) 0) 4 = 9 ∧
    memDword (quantOne s p).mem a.pa = 23 ∧ getW (elem (quantOne s p) 0) 4 = 0 := by
  decide +kernel

/-- The premises of ImmediateAtomics for FENCE: nothing left within the scope, and something left. -/
theorem test_hyp_fence :
    let s := onElem base (fun x => { x with iq := [addAtHome .unp] })
    homeScope 0 (addAtHome .unp).pa = 1 ∧ answers (exec (.fence 0) s) (advance s) = true ∧
    answers (exec (.fence 1) s) (modCur s (fun x => { x with stall := .fence 1 })) = true := by decide

/-! ## Branches, system, tasks -/

/-- The premises of BranchesAndJumps; a branch back by 8 with its slots, and a register target that is not a multiple of 4. -/
theorem test_hyp_branches :
    let s := regs3 (2 ^ 64 - 1) 5 0x300102
    s.canRead2 1 2 = true ∧ (s.src1 1).toInt < (s.src2 1 2).toInt ∧ ¬ (s.src1 1).toNat < (s.src2 1 2).toNat ∧
    goesTo (exec (.blt 1 2 true 0x7FFE) s) (fun t => (curElem t).seq == { p := 0x300004, n1 := 0x300008, n2 := 0x2FFFF8, ap := false, a1 := false, a2 := false }) = true ∧
    goesTo (exec (.bltu 1 2 true 0x7FFE) s) (fun t => (curElem t).seq == { p := 0x300004, n1 := 0x300008, n2 := 0x30000C, ap := true, a1 := true, a2 := false }) = true ∧
    (s.src1 3 + (2 : BitVec 16).signExtend 64).toNat % 4 = 0 ∧ s.canWrite 4 = true ∧ s.canWrite 27 = true ∧
    goesTo (exec (.jalr 4 3 2) s) (fun t => getW (curElem t) 4 == 0x30000C && (curElem t).seq.n2 == 0x300104) = true ∧
    (s.src1 3 + (0 : BitVec 16).signExtend 64).toNat % 4 ≠ 0 ∧ trapsB (.jr 3 0) s cALIGN 0x300102 = true := by decide

/-- The premises of CsrAccess: TSNOW is readable, FPFLAGS writable in user mode, STATUS and WP in supervisor mode, and a good WP. -/
theorem test_hyp_csr :
    let s := user (regs3 0x1F 0x100 0)
    (csrKind 2).isSome = true ∧ s.mode = 0 ∧ (∃ n, n < 0x100 ∧ csrKind n = some .rw) ∧ (regs3 0x1F 0x100 0).mode ≠ 0 ∧ csrKind 1 = some .sw ∧
    wpOk (curElem (regs3 0x1F 0x100 0)) 0x100 = true ∧ (regs3 0x1F 0x100 0).canWrite 3 = true ∧
    goesTo (exec (.csrwr 3 2 1) (regs3 0x1F 0x100 0)) (fun t => (curElem t).csr.wp == 0x100) = true := by
  refine ⟨by decide, by decide, ⟨0x10, by decide, by decide⟩, by decide, by decide, by decide, by decide, by decide⟩

/-- The premises of PrivilegeTraps: an unlisted CSR, a supervisor's in user mode, a read-only one, WP in user mode, and a bad WP; ERET and its
like in user mode. -/
theorem test_hyp_privilege :
    let s := regs3 0x103 0x100 0
    csrKind 0x3FF = none ∧ trapsB (.csrrd 3 0x3FF) s cILLOP (instrWord (.csrrd 3 0x3FF)) = true ∧
    (csrKind 0x100).isSome = true ∧ (user s).mode = 0 ∧ trapsB (.csrrd 3 0x100) (user s) cPRIV (instrWord (.csrrd 3 0x100)) = true ∧
    csrKind 2 = some .ro ∧ trapsB (.csrwr 3 1 2) s cILLOP (instrWord (.csrwr 3 1 2)) = true ∧
    trapsB (.csrwr 3 1 0) (user s) cPRIV (instrWord (.csrwr 3 1 0)) = true ∧
    wpOk (curElem s) (s.src1 1).toNat = false ∧ trapsB (.csrwr 3 1 1) s cBOUNDS (dw (lsBase + 0x103)) = true ∧
    trapsB .halt (user s) cPRIV (instrWord .halt) = true := by decide

/-- A handler table whose channel 1 is not masked, with its PC at 0x1000 and its WP at 0x800. -/
def handled : State := onElem base (fun x => { x with chans := tput x.chans 1 { d0 := 0x1000, d1 := 0x800, d2 := 0 } })

/-- The premises of TrapEntry: a trap that is taken, one while a handler runs, and one while channel 1 is masked. -/
theorem test_hyp_trap :
    (curElem handled).run = some freshRun ∧ stTrap (curElem handled).csr.status = false ∧ (trapVector (curElem handled)).mask = false ∧
    freshRun.undo.length + 4 ≤ undoCap ∧ (curElem base).under = none ∧ (trapVector (curElem base)).mask = true ∧
    wpOk (curElem handled) (trapVector (curElem handled)).wpo = true ∧ Memory.wf (curElem handled).ls = true ∧
    goesTo (exec (.trap 31) handled) (fun t => stTrap (curElem t).csr.status && (curElem t).x.ecause == 10 && (curElem t).csr.wp == 0x800
      && getW (curElem t) 3 == 31 && (curElem t).seq.p == 0x1000 && (curElem t).x.epc0 == 0x300000) = true ∧
    goesTo (exec (.trap 5) base) (fun t => (curElem t).run.isNone && (curElem t).x.ecause == 9
      && (match (curElem t).inq with | v :: _ => v.deferred | [] => false)) = true := by decide +kernel

/-- The premises of EretReturns: in a handler, and outside one. -/
theorem test_hyp_eret :
    let s := onElem base (fun x => { x with csr := { x.csr with status := setTrap x.csr.status true }, x := { x.x with epc0 := 0x2003 } })
    (curElem s).run = some freshRun ∧ s.mode ≠ 0 ∧ stTrap (curElem s).csr.status = true ∧
    goesTo (exec .eret s) (fun t => (curElem t).seq.p == 0x2000 && !stTrap (curElem t).csr.status && modeOf (curElem t) == 0) = true ∧
    stTrap (curElem base).csr.status = false ∧ trapsB .eret base cILLOP (instrWord .eret) = true := by decide

/-- The premises of SystemResults: a block of four dwords in local store that holds a valid record. -/
theorem test_hyp_system :
    let s := lsPut (reg base 1 (lsBase + 0x400)) 0x400 [0x10000, 0x100, 0, 0]
    s.canRead 1 = true ∧ s.canRead 2 = true ∧ s.mode ≠ 0 ∧ (s.src1 1).toNat % 32 = 0 ∧ s.canBlock (s.src1 1) 4 = true ∧
    recOk (BitVec.ofNat 256 (leNat (memRead (curElem s).ls 0x400 32))) = true ∧
    recAsid (BitVec.ofNat 256 (leNat (memRead (curElem s).ls 0x400 32))) = 0 ∧
    goesTo (exec (.bfld 1 3) s) (fun t => recExtent (bfReg (curElem t) 3) == 0x100) = true ∧
    goesTo (exec (.bfst 1 0) s) (fun t => memDword (curElem t).ls 0x408 == 2 ^ 48 - 1) = true := by decide

/-- The premises of SystemResults for TLBINV: two pages of the element's TLB, of which kind 0 drops the one named, and kind 3 both. -/
theorem test_hyp_tlbinv :
    let p (n : Nat) : TlbEnt := { asid := 5, level := 2, vpn := n, pte := 0xCF, at' := 0 }
    let s := onElem (regs3 0x30000 5 0) (fun x => { x with tlb := [p 3, p 4] })
    s.canRead 1 = true ∧ s.canRead 2 = true ∧ s.mode ≠ 0 ∧
    goesTo (exec (.tlbinv 1 2 0) s) (fun t => (curElem t).tlb == [p 4]) = true ∧
    goesTo (exec (.tlbinv 1 2 7) s) (fun t => (curElem t).tlb == []) = true := by decide

/-- A launch of element 0, at group scope. -/
def oneElement : List Dword := [0x10008, 0, 0, 0, 0, 0, 0, 0, 0x300000001] ++ List.replicate 23 0

/-- An active launch with identifier 1 at a scope. -/
def launched (s : State) (scope : Nat) : State :=
  { s with launches := [(1, { rcd := oneElement, asid := 0, scope := scope, home := 0, todo := [], parts := [], queue := none, held := 0 })] }

/-- The run is one of launch 1, in whose domain it has read a line. -/
def inLaunch (s : State) : State :=
  onElem (onRun (launched s 1) (fun r => { r with ev := { r.ev with lid := 1 }, rs := [7] }))
    (fun x => { x with csr := { x.csr with launchid := 1 } })

/-- The premises of RunEnds: a run that is a domain of its own, and a run of a launch that has read and buffered nothing, without and with a
serial run in its domain. -/
theorem test_hyp_run_commits :
    let s := onRun (inLaunch base) (fun r => { r with rs := [] })
    let v := modElem s 2 (fun x => { x with run := some { freshRun with serial := true, ev := { freshRun.ev with lid := 1 } } })
    lidScope base freshRun.ev.lid = 0 ∧ answers (exec .tend base) (commitRun (setElem (freeLanes base 0) 0
      { (curElem base) with run := none, bf := [], afterEret := false, csr := { (curElem base).csr with vgrant := 0 } }) 0 freshRun) = true ∧
    serialHeld s 1 = false ∧ goesTo (exec .tend s) (fun t => (curElem t).run.isNone && (curElem t).fin == []) = true ∧
    serialHeld v 1 = true ∧ goesTo (exec .tend v) (fun t => (curElem t).run.isNone && decide ((curElem t).fin.length = 1)) = true := by decide +kernel

/-- The premises of RunEnds: a run that waits for its commit, an urgent one, one in a handler, and a retry. -/
theorem test_hyp_run_ends :
    let s := inLaunch base
    let u := onRun base (fun r => { r with urgent := true })
    let h := onElem base (fun x => { x with csr := { x.csr with status := setTrap x.csr.status true } })
    (curElem s).run.isSome = true ∧ (curElem s).under = none ∧ stTrap (curElem s).csr.status = false ∧ lidScope s 1 ≠ 0 ∧ s.mode ≠ 0 ∧
    holds (curElem s).run (fun r => !r.urgent && r.rs != [] && r.ev.lid == 1) = true ∧
    goesTo (exec .tend s) (fun t => (curElem t).run.isNone && decide ((curElem t).fin.length = 1)) = true ∧
    holds (curElem u).run (fun r => r.urgent && r.rs == [] && r.wb == []) = true ∧
    answers (exec .tend u) (commitRun (setElem u 0 { (curElem u) with run := none, bf := [], afterEret := false }) 0 { freshRun with urgent := true }) = true ∧
    stTrap (curElem h).csr.status = true ∧ trapsB .tend h cILLOP (instrWord .tend) = true ∧
    goesTo (exec (.tabort true) s) (fun t => match (curElem t).inq with | v :: _ => v.deferred | [] => false) = true := by decide

/-- An urgent run over one that it has interrupted. -/
def urgentOver (r : Run) : State :=
  let u (x : Elem) : Saved := { run := freshRun, csr := { x.csr with fpflags := 3 }, seq := x.seq, bf := [], afterEret := false, stall := .none }
  onElem base (fun x => { x with run := some { r with urgent := true, undo := [(3, 7)] }, under := some (u x) })

/-- The premises of RunEnds over an interrupted run: one that commits at once, one that waits, and a retry. -/
theorem test_hyp_urgent_ends :
    let s := urgentOver freshRun
    let w := launched (urgentOver { freshRun with rs := [7], ev := { freshRun.ev with lid := 1 } }) 1
    let back (t : State) (l : Tbl Dword) : Bool :=
      decide ((curElem t).run = some { freshRun with pre := l }) && (curElem t).under.isNone && (curElem t).csr.fpflags == 3
    (curElem s).run.isSome = true ∧ (curElem s).under.isSome = true ∧ stTrap (curElem s).csr.status = false ∧ lidScope s 0 = 0 ∧ lidScope w 1 ≠ 0 ∧
    w.mode ≠ 0 ∧ goesTo (exec .tend s) (fun t => back t [(3, 7)] && (curElem t).fin.isEmpty) = true ∧
    goesTo (exec .tend w) (fun t => back t [(3, 7)] && decide ((curElem t).fin.length = 1)) = true ∧
    goesTo (exec .halt w) (fun t => back t [(3, 7)] && (curElem t).halted) = true ∧
    goesTo (exec (.tabort false) s) (fun t => back t [] && memDword (curElem t).ls 24 == 7 && decide ((curElem t).inq.length = 1)) = true := by
  decide +kernel

/-- The premises of Sends: privilege, a good destination with room, a bad one, and a full outbox. -/
theorem test_hyp_sends :
    let blk := reg (reg base 1 (2 ^ 32 * 2 ^ 0 * 0 + 9 * 2 ^ 27)) 2 (lsBase + 0x400)
    let p := user (reg blk 1 0)
    let b := reg blk 1 (2 ^ 40)
    let full := onRun blk (fun r => { r with ob := List.replicate 32 (.osfree 0 0 Origin.none) })
    blk.canRead 1 = true ∧ blk.canRead 2 = true ∧ blk.tsOk = true ∧ p.mode = 0 ∧ fld (p.src1 1) 32 27 < 8 ∧
    trapsB (.send 3 1 2 0) p cPRIV (instrWord (.send 3 1 2 0)) = true ∧ blk.canBlock (blk.src1 2) 32 = true ∧
    (sendBitsOk false (blk.src1 1) && destsOk blk (sendDests false (blk.src1 1))) = true ∧ blk.canQueue = true ∧ blk.canWrite 3 = true ∧
    (sendBitsOk false (b.src1 1) && destsOk b (sendDests false (b.src1 1))) = false ∧
    doesB (.send 3 1 2 31) b (b.putReg 3 (BitVec.allOnes 64 - 1)) = true ∧ obFull (curElem full) = true ∧
    doesB (.send 3 1 2 31) full (full.putReg 3 (BitVec.allOnes 64)) = true ∧
    (let t := blk.queued (.msg [0] 9 (blk.blockAt (blk.src1 2) 1) (originOf blk 0))
     t.canWrite 3 = true ∧ doesB (.send 3 1 2 0) blk (t.putReg 3 0) = true) := by decide

/-- A record in memory at 0x400000, through bf6. -/
def recordAt (l : List Dword) : State :=
  let s := reg access 1 0
  { s with mem := memWrite s.mem 0x400000 (dwordsBytes l) }



/-- LAUNCH has read three of the four lines of a record. -/
def lastLine (l : List Dword) : State := onRun (recordAt l) (fun r => { r with vdone := 24, vgot := (l.take 24).map (·.toNat) })

/-- What LAUNCH reads of a record. -/
def loaded (l : List Dword) : Except Stop (List Dword × State) := recordLoads (instrWord (.launch 3 1 6)) 6 0 32 0 [] none (lastLine l)

/-- The state that the reading leaves. -/
def afterLoads (l : List Dword) (p : State → Bool) : Bool := match loaded l with | .ok (_, t) => p t | .error _ => false

/-- The premises of LaunchResults: the record is read whole, and there is room. -/
theorem test_hyp_launch_read :
    let s := lastLine oneElement
    s.canRead 1 = true ∧ (recBase (bfReg (curElem s) 6) + (s.src1 1).toNat) % 64 = 0 ∧
    (match loaded oneElement with | .ok (r, _) => decide (r = oneElement) | .error _ => false) = true ∧
    afterLoads oneElement (fun t => decide (t.launches.length + (reservedLids t).length < 4096) && !obFull (curElem t) && t.canQueue
      && t.canWrite 3) = true := by decide +kernel

/-- A record that LAUNCH accepts, one with an entry channel below 8, and a full outbox. -/
theorem test_hyp_launch_record :
    afterLoads oneElement (fun t => recordOk t oneElement false 0) = true ∧
    afterLoads (oneElement.set 0 0x10007) (fun t => !recordOk t (oneElement.set 0 0x10007) false 0 && t.canWrite 3) = true ∧
    obFull (curElem (onRun (recordAt oneElement) (fun r => { r with ob := List.replicate 32 (.osfree 0 0 Origin.none) }))) = true := by
  decide +kernel

/-- The premises of LaunchResults for a record of which nothing has been read: its first eight dwords lie on a line, the ninth does not. -/
theorem test_hyp_launch_line :
    let s := recordAt oneElement
    let line (i : Nat) : Option Nat :=
      match checkAt (instrWord (.launch 3 1 6)) .load 6 (8 * i) 8 s with | .ok (a, _) => accLine a | .error _ => none
    vdoneOf (curElem s) = 0 ∧ line 0 = some 0x10000 ∧ line 7 = some 0x10000 ∧ line 8 = some 0x10001 ∧
    goesTo (exec (.launch 3 1 6) s) (fun t => vdoneOf (curElem t) == 8 && vgotOf (curElem t) == (oneElement.take 8).map (·.toNat)) = true := by
  decide +kernel

/-- R149: a record with an entry channel below 8 is answered −2. -/
theorem test_launch_refused :
    goesTo (exec (.launch 3 1 6) (lastLine (oneElement.set 0 0x10007))) (fun t => getW (curElem t) 3 == BitVec.ofInt 64 (-2)) = true := by
  decide +kernel
theorem test_launch_ok :
    goesTo (exec (.launch 3 1 6) (lastLine oneElement)) (fun t => getW (curElem t) 3 == 1) = true ∧
    goesTo (exec (.launch 3 1 6) (recordAt oneElement)) (fun t => vdoneOf (curElem t) == 8 && (curElem t).seq == (curElem base).seq) = true := by
  decide +kernel


/-! ## Counters, engines, and requests to homes -/

/-- w1 names a block at 0x400 of local store that holds these dwords. -/
def blockIn (l : List Nat) : State := lsPut (reg base 1 (lsBase + 0x400)) 0x400 l

/-- The premises of PostedEffects: every posted form whose checks pass, and one whose do not. -/
theorem test_hyp_posted :
    let s := reg (reg base 1 1) 2 9
    let c := reg (blockIn [0x1000, 0x800, 0x40]) 2 9
    s.canRead 1 = true ∧ s.canRead 2 = true ∧ s.canQueue = true ∧
    (postedForms s 1 2 7 3).map (·.1) = [false, true, true, true, true, true, true, true, false, true, true] ∧
    (postedForms c 1 2 7 3).map (·.1) = [true, false, false, true, false, false, false, true, true, true, true] ∧
    (postedForms s 1 2 7 3).all (fun p => !p.1 || doesB p.2.1 s (s.queued p.2.2)) = true ∧
    (postedForms c 1 2 7 3).all (fun p => !p.1 || doesB p.2.1 c (c.queued p.2.2)) = true := by decide +kernel

/-- TSSET at its limits, SCREAD and JOBST. -/
theorem test_hyp_posted_more :
    let s := reg (reg base 1 0xFFFFFFFF) 2 0x100000000
    (s.src1 1).toNat < 2 ^ 32 ∧ goesTo (exec (.tsset 1) s) (fun t => stChoff (curElem t).csr.status == 0xFFFFFFFF) = true ∧
    2 ^ 32 ≤ (s.src1 2).toNat ∧ trapsB (.tsset 2) s cILLOP (instrWord (.tsset 2)) = true ∧ s.canWrite 3 = true ∧
    doesB (.scread 3 255) s (s.putReg 3 0) = true ∧ doesB (.jobst 3 1) s (s.putReg 3 0) = true := by decide +kernel

/-- A command word of MZERO in w4 to w7. -/
def command (op : Nat) : State := reg (reg (reg (reg base 4 op) 5 0) 6 0) 7 0

/-- The premises of EngineGroup for ENQ: an accepted command with room, one that is not accepted, and a full queue. -/
theorem test_hyp_enq :
    let s := command 0x0304
    let b := command 0x0320
    let full := modQueue s { eng := 0, idx := 0 } (fun x => { x with held := List.replicate 64 0 })
    s.canRead 4 = true ∧ s.canRead (4 + 1) = true ∧ s.canRead (4 + 2) = true ∧ s.canRead (4 + 3) = true ∧ s.canQueue = true ∧ s.canWrite 3 = true ∧
    enqOk (s.src1 (4 + 3) ++ s.src1 (4 + 2) ++ s.src1 (4 + 1) ++ s.src1 4) 0 false = true ∧
    goesTo (exec (.enq 3 4 0) s) (fun t => getW (curElem t) 3 == 0 && decide ((queue t { eng := 0, idx := 0 }).held = [0])) = true ∧
    enqOk (b.src1 (4 + 3) ++ b.src1 (4 + 2) ++ b.src1 (4 + 1) ++ b.src1 4) 0 false = false ∧
    doesB (.enq 3 4 0) b (b.putReg 3 (BitVec.allOnes 64 - 1)) = true ∧
    queueUsed { eng := 0, idx := 0 } (queue full { eng := 0, idx := 0 }) = 64 ∧ doesB (.enq 3 4 0) full (full.putReg 3 (BitVec.allOnes 64)) = true := by decide +kernel

/-- A job of the matrix queue of cluster 0, in a state. -/
def jobIn (st : Nat) : Job := { placeJob (cmdWord 0 0 0 0x304) with jid := 5, state := st }

/-- A machine whose matrix queue holds that job. -/
def queued5 (st : Nat) : State :=
  let s := reg base 1 5
  modQueue s { eng := 0, idx := 0 } (fun x => { x with jobs := [jobIn st] })

/-- The premises of EngineGroup for JOBRESUME and JOBCANCEL: a suspended job, a waiting one, and none. -/
theorem test_hyp_settle :
    let q : QueueId := { eng := 0, idx := 0 }
    (queued5 5).canRead 1 = true ∧ (statusOfW (queued5 5) q 5).toNat % 16 = 5 ∧ maySettle (queued5 5) q 5 = true ∧ (queued5 5).canQueue = true ∧
    doesB (.jobresume 3 1) (queued5 5) (((queued5 5).queued (.jobresume 5)).putReg 3 0) = true ∧
    (statusOfW (queued5 2) q 5).toNat % 16 = 2 ∧ doesB (.jobcancel 3 1) (queued5 2) (((queued5 2).queued (.jobcancel 5)).putReg 3 0) = true ∧
    doesB (.jobresume 3 1) (queued5 2) ((queued5 2).putReg 3 (BitVec.allOnes 64)) = true ∧
    (statusOfW (reg base 1 6) q 6).toNat % 16 = 0 ∧ doesB (.jobcancel 3 1) (reg base 1 6) ((reg base 1 6).putReg 3 (BitVec.allOnes 64)) = true := by
  decide +kernel

/-- The premises of EngineGroup for OSCLAIM: no launch, a count that is too large, all slots taken, a claim, and a quota that is used up. -/
theorem test_hyp_osclaim :
    let s := reg (inLaunch base) 1 2
    let full := modClus s 0 (fun x => { x with slotOwn := (span 0 256).map (fun i => (i, 9)) })
    let quota := { s with launches := [(1, { rcd := oneElement.set 3 0x100000000, asid := 0, scope := 1, home := 0, todo := [], parts := [], queue := none, held := 0 })] }
    (curElem base).csr.lid = 0 ∧ doesB (.osclaim 3 1) (reg base 1 2) ((reg base 1 2).putReg 3 (BitVec.allOnes 64 - 1)) = true ∧
    (curElem s).csr.lid = 1 ∧ doesB (.osclaim 3 1) (reg s 1 257) ((reg s 1 257).putReg 3 (BitVec.allOnes 64 - 1)) = true ∧
    freeSlots (clus full 0) 2 = none ∧ doesB (.osclaim 3 1) full (full.putReg 3 (BitVec.allOnes 64)) = true ∧
    freeSlots (clus s 0) 2 = some 0 ∧ quotaOk s 0 1 2 = true ∧
    goesTo (exec (.osclaim 3 1) s) (fun t => getW (curElem t) 3 == 0 && decide ((clus t 0).slotOwn = [(0, 1), (1, 1)])) = true ∧
    quotaOk quota 0 1 2 = false ∧ doesB (.osclaim 3 1) quota (quota.putReg 3 (BitVec.allOnes 64)) = true := by decide +kernel

/-- An entry in the outbox and 0 in w3. -/
def asks (s : State) (i : Instr) (o : OutEntry) : Bool := s.canQueue && (s.queued o).canWrite 3 && doesB i s ((s.queued o).putReg 3 0)

/-- −2 in w3. -/
def refuses (s : State) (i : Instr) : Bool := s.canWrite 3 && doesB i s (s.putReg 3 (BitVec.allOnes 64 - 1))

/-- The premises of HomeRequests: blocks that are accepted and blocks that are not. -/
theorem test_hyp_requests :
    let s := blockIn [1, 5, 64, 0]
    let b := blockIn [1, 2 ^ 63, 65, 0]
    let o := originOf s 0
    let cf (sub n : Nat) : OutEntry := .cf { sub := sub, o := o, block := s.blockAt (s.src1 1) n, terms := none, pages := [] }
    s.canBlock (s.src1 1) 2 = true ∧ s.canBlock (s.src1 1) 3 = true ∧
    (asks s (.cfopen 3 1) (cf 0 2) && asks s (.cfnext 3 1) (cf 1 2) && asks s (.cfseal 3 1) (cf 5 2) && asks s (.exitmark 3 1) (cf 7 2)
      && asks s (.cfexpect 3 1) (cf 2 3) && asks s (.grdy 3 1) (.grdy (s.blockAt (s.src1 1) 3) o)
      && asks s (.gpull 3 1) (.gpull (s.blockAt (s.src1 1) 3) o) && asks (reg s 1 3) (.gstore 3 1 2) (.gstore 3 0 o)
      && asks s (.gcfg 3 1) (.gcfg (s.blockAt (s.src1 1) 2))) = true ∧
    (refuses b (.cfopen 3 1) && refuses b (.cfnext 3 1) && refuses b (.cfseal 3 1) && refuses b (.exitmark 3 1) && refuses b (.cfexpect 3 1)
      && refuses b (.grdy 3 1) && refuses b (.gpull 3 1) && refuses (reg s 1 0x100) (.gstore 3 1 2)
      && trapsB (.gcfg 3 1) b cILLOP (instrWord (.gcfg 3 1))) = true ∧ s.mode ≠ 0 := by decide +kernel

/-- The premises of HomeRequests for CFPOST and CFREAD: a post from memory, a read, and blocks that are not accepted. -/
theorem test_hyp_posts :
    let s := blockIn [1, 3 * 2 ^ 24 + 2 ^ 42, 0x400000, 0]
    let b := blockIn [1, 0, 0, 0]
    s.canBlock (s.src1 1) 4 = true ∧
    (let op : CfOp := { sub := 3, o := originOf s 0, block := s.blockAt (s.src1 1) 4, terms := none, pages := [] }
     postOk false op && (match postPages op s with
       | .ok (p, t) => t.canQueue
           && (t.queued (.cf { op with pages := p })).canWrite 3 && doesB (.cfpost 3 1) s ((t.queued (.cf { op with pages := p })).putReg 3 0)
       | .error _ => false)) = true ∧ refuses b (.cfpost 3 1) = true := by decide +kernel

theorem test_hyp_reads :
    let s := blockIn [1, 2 ^ 24, 0, 0, 0x400000, 0]
    let b := blockIn [1, 2 * 2 ^ 24, 0, 0, 0x400000, 0]
    s.canBlock (s.src1 1) 6 = true ∧
    (let op : CfOp := { sub := 4, o := originOf s 0, block := s.blockAt (s.src1 1) 6, terms := none, pages := [] }
     readOk false op && (match captureRange .store 0x400000 4 s with
       | .ok (p, t) => t.canQueue && (t.queued (.cf { op with pages := p })).canWrite 3
           && doesB (.cfread 3 1) s ((t.queued (.cf { op with pages := p })).putReg 3 0)
       | .error _ => false)) = true ∧ refuses b (.cfread 3 1) = true := by decide +kernel

/-- The premises of HomeRequests for RCUPD. -/
theorem test_hyp_rcupd :
    let s := blockIn [0x400000, 77, 6 * 2 ^ 32 + 9, 0]
    let b := blockIn [0x400000, 0, 6 * 2 ^ 32 + 9, 0]
    s.canBlock (s.src1 1) 4 = true ∧ rcupdOk (s.blockAt (s.src1 1) 4) = true ∧
    (match cellPages (s.blockAt (s.src1 1) 4) (seedsOf s 0) 0 [0, 1, 2] s with
     | .ok (p, t) => decide (p.length = 3) && t.canQueue
         && (let o : OutEntry := .rcupd [0x400000, 77, 9, dw (rcCheck 0 77 9)] true (originOf t 0) p
             (t.queued o).canWrite 3 && doesB (.rcupd 3 1 true) s ((t.queued o).putReg 3 0))
     | .error _ => false) = true ∧ refuses b (.rcupd 3 1 true) = true := by decide +kernel

/-- The premises of ImmediateReads: an object of this device, a handle that names none, AXMODE bit 1 set and clear, a group word and a bad one. -/
theorem test_hyp_immediate :
    let s := regs3 0x40000000 0x3F800000 1
    let x := onElem s (fun x => { x with csr := { x.csr with axmode := 2 } })
    s.canWrite 4 = true ∧ cfNamed s (s.src1 1) = true ∧ doesB (.cfstat 4 1 0) s (s.putReg 4 (statWord (cfObj s 0x40000000) 0)) = true ∧
    cfNamed s (s.src1 3) = false ∧ fld (s.src1 3) 63 48 = s.regs.devnum.toNat ∧ doesB (.cfstat 4 3 0) s (s.putReg 4 (BitVec.allOnes 64 - 1)) = true ∧
    (curElem x).csr.axmode.getLsbD 1 = true ∧ doesB (.confx 4 1 2) x (x.putReg 4 0) = true ∧ (curElem s).csr.axmode.getLsbD 1 = false ∧
    (let r := confx 0x40000000 0 0x3F800000 0 0
     doesB (.confx 4 1 2) s (s.putFp 4 (if r.1 then 1 else 0) r.2) = true) ∧
    gwOk (s.src1 1) = true ∧ goesTo (exec (.gcnt 4 1 2) s) (fun _ => true) = true ∧ gwOk (0x100 : Dword) = false ∧
    doesB (.gcnt 4 1 0) (reg s 1 0x100) ((reg s 1 0x100).putReg 4 (BitVec.allOnes 64 - 1)) = true := by decide +kernel

/-- Device 7 lies behind port 0, which is up. -/
def routed (s : State) : State :=
  { s with regs := { s.regs with route := [(7, 0x80)], fpctl := [(0, 0x101)] } }

/-- The premises of ImmediateReads for another device, without a route. -/
theorem test_hyp_stat_routed :
    let s := reg base 1 (7 * 2 ^ 48)
    let t := bumpTele s 4 0x18
    cfNamed s (s.src1 1) = false ∧ fld (s.src1 1) 63 48 ≠ s.regs.devnum.toNat ∧ fld (s.src1 1) 28 0 = 0 ∧ routePort s 7 = none ∧
    idieOf (dieOf 0) = 0 ∧ t.canWrite 4 = true ∧ doesB (.cfstat 4 1 0) s (t.putReg 4 (BitVec.allOnes 64 - 1)) = true := by decide +kernel

/-- The premise of ImmediateReads for another device, with a route. -/
theorem test_hyp_stat_remote : (routePort (routed (reg base 1 (7 * 2 ^ 48))) 7).isSome = true := by decide +kernel

/-! ## The cache and the heap -/

/-- A root of one layer, group and block of 16 FP32 rows at 0x400040, its page table at 0x401000, its page at 0x402000, its block at 0x403000;
the block names it, with rows at 0x600 and 0x680. -/
def cached (k : Nat) : State :=
  let s := lsPut (blockIn [0x400040, 0, lsBase + 0x600, lsBase + 0x680, 0, 0, 0, 0]) 0x600 [k]
  { s with mem := memPutNat (memPutNat (memPutNat (memWrite s.mem 0x400040 (dwordsBytes [0x100010001, 0x401000, 0x404000, 0, 0x10010, 0, 0, 0]))
      0x401000 8 0x402000) 0x402040 8 (mkEntry 0x403000).toNat) 0x403000 8 0x77 }

/-- The premises of CacheInstructions for KVFORK, KVPUB and KVFREE, and a block that is not accepted. -/
theorem test_hyp_cache :
    let s := cached 0x3F800000
    let b := blockIn [0x400040, 0, 0, 0, 1, 0, 0, 0]
    s.canBlock (s.src1 1) 8 = true ∧ kvRsvOk 0 (b.blockAt (b.src1 1) 8) = false ∧ refuses b (.kvfork 3 1) = true ∧
    (match taskLoad 0x400040 64 s with
     | .ok (l, t) => kvRootOk (bytesDwords l) && t.canQueue && t.canWrite 3
     | .error _ => false) = true ∧
    goesTo (exec (.kvfree 3 1) (lsPut s 0x410 [0, 0])) (fun t => getW (curElem t) 3 == 0) = true ∧
    goesTo (exec (.kvpub 3 1) (lsPut s 0x410 [16, 0])) (fun t => getW (curElem t) 3 == 0) = true ∧
    goesTo (exec (.kvpub 3 1) (lsPut s 0x410 [17, 0])) (fun t => getW (curElem t) 3 == BitVec.ofInt 64 (-2)) = true ∧
    goesTo (exec (.kvfork 3 1) (lsPut s 0x410 [0, 8])) (fun t => getW (curElem t) 3 == 0) = true := by decide +kernel

/-- The premises of CacheInstructions for KVPUT: rows that are read, a key that is a NaN. -/
theorem test_hyp_cache_rows :
    goesTo (exec (.kvput 3 1) (cached 0x3F800000)) (fun t => getW (curElem t) 3 == 0
      && (match (curElem t).run with | some r => (match r.ob with | [.kv op] => decide (op.krow.head? = some 0x3F800000) | _ => false) | none => false)) = true ∧
    goesTo (exec (.kvput 3 1) (cached 0x7FC00000)) (fun t => getW (curElem t) 3 == BitVec.ofInt 64 (-2)) = true ∧
    goesTo (exec (.kvput 3 1) (cached 0x7FC00000)) (fun t => vdoneOf (curElem t) == 0) = true := by decide +kernel

/-- The root of that cache, its page of entries and entry 8. -/
def statRead : List Nat := [0x100010001, 0x401000, 0x404000, 0, 0x10010, 0, 0, 0, 0x402000, (mkEntry 0x403000).toNat]

/-- KVSTAT has done k of its four loads. -/
def statAt (k : Nat) : State :=
  onRun (lsPut (cached 0) 0x410 [0, 0]) (fun r => { r with vdone := k, vgot := statRead.take (if k = 0 then 0 else 7 + k) })

/-- The premises of CacheInstructions for KVSTAT, load by load, and an absent entry. -/
theorem test_hyp_kvstat :
    let root := (statRead.take 8).map dw
    let l := (statAt 0).blockAt ((statAt 0).src1 1) 8
    let goes (k : Nat) (p : State → Bool) : Bool := goesTo (exec (.kvstat 3 1) (statAt k)) p
    kvRsvOk 3 l = true ∧ kvFieldsOk 3 l = true ∧ kvRootOk root = true ∧ kvInRange root (kvL l) (kvG l) (kvP l) = true ∧
    (match taskLoad 0x400040 64 (statAt 0) with | .ok (b, t) => decide (bytesDwords b = root) && vdoneOf (curElem t) == 0 | .error _ => false) = true ∧
    goes 0 (fun t => vdoneOf (curElem t) == 1 && vgotOf (curElem t) == statRead.take 8) = true ∧
    goes 1 (fun t => vdoneOf (curElem t) == 2 && vgotOf (curElem t) == statRead.take 9) = true ∧
    goes 2 (fun t => vdoneOf (curElem t) == 3 && vgotOf (curElem t) == statRead) = true ∧
    goes 3 (fun t => getW (curElem t) 3 == 0x77 && vdoneOf (curElem t) == 0) = true ∧
    goesTo (exec (.kvstat 3 1) (let s := statAt 2; { s with mem := memPutNat s.mem 0x402040 8 0 })) (fun t => getW (curElem t) 3 == BitVec.allOnes 64) = true := by
  decide +kernel

/-- A heap at 0x400 of local store with its header and entries; w2 is the entry to insert. -/
def heap (h : Nat) (l : List Nat) (e : Nat) : State := reg (lsPut (reg base 1 (lsBase + 0x400)) 0x400 (h :: l)) 2 e

/-- The premises of HeapInstructions for HSIFT: a bad header, a NaN, room, a full heap with a better and with a worse entry. -/
theorem test_hyp_hsift :
    let a := heap 0x201 [0x13F800000] 0x240000000
    let full := heap 0x101 [0x13F800000] 0x240000000
    a.canBlock (a.src1 1) 33 = true ∧ wOff (curElem a) 3 + 8 ≤ 0x400 ∧ heapOk (0x202 : Dword) = true ∧ heapOk (0x102 : Dword) = false ∧
    refuses (heap 0x102 [0, 0] 5) (.hsift 3 1 2) = true ∧
    goesTo (exec (.hsift 3 1 2) (heap 0x101 [0] 0x7FC00000)) (fun t => getW (curElem t) 3 == BitVec.ofInt 64 (-2)) = true ∧
    goesTo (exec (.hsift 3 1 2) a) (fun t => getW (curElem t) 3 == 1 && memDword (curElem t).ls 0x400 == 0x202
      && memDword (curElem t).ls 0x408 == 0x13F800000 && memDword (curElem t).ls 0x410 == 0x240000000) = true ∧
    worse 0x13F800000 0x240000000 = true ∧
    goesTo (exec (.hsift 3 1 2) full) (fun t => getW (curElem t) 3 == 1 && memDword (curElem t).ls 0x408 == 0x240000000) = true ∧
    doesB (.hsift 3 1 2) (heap 0x101 [0x240000000] 0x13F800000) ((heap 0x101 [0x240000000] 0x13F800000).putReg 3 0) = true := by decide +kernel

/-- The premises of HeapInstructions for HTOPK: a bad header, an empty heap, and one of two entries. -/
theorem test_hyp_htopk :
    let a := reg (heap 0x202 [0x13F800000, 0x240000000] (lsBase + 0x600)) 3 0x40800000
    a.canBlock (a.src1 1) 33 = true ∧ a.canBlock (a.src1 2) 2 = true ∧ a.canRead 3 = true ∧
    refuses (heap 0x102 [0, 0] (lsBase + 0x600)) (.htopk 3 1 2 true) = true ∧
    doesB (.htopk 3 1 2 false) (heap 0x100 [] (lsBase + 0x600)) ((heap 0x100 [] (lsBase + 0x600)).putReg 3 0) = true ∧
    goesTo (exec (.htopk 3 1 2 true) a) (fun t => getW (curElem t) 3 == 2 && fld (memDword (curElem t).ls 0x600) 63 32 == 2) = true := by
  decide +kernel


/-! ## The vector pool -/

/-- One lane group granted, with v1 and v2 in FP32: 1.0 and 2.0, then zeros; mask m1 has bits 0 and 2. -/
def vec : State :=
  let s := onElem base (fun x => { x with csr := { x.csr with vgrant := 0x11 }, m := tput x.m 1 5 })
  let t := modClus s 0 (fun c => { c with lanes := [.held 0, .free, .free, .free, .free, .free, .free, .free] })
  onElem t (fun x => putV (putV x 1 .fp32 [0x3F800000, 0x40000000]) 2 .fp32 [0x40000000, 0x40000000, 0x40000000])

/-- The premises of VectorNeedsGrant: no grant, and one. -/
theorem test_hyp_no_grant :
    base.grant = 0 ∧ trapsB (.vadd 1 2 3 0 .fp32) base cILLOP (instrWord (.vadd 1 2 3 0 .fp32)) = true ∧ vec.grant ≠ 0 ∧
    trapsB (.vclaim 1 2 3) vec cILLOP (instrWord (.vclaim 1 2 3)) = true := by decide +kernel

/-- Another element of the cluster waits for lane groups, with a priority. -/
def rival (s : State) (want prio : Nat) : State :=
  modElem s 1 (fun x => { x with req := some { want := want, min := 1, prio := prio, lid := 0, num := 1 } })

/-- Four lane groups granted, 4 and 5 free, and a request for up to this many, at least one. -/
def four (want : Nat) : State :=
  let s := onElem base (fun x => { x with csr := { x.csr with vgrant := 0xF4 }, req := some { want := want, min := 1, prio := 0, lid := 0, num := 1 } })
  modClus s 0 (fun c => { c with lanes := [.held 0, .held 0, .held 0, .held 0, .free, .free, .held 9, .held 9] })

/-- The premises of LaneClaims for VSYNC: two groups given to a better request, two taken, and nothing changed. -/
theorem test_hyp_sync :
    let go (s : State) (v : Nat) : Bool := goesTo (exec (.vsync 4) s) (fun t => (getW (curElem t) 4).toNat == v)
    (four 4).grant = 4 ∧ (four 4).lanesAs (.held 0) = [0, 1, 2, 3] ∧ stPrio (curElem (four 4)).csr.status < 5 ∧
    (othersWaiting (rival (four 4) 4 5) 0).map (·.1) = [1] ∧ go (rival (four 4) 4 5) (2 + 256) = true ∧ go (rival (four 4) 8 5) (1 + 256) = true ∧
    othersWaiting (four 6) 0 = [] ∧ go (four 6) (6 + 256) = true ∧ go (four 8) (6 + 256) = true ∧
    go (four 4) 4 = true ∧ go (rival (four 8) 4 (stPrio (curElem (four 8)).csr.status)) 4 = true := by decide +kernel

/-- The premises of LaneClaims: bad operands, an urgent task, a claim of two groups, with the groups reserved for it first, and one of eight where
six are left, at most two by its quota; a sync and a release. -/
theorem test_hyp_lanes :
    let s := regs3 2 1 0
    let b := regs3 9 1 0
    let u := onRun s (fun r => { r with urgent := true })
    s.canRead 1 = true ∧ s.grant = 0 ∧ doesB (.vclaim 4 1 2) b (b.putReg 4 (BitVec.allOnes 64 - 1)) = true ∧
    isUrgent (curElem u) = true ∧ doesB (.vclaim 4 1 2) u (u.putReg 4 0) = true ∧ s.canWrite 4 = true ∧ isUrgent (curElem s) = false ∧
    s.lanesAs (.held 0) = [] ∧ s.laneRoom = 8 ∧
    (let r := modClus s 0 (fun c => { c with lanes := [.held 9, .free, .held 9, .reserved 0, .held 9, .held 9, .held 9, .held 9] })
     goesTo (exec (.vclaim 4 1 2) r) (fun t => t.lane 1 == .held 0 && t.lane 3 == .held 0 && (curElem t).csr.vgrant == 0xA2) = true ∧
     goesTo (exec (.vclaim 4 1 2) (modClus (reg r 2 2) 0 (fun c => { c with lanes := c.lanes.set 1 (.held 9) })))
       (fun t => getW (curElem t) 4 == 0 && t.lane 3 == .reserved 0) = true) ∧
    goesTo (exec (.vclaim 4 1 2) s) (fun t => getW (curElem t) 4 == 2 && (curElem t).csr.g == 2) = true ∧
    vec.grant ≠ 0 ∧ goesTo (exec (.vsync 4) vec) (fun t => (getW (curElem t) 4).toNat % 256 == (curElem t).csr.g) = true ∧
    goesTo (exec .vfree vec) (fun t => (curElem t).csr.g == 0 && decide (lanesIn (clus t 0) (.held 0) = [])) = true := by decide +kernel

/-- The premises of MaskInstructions: VMPOP of a mask with two bits, VIOTA in INT8, and m0. -/
theorem test_hyp_masks :
    let s := reg (reg vec 1 250) 2 3
    s.grant ≠ 0 ∧ s.canRead 1 = true ∧ s.canRead 2 = true ∧ s.canWrite 4 = true ∧ doesB (.vmpop 4 1) s (s.putReg 4 2) = true ∧
    goesTo (exec (.viota 3 1 2 1 .int8) s) (fun t => decide ((t.lanes .int8 3).take 4 = [250, 0, 0, 0])) = true ∧
    goesTo (exec (.vmlogicNot 2 1) s) (fun t => (getMask (curElem t) 2).getLsbD 1 && !(getMask (curElem t) 2).getLsbD 0) = true := by
  decide +kernel

/-- The premises of VectorMemory: the active elements, 0 and 2, of a load from bf5 and of a store to it are checked and moved. -/
theorem test_hyp_vector_memory :
    let s := lsPut (bufAt (reg vec 1 8) 5 (lsBase + 0x400) 0x100 0) 0x408 [0x200000001, 0x400000003]
    s.grant ≠ 0 ∧ s.canRead 1 = true ∧ vActive (curElem s) 1 (vAccCount (.unit 8) .fp32 1) = [0, 2] ∧
    (match vCheck 0 .load 5 4 (.unit 8) [0, 2] s with
     | .ok (ps, t) => (match vLoads 4 (ps.map (·.2)) 0 [] none t with | .ok (vs, _) => decide (vs = [1, 3]) | .error _ => false)
     | .error _ => false) = true ∧
    goesTo (exec (.vld 3 5 1 1 .fp32) s) (fun t => decide ((t.lanes .fp32 3).take 4 = [1, 0, 3, 0])) = true ∧
    goesTo (exec (.vst 2 5 1 1 .fp32) s) (fun t => memDword (curElem t).ls 0x408 == 0x240000000 && memDword (curElem t).ls 0x410 == 0x440000000) = true ∧
    s.localAt 5 8 4 = some 0x408 ∧ s.localAt 5 16 4 = some 0x410 ∧ lsPoisoned (curElem s) 0x410 4 = false := by decide +kernel

/-- The premises of VectorMemory in memory: the elements of one load lie on two lines, so the first is loaded and the instruction keeps its
place; a store goes into the write buffer. -/
theorem test_hyp_vector_lines :
    let s := bufAt (reg vec 1 0x38) 6 0x400000 0x1000 0
    vdoneOf (curElem s) = 0 ∧
    (match vCheck 0 .load 6 4 (.unit 0x38) [0, 2] s with
     | .ok (ps, t) => (match vLoads 4 (ps.map (·.2)) 0 [] none t with
        | .error (.wait u) => answers (exec (.vld 3 6 1 1 .fp32) s) u && vdoneOf (curElem u) == 1 | _ => false)
     | .error _ => false) = true ∧
    goesTo (exec (.vst 2 6 1 1 .fp32) s) (fun t => holds (curElem t).run (fun r => tfind r.wb 0x40003B == some (0x40, 0) && r.vdone == 0)) = true := by
  decide +kernel

/-- The premise of VectorMemory for a serial run whose write buffer has room for no further line. -/
theorem test_hyp_vector_full :
    let s := onRun (launched (bufAt (reg vec 1 0x38) 6 0x400000 0x1000 0) 2) (fun r => { r with serial := true, ev := { r.ev with lid := 1 }, wb := (List.range 63).map (fun i => (64 * i, 0, 0)) })
    goesTo (exec (.vst 2 6 1 1 .fp32) s) (fun t => (curElem t).stall == .full && vdoneOf (curElem t) == 1) = true := by decide +kernel

/-- The premise of VectorMemory for a store that goes on: w1 has changed since, and what is left is stored where it was to go. -/
theorem test_hyp_vector_goes_on :
    let s := onRun (launched (bufAt (reg vec 1 0x38) 6 0x400000 0x1000 0) 2) (fun r => { r with serial := true, ev := { r.ev with lid := 1 }, wb := (List.range 63).map (fun i => (64 * i, 0, 0)) })
    goesTo (exec (.vst 2 6 1 1 .fp32) s) (fun t => vdoneOf (curElem t) != 0
      && goesTo (exec (.vst 2 6 1 1 .fp32) (reg (onRun t (fun r => { r with wb := [] })) 1 0x80))
        (fun u => vdoneOf (curElem u) == 0 && holds (curElem u).run (fun r => tfind r.wb 0x400043 == some (0x40, 0) && decide (r.wb.length = 4)))) = true := by
  decide +kernel

/-- The premises of VectorReductions and its moves: an element within the register and one beyond it. -/
theorem test_hyp_vector_moves :
    let s := reg (reg vec 1 7) 2 15
    let o := reg vec 2 16
    (s.src1 2).toNat < vCount .fp32 s.grant ∧ vCount .fp32 o.grant ≤ (o.src1 2).toNat ∧
    goesTo (exec (.vins 3 1 2 .fp32) s) (fun t => (t.lanes .fp32 3).getD 15 0 == 7) = true ∧
    doesB (.vextr 4 1 2 .fp32) o (o.putReg 4 0) = true ∧
    goesTo (exec (.vbcast 3 1 1 .int16) s) (fun t => decide ((t.lanes .int16 3).take 4 = [7, 0, 7, 0])) = true := by decide +kernel

/-- The premises of VectorArithmetic: masked FP32 sums, and a compare. -/
theorem test_hyp_vector_arithmetic :
    vec.grant ≠ 0 ∧ goesTo (exec (.vadd 3 1 2 1 .fp32) vec) (fun t => decide ((t.lanes .fp32 3).take 4 = [0x40400000, 0, 0x40000000, 0])) = true ∧
    goesTo (exec (.vcmplt 3 1 2 0 .fp32) vec) (fun t => (getMask (curElem t) 3).toNat == 5) = true ∧
    goesTo (exec (.vsel 3 1 2 1 .fp32) vec) (fun t => decide ((t.lanes .fp32 3).take 3 = [0x3F800000, 0x40000000, 0])) = true := by
  decide +kernel

/-- The premises of VectorConversions: a parameter that names a format and one that does not; VRCP of 2, VCVT to INT8. -/
theorem test_hyp_vector_conversions :
    let s := reg (reg vec 1 0x13F800000) 2 0x1000000000
    s.grant ≠ 0 ∧ s.canRead 1 = true ∧ paramFmt (s.src1 1) fmtWide = some .fp32 ∧ paramFmt (s.src1 2) fmtWide = none ∧
    paramFmt (0x63F800000 : Dword) fmtQuant = some .int8 ∧ trapsB (.vqnt 3 1 2 0 .int8) s cILLOP (instrWord (.vqnt 3 1 2 0 .int8)) = true ∧
    goesTo (exec (.vcvt 3 1 .fp32 false 0 .int8) s) (fun t => decide ((t.lanes .int8 3).take 3 = [1, 2, 0])) = true ∧
    goesTo (exec (.vqnt 3 1 1 0 .int8) s) (fun t => decide ((t.lanes .int8 3).take 3 = [1, 2, 0])) = true := by decide +kernel

/-- The premises of VectorReductions: some active elements, and none. -/
theorem test_hyp_vector_reductions :
    let none' := onElem vec (fun x => { x with m := tput x.m 2 0 })
    vec.canWrite 4 = true ∧ (treeReduce (fun a c => fpAdd .fp32 0 a c) (getMask (curElem vec) 0) (vec.lanes .fp32 1)).1 = some 0x40400000 ∧
    goesTo (exec (.vredsum 4 1 0 .fp32) vec) (fun t => getW (curElem t) 4 == 0x40400000) = true ∧
    (treeReduce (fun a c => fpMax .fp32 a c) (getMask (curElem none') 2) (none'.lanes .fp32 1)).1 = none ∧
    goesTo (exec (.vredmax 4 1 2 .fp32) none') (fun t => getW (curElem t) 4 == 0xFF800000) = true ∧
    goesTo (exec (.vscan 3 1 0 .fp32) vec) (fun t => decide ((t.lanes .fp32 3).take 3 = [0x3F800000, 0x40400000, 0x40400000])) = true := by
  decide +kernel

/-- The premises of SkipBounds: v31 as the last operand, AXMODE bit 1 set and clear, and a pair for AUDCHK in order and out of order. -/
theorem test_hyp_bounds :
    let s := reg (reg (reg vec 1 0x3F800000) 2 0x40000000) 4 0x40000000
    let x := onElem s (fun x => { x with csr := { x.csr with axmode := 2 } })
    s.canRead 4 = true ∧ trapsB (.abound 4 1 31 0) s cILLOP (instrWord (.abound 4 1 31 0)) = true ∧ (curElem x).csr.axmode.getLsbD 1 = true ∧
    doesB (.abound 4 1 2 0) x (x.putReg 4 0x7F800000) = true ∧ (curElem s).csr.axmode.getLsbD 1 = false ∧
    goesTo (exec (.abound 4 1 2 0) s) (fun _ => true) = true ∧ (fpLt .fp32 0x40000000 0x3F800000).1 = false ∧
    doesB (.audchk 3 1 2) s (s.putReg 3 0) = true ∧ (fpLt .fp32 0x3F800000 0x40000000).1 = true ∧
    goesTo (exec (.audchk 3 2 1) s) (fun t => getW (curElem t) 3 == 1) = true := by decide +kernel


/-! ## Engine commands -/

/-- A shape record in one dimension: base, format code, extent and BMODE. -/
def shape1 (bs code e mode : Nat) : Nat :=
  bs + code * 2 ^ 64 + 2 ^ 68 + mode * 2 ^ 72 + 64 * 2 ^ 80 + e * 2 ^ 128

/-- A shape record of rows of one element, 64 bytes apart. -/
def shape2 (bs code rows : Nat) : Nat :=
  bs + code * 2 ^ 64 + 2 * 2 ^ 68 + 64 * rows * 2 ^ 80 + 2 ^ 128 + rows * 2 ^ 148 + 64 * 2 ^ 288

/-- A machine whose engine runs a command of launch 1, with slots 0 to 3 its own, and records in memory at 0x400000 and 0x401000. -/
def work (i : Instr) (r0 r1 : Nat) (f : Job → Job) : State :=
  let c := (encodeCmd i).getD 0
  let q := placeQueue c
  let s : State := { base with mem := memPutNat (memPutNat base.mem 0x400000 64 r0) 0x401000 64 r1, curQ := q, agenda := [] }
  let t := modClus s 0 (fun x => { x with slotOwn := [(0, 1), (1, 1), (2, 1), (3, 1)] })
  let j := placeJob c
  modQueue t q (fun x => { x with jobs := [f { j with state := 4, o := { j.o with lid := 1 } }] })

/-- The job of the turn. -/
def onJob (s : State) (p : Job → Bool) : Bool := match curJob s with | some j => p j | none => false

/-- A check passes, and the command is issued. -/
def issues (i : Instr) (check : Job → EM Job) (s : State) : Bool :=
  onJob s (fun j => !j.issued && j.fin.isNone && encodeCmd i == some j.cmd && (match check j s with
    | .ok (k, t) => answers (exec i s) (setJob t t.curQ { k with issued := true }) && !isBfWork s.curQ j
    | .error _ => false))

/-- A check fails, and the job is suspended. -/
def suspends (i : Instr) (check : Job → EM Job) (s : State) (code : Nat) : Bool :=
  onJob s (fun j => !j.issued && j.fin.isNone && encodeCmd i == some j.cmd && (match check j s with
    | .ok _ => false
    | .error e => e.code == code && answers (exec i s) (jobStopped s j e)))

/-- The premises of CommandIssue: commands of every engine that pass their checks, and some that do not. -/
theorem test_hyp_issue_matrix :
    issues (.mfill hdrPlain 0 0 0x400000) (mfillCheck 0 1 0x400000) (work (.mfill hdrPlain 0 0 0x400000) (shape1 0x500000 1 4 0) 0 id) = true ∧
    suspends (.mfill hdrPlain 0 0 0x400000) (mfillCheck 0 1 0x400000) (work (.mfill hdrPlain 0 0 0x400000) 0 0 id) 3 = true ∧
    suspends (.mfill hdrPlain 4 0 0x400000) (mfillCheck 4 1 0x400000) (work (.mfill hdrPlain 4 0 0x400000) (shape1 0x500000 1 4 0) 0 id) 10 = true ∧
    issues (.mzero hdrPlain 0 0 0) (mzeroCheck 0 1) (work (.mzero hdrPlain 0 0 0) 0 0 id) = true ∧
    issues (.mstore hdrPlain 0 0 .fp32 0 false 0 0 1 0x400000) (mstoreCheck 0 1 .fp32 false 0 2 0x400000)
      (work (.mstore hdrPlain 0 0 .fp32 0 false 0 0 1 0x400000) (shape2 0x500000 1 2) 0 id) = true := by decide +kernel

theorem test_hyp_issue_others :
    issues (.cpy hdrPlain false false 0x400000 0x401000) (cpyCheck false 0x400000 0x401000)
      (work (.cpy hdrPlain false false 0x400000 0x401000) (shape1 0x500000 1 4 0) (shape1 0x600000 1 4 0) id) = true ∧
    suspends (.cpy hdrPlain false false 0x400000 0x401000) (cpyCheck false 0x400000 0x401000)
      (work (.cpy hdrPlain false false 0x400000 0x401000) (shape1 0x500000 1 4 0) (shape1 0x600000 1 5 0) id) 3 = true ∧
    issues (.cpyfill hdrPlain 0x400000 7) (cpyfillCheck 0x400000 7) (work (.cpyfill hdrPlain 0x400000 7) (shape1 0x500000 1 4 0) 0 id) = true ∧
    issues (.gallred hdrPlain 3 0 2 5 0 0) bulkIssue (work (.gallred hdrPlain 3 0 2 5 0 0) 0 0 id) = true ∧
    suspends (.rcpeel hdrPlain 0x400000) (rcIssue 0x400000) (work (.rcpeel hdrPlain 0x400000) 0 0 id) 3 = true := by decide +kernel

/-- R84: a CPYM whose second address is not a multiple of 64 is accepted, and faults BADSHAPE at its issue. -/
theorem test_hyp_issue_misaligned :
    let i : Instr := .cpym hdrPlain 1 1 0 false false false 0 0x400020 0
    suspends i (cpymCheck 0 1 1 false 0 0x400020 0) (work i 0 0 id) 3 = true := by decide +kernel

/-- The premises of CommandIssue's second and third clauses. -/
theorem test_hyp_suspension :
    let s := work (.mzero hdrPlain 0 0 0) 0 0 id
    let e : JobStop := { code := 10, detail := 7, asid := none, marks := [], kept := none }
    onJob s (fun j => jobOf s s.curQ j.jid == some j && elUsable s j.o.el && e.kept.isNone && !j.cancel
      && onJob (jobStopped s j e) (fun k => k.state == 5 && k.code == 10)
      && goesTo (.next (faultJob s s.curQ j 25 7 0)) (fun t => onJob t (fun k => k.state == 5 && k.code == 25)
        && (match (die t 0).mclog with | [r] => r.code == 8 && r.addr == 7 | _ => false)
        && t.net.any (fun p => match p.body with | .ev _ v => decide (v.chan = 4) && (v.payload.getD 2 0 == 7) | _ => false))) = true := by
  decide +kernel

/-- An issued job with what its command settled. -/
def settled (d : List Nat) (j : Job) : Job := { j with issued := true, data := d }

/-- Row 1 column 0 of the accumulator holds 9, a row of slot 0 begins with 3 and 2, and launch 1 and
the stream of job 0 have latched a BF16 tile with 1.0 in cell (0, 0). -/
def tiled (s : State) : State :=
  let t (o : Nat) : Tile := { owner := o, fmt := .bf16, data := memPutNat [] 0 2 0x3F80, sums := 0x3F800000 :: List.replicate 63 0 }
  modClus s 0 (fun x => { setAccWord x 1 0 9 with opm := memPutNat x.opm 0 4 0x40004040, tiles := [t 1, t (2 ^ 33)] })

/-- A block of rows that a stream reads: their number, whether the checksum fails, and whether accumulator words are poisoned. -/
def streams (s : State) (shp : Bool) (ovw : Bool) (m : Nat) (fails : Bool) : Bool :=
  onJob s (fun j => j.issued && holds (streamTile (clus s 0) j) (fun tl => match blockRows shp tl .bf16 0 j m s with
    | .ok ((xs, tr), t) => !tr && xs.length == m && blockFails tl ovw (clus t 0) 0 xs == fails && (badRow (clus t 0) 0 m 1).isNone
    | .error _ => false))

/-- The premises of AccumulatorCommands: MZERO. -/
theorem test_hyp_mzero :
    goesTo (exec (.mzero hdrPlain 0 1 0) (tiled (work (.mzero hdrPlain 0 1 0) 0 0 (settled []))))
      (fun t => accWord (clus t 0) 1 0 == 0 && onJob t (fun k => k.fin == some 0)) = true := by decide +kernel

/-- The command and the state of an MSTREAM of one row, that overwrites or adds. -/
def oneRow (ovw : Bool) : Instr := .mstream hdrPlain false ovw 0 .bf16 0 0 0 0
def streaming (ovw : Bool) : State := tiled (work (oneRow ovw) 0 0 (settled (jData false 0 0 1 1 [])))

/-- The premises of AccumulatorCommands: MSTREAM from slots. -/
theorem test_hyp_stream : streams (streaming true) false true 1 false = true := by decide +kernel
theorem test_hyp_stream_slots : (badSlot (clus (streaming true) 0) 0 64).isNone = true := by decide +kernel
theorem test_stream :
    goesTo (exec (oneRow true) (streaming true)) (fun t => accWord (clus t 0) 0 0 == 0x40400000 && onJob t (fun k => k.fin == some 0)) = true := by
  decide +kernel

/-- The premises of AccumulatorCommands: a stream whose checksum fails twice, and one that reads a poisoned accumulator word. -/
theorem test_hyp_stream_fails :
    goesTo (exec (oneRow true) (modClus (streaming true) 0 (fun x => { x with softErr := 2 }))) (fun t => onJob t (fun k => k.fin == some 16)
      && (match (die t 0).mclog with | [r] => r.code == 7 | _ => false)) = true := by decide +kernel
theorem test_hyp_stream_bad :
    let b := modClus (streaming false) 0 (fun x => { x with accBad := [5] })
    (badRow (clus b 0) 0 1 64 == some 0 && goesTo (exec (oneRow false) b) (fun t => onJob t (fun k => k.state == 5 && k.code == 25))) = true := by
  decide +kernel

/-- The premises of AccumulatorCommands: MSTREAM from a shape record. -/
def shaped : State :=
  let sh := 0x500000 + 3 * 2 ^ 64 + 2 * 2 ^ 68 + 128 * 2 ^ 80 + 64 * 2 ^ 128 + 2 ^ 148 + 128 * 2 ^ 288
  let s := tiled (work (.mstream hdrPlain true true 0 .bf16 0 0 0 0x400000) sh 0 (settled (jData false sh sh 1 1 [])))
  { s with mem := memPutNat s.mem 0x500000 2 0x4040 }
theorem test_hyp_stream_shape : streams shaped true true 1 false = true := by decide +kernel

/-- The premises of AccumulatorCommands: a column that MZERO cannot clear, and rows that MSTORE cannot read. -/
theorem test_hyp_accumulator_bad :
    let z := modClus (tiled (work (.mzero hdrPlain 0 1 0) 0 0 (settled []))) 0 (fun x => { x with accBad := [32] })
    let i : Instr := .mstore hdrPlain 0 0 .fp32 0 false 0 0 1 0x400000
    let s := modClus (tiled (work i 0 0 (settled (jData false 0 0 2 0 [])))) 0 (fun x => { x with accBad := [32] })
    accWordNo 1 0 = 32 ∧ accKept (clus z 0) 1 0 1 ∧ goesTo (exec (.mzero hdrPlain 0 1 0) z) (fun t => accWord (clus t 0) 1 0 == 9) = true ∧
    badRow (clus s 0) 0 2 1 = some 1 ∧ goesTo (exec i s) (fun t => onJob t (fun k => k.state == 5 && k.code == 25)) = true := by
  refine ⟨by decide, ⟨by decide, by decide⟩, by decide +kernel, by decide +kernel, by decide +kernel⟩

/-- The premises of AccumulatorCommands: MSTORE and MLOADACC of two rows. -/
theorem test_hyp_accumulator_memory :
    let i : Instr := .mstore hdrPlain 0 0 .fp32 0 false 0 0 1 0x400000
    let sh := shape2 0x500000 1 2
    let s := tiled (work i sh 0 (settled (jData false sh sh 2 0 [])))
    let o := tiled (work i sh 0 (settled (jData false (sh - 64 * 2 ^ 80) (sh - 64 * 2 ^ 80) 2 0 [])))
    let l : Instr := .mloadacc hdrPlain 0 .fp32 0 1 0x400000
    let m := tiled (work l sh 0 (settled (jData false sh sh 2 2 [])))
    onJob s (fun j => match mstoreRows 0 1 .fp32 0 false 0 (clus s 0) j 0 [0, 1] s with
      | .ok (r, t) => r.oob.isNone && good (emWrite j r.ws t) | .error _ => false) = true ∧
    onJob o (fun j => match mstoreRows 0 1 .fp32 0 false 0 (clus o 0) j 0 [0, 1] o with
      | .ok (r, t) => r.oob == some 1 && good (emWrite j r.ws t) | .error _ => false) = true ∧
    goesTo (exec i s) (fun t => memNat t.mem 0x500040 4 == 9 && onJob t (fun k => k.fin == some 0)) = true ∧
    goesTo (exec i o) (fun t => onJob t (fun k => k.state == 5 && k.code == 9)) = true ∧
    onJob m (fun j => (match mloadRead j 1 0 [0, 1] m with
      | .ok (r, t) => good (emAccAt j (fun row col => r.1.any (fun p => p.1 == row / rowWidth .fp32 && p.2.1 == col)) id t) | .error _ => false)) = true ∧
    goesTo (exec l m) (fun t => accWord (clus t 0) 1 0 == 0) = true := by decide +kernel

/-- The premises of TileCommands: MFILL. -/
theorem test_hyp_mfill :
    let i : Instr := .mfill hdrPlain 1 0 0x400000
    let sh := shape1 0x400000 1 4 0
    let s := work i sh 0 (settled (jData false sh sh 4 4 []))
    (onJob s (fun j => good (mfillRead j (jSrc j) 8192 [0, 1, 2, 3] s)) && goesTo (exec i s) (fun t =>
      memNat (clus t 0).opm 8192 4 == 0x400000 && onJob t (fun k => k.aux == 16 && k.fin == some 0))) = true := by decide +kernel

/-- The premises of TileCommands: MWLOAD from good slots and from a poisoned word. -/
def loading : State := tiled (work (.mwload hdrPlain 0 .bf16) 0 0 id)
theorem test_hyp_mwload :
    ((List.range (tileSlots .bf16)).all (fun n => slotOwned (clus loading 0) 1 (0 + n)) && (badSlot (clus loading 0) 0 (tileSize .bf16)).isNone) = true := by
  decide +kernel
theorem test_hyp_mwload_bad :
    let b := modClus loading 0 (fun x => { x with opmBad := [3] })
    (badSlot (clus b 0) 0 (tileSize .bf16) == some 3
      && goesTo (exec (.mwload hdrPlain 0 .bf16) b) (fun t => onJob t (fun k => k.state == 5 && k.code == 25))) = true := by decide +kernel

/-- The premises of TileCommands: MSAVE of no row; one whose capacity is too small, and one of a poisoned row. -/
theorem test_hyp_images :
    let i : Instr := .msave hdrPlain false 0x20000 0 0 0x500000
    let s := work i 0 0 id
    let z : Instr := .msave hdrPlain false 0 0 0 0x500000
    let r : Instr := .msave hdrPlain false 0x20000 1 0 0x500000
    let b := modClus (work r 0 0 id) 0 (fun x => { x with accBad := [5] })
    onJob s (fun j => decide (imageSize 0 (slotsOf (clus s 0) 1).length 0 ≤ 0x20000) && savedLid false 0 j == 1
      && good (emWrite j [(0x500000, imageHeader (tileOf (clus s 0) 1) 0 (slotsOf (clus s 0) 1) 0 1 none
          ++ rowsBytes (clus s 0) 0 ++ tileBytes (tileOf (clus s 0) 1) ++ slotsBytes (clus s 0) (slotsOf (clus s 0) 1))] s)) = true ∧
    goesTo (exec z (work z 0 0 id)) (fun t => onJob t (fun k => k.state == 5 && k.code == 4)) = true ∧
    (rowBlocks 0 1).all (fun o => blkOwner (clus b 0) o == 0) = true ∧ badRow (clus b 0) 0 1 64 = some 0 ∧
    goesTo (exec r b) (fun t => onJob t (fun k => k.state == 5 && k.code == 25)) = true := by decide +kernel

/-- A machine whose MRESTORE reads an image with this header word, in a mode. -/
def restoring (h mode : Nat) : State := work (.mrestore hdrPlain 0x400000) h 0 (fun j => { j with o := { j.o with mode := mode } })

/-- The image's header reads so. -/
def reads (s : State) (p : List Dword → Job → State → Bool) : Bool :=
  onJob s (fun j => match emDwords j 0x400000 32 s with | .ok (h, t) => p h j t | .error _ => false)

/-- The premises of TileCommands: MRESTORE of an image without rows and slots, and of one that is none. -/
theorem test_hyp_restore :
    reads (restoring (0x4B344D53 + 2 ^ 32) 1) (fun h j t => imageOk h && fld (dwAt h 2) 22 16 == 0
      && !restoreBlocked (clus t t.curQ.idx) (restoreLid h j) 0 (imageSlots h)
      && recordsOk [] && good (emRead j 0x400100 0 t) && good (emRead j 0x400100 32768 t) && good (emRead j 0x408100 0 t)) = true := by
  decide +kernel
theorem test_hyp_restore_none : reads (restoring 0 1) (fun h _ _ => !imageOk h) = true := by decide +kernel

/-- The premises of TileCommands: an image with a pending command, in user mode, and one whose record has a reserved bit set. -/
theorem test_hyp_restore_pending :
    let s := restoring (0x4B344D53 + 2 ^ 32 + 2 ^ 144) 0
    reads { s with mem := memPutNat s.mem placeTable 8 0xDF } (fun h j _ => imageOk h && fld (dwAt h 2) 22 16 == 1 && j.o.mode == 0) = true := by
  decide +kernel
theorem test_hyp_restore_record :
    let s := restoring (0x4B344D53 + 2 ^ 32 + 2 ^ 144) 1
    reads { s with mem := memPutNat s.mem 0x408138 8 1 } (fun h j t => imageOk h && j.o.mode != 0
      && (match emRead j 0x408100 64 t with | .ok (l, _) => !recordsOk l | .error _ => false)) = true := by decide +kernel



/-- A burst of a copying command gathers and finds its places. -/
def moves (i : Instr) (s : State) (far : Bool) (pair : Job → Nat → SrcEl × Int) : Bool :=
  onJob s (fun j => j.issued && encodeCmd i == some j.cmd && j.state == 4
    && (match emGather j (jSrc j) (jDst j) far (pair j) ((List.range (Nat.min (burstLen (shSize (jDst j))) (jTotal j - j.prog))).map (· + j.prog)) s with
        | .ok (b, t) => good (emPlace j b.ws [] t) && decide (jPages (jNote j b.trunc b.pages) = []) | .error _ => false))

/-- The premises of CopyCommands: CPY, CPYG, CPYS and CPYFILL, on four INT32 elements from 0x400000 to 0x600000. -/
theorem test_hyp_bursts :
    let a := shape1 0x400000 1 4 0
    let b := shape1 0x600000 1 4 0
    let d := settled (jData false a b 4 4 [3, 2, 1, 0])
    let i1 : Instr := .cpy hdrPlain false false 0x400000 0x401000
    let i2 : Instr := .cpyg hdrPlain false false 0x400000 0x401000
    let i3 : Instr := .cpys hdrPlain false false 0x400000 0x401000
    let i4 : Instr := .cpyfill hdrPlain 0x400000 7
    moves i1 (work i1 a b (settled (jData false a b 4 4 []))) false (fun j k => (if k < jHave j then .at' (shOff (jSrc j) k) else .zero, shOff (jDst j) k)) = true ∧
    moves i2 (work i2 a b d) false cpygPair = true ∧ moves i3 (work i3 a b d) false cpysPair = true ∧
    moves i4 (work i4 a b (settled (jData false b b 4 0 []))) true (fun j k => (.lit (leBytes (shSize (jDst j)) 7), shOff (jDst j) k)) = true ∧
    goesTo (exec i2 (work i2 a b d)) (fun t => memNat t.mem 0x600000 4 == memNat t.mem 0x40000C 4 && memNat t.mem 0x60000C 4 == memNat t.mem 0x400000 4
      && onJob t (fun k => k.fin == some 0 && k.aux == 4)) = true := by decide +kernel

/-- The premises of CopyCommands: CPYM and CPYMSG. -/
theorem test_hyp_multicast :
    let a := shape1 0x400000 1 4 0
    let i : Instr := .cpym hdrFull 1 1 0 false true false 0 0x400000 0x80
    let s := work i a 0 (settled (jData false a a 4 4 []))
    let m : Instr := .cpymsg hdrPlain false 0x400000 0x401000
    let q := work m a 0 (settled (jData false a a 4 4 [0x600000, 9 * 2 ^ 27, 5, 6]))
    onJob s (fun j => good (cpymRead j false [0, 1, 2, 3] s)) = true ∧
    goesTo (exec i s) (fun t => memNat t.mem (spAddr 0 0x80) 4 == 0x400000 && (counter t 0 6).value == 1 && onJob t (fun k => k.aux == 1)) = true ∧
    onJob q (fun j => match cpymRead j false [0, 1, 2, 3] q with
      | .ok ((es, _, ps), t) => decide (ps = []) && (match emWrite j (es.map (fun e => ((jKept j 0 + e.1 * 4) % 2 ^ 64, e.2))) t with
          | .ok (_, u) => good (cpymsgEnd { j with prog := 4 } (u.bounded 16)) | .error _ => false)
      | .error _ => false) = true ∧
    goesTo (exec m q) (fun t => memNat t.mem 0x600000 4 == 0x400000 && memNat t.mem 0x600010 8 == 5 && decide (t.net.length = 1)) = true := by
  decide +kernel

/-- A job that has missed a far page ends, with one message on channel 2. -/
theorem test_hyp_missed_page :
    let a := shape1 0x400000 1 4 0
    let i : Instr := .cpy hdrPlain false false 0x400000 0x401000
    let s := work i a (shape1 0x600000 1 4 0) (settled (jData false a (shape1 0x600000 1 4 0) 4 4 [] ++ [0x900000]))
    (onJob s (fun j => jPages j == [0x900000] && elUsable s j.o.el && good (tierEvent j (jPages j) false s))
      && goesTo (exec i s) (fun t => onJob t (fun k => k.fin == some 13) && t.net.any (fun p => match p.body with
        | .ev _ v => decide (v.chan = 2) && v.payload == [2 ^ 32, 0, 0x900000] | _ => false))) = true := by decide +kernel

/-- A CPYPG of one page to tier 0 whose entry names a tier, with a pool of four frames at 0xA00000 for it and a frame map at 0x500000. -/
def paging (tier ph : Nat) (b : List Nat) : State :=
  let s := work (.cpypg hdrPlain 0 0 (2 ^ 42) 0x400000) 0 0 (fun j =>
    { settled [2 ^ 42, 2 ^ 43, 0, 0xA0, 4, 0x500000, 0, 0, 0] j with phase := ph, buf := b })
  let m := memPutNat (memPutNat s.mem 0x200008 8 0x210001) 0x210000 8 0x220001
  { s with mem := memPutNat (memPutNat m 0x220000 8 (0x9000CF + tier * 2 ^ 8)) 0x90F000 8 77 }

/-- The page's entry is found, the command takes its step, and leaves this job. -/
def pages (s : State) (p : State → Job → Bool) : Bool :=
  onJob s (fun j => match pageLeaf j (2 ^ 42) s with | .ok (l, _) => pteFrame l.pte == 0x900000 && !pageMoving s s.curQ j 0x900000 | .error _ => false)
    && goesTo (exec (.cpypg hdrPlain 0 0 (2 ^ 42) 0x400000) s) (fun t => onJob t (p t))

/-- The premises of CopyCommands: CPYPG of a page that lies in the tier already, the first 4 KiB of one that does not, and its last. -/
theorem test_hyp_page : pages (paging 0 0 []) (fun _ k => k.fin == some 0 && k.aux == 0) = true := by decide +kernel
theorem test_hyp_page_first :
    pages (paging 1 0 []) (fun t k => k.phase == 1 && k.buf == [0x500000, 0, 0xA00000, 0x900000, 1] && memNat t.mem 0x500000 8 == 1) = true := by
  decide +kernel

/-- A page of the same entry that another copy unit is moving. -/
theorem test_hyp_page_moving :
    let s := paging 1 0 []
    let k : Job := { placeJob ((encodeCmd (.cpypg hdrPlain 0 0 (2 ^ 42) 0x400000)).getD 0) with jid := 9, phase := 3, buf := [0x500000, 0, 0xA00000, 0x900000, 1] }
    let u := modQueue s { eng := 1, idx := 5 } (fun q => { q with jobs := [k] })
    (onJob u (fun j => pageMoving u u.curQ j 0x900000 && answers (exec (.cpypg hdrPlain 0 0 (2 ^ 42) 0x400000) u) (setJob u u.curQ j))) = true := by
  decide +kernel

/-- A gather of two positions over the cache of one block at 0x403000: the block's header, its entry's tier, and the policy and FAR. -/
def gather (hd tier : Nat) (pol far : Bool) : State :=
  let i : Instr := .kvgather hdrPlain pol far 0 0x400000 0x401000
  let dst := 0x600000 + 2 ^ 64 + 2 * 2 ^ 68 + 128 * 2 ^ 80 + 16 * 2 ^ 128 + 2 * 2 ^ 148 + 64 * 2 ^ 288
  let s := work i 0 0 (settled ([dst, 0] ++ [0x400040, 0, 2 * 2 ^ 32, 0x700000] ++ [0x100010001, 0x405000, 0x404000, 0, 0x10010, 0, 0, 0] ++ [0]))
  { s with mem := memPutNat (memPutNat (memPutNat s.mem 0x405000 8 0x402000) 0x402040 8 ((mkEntry 0x403000).toNat + tier * 2 ^ 52)) 0x403000 8 hd }

/-- What a gather finds at its first position. -/
def finds (s : State) (p : Job → Option Dword → State → Bool) : Bool :=
  onJob s (fun j => decide (j.prog + 1 < kgN j) && (match kgEntry j 0 s with | .ok (e, t) => p j e t | .error _ => false))

/-- The command of that gather. -/
def gathering (pol far : Bool) : Instr := .kvgather hdrPlain pol far 0 0x400000 0x401000

/-- The premises of CopyCommands for KVGATHER: a valid position, an empty one, a pending one under DEFER, a far one, an absent block. -/
theorem test_hyp_gather_valid :
    (finds (gather 1 0 true false) (fun j e t => holds e (fun e => entTier e == 0 && (match kgBits j (entPa e) 0 t with
      | .ok (b, u) => b.1 && (match kgRows 0 j (entPa e) 0 u with | .ok (r, v) => good (kgWrite j 0 false 0 r.1 v) | .error _ => false)
      | .error _ => false)))
    && goesTo (exec (gathering true false) (gather 1 0 true false)) (fun t => onJob t (fun k => k.prog == 1 && k.aux == 1 && kgMask k == 1))) = true := by
  decide +kernel
theorem test_hyp_gather_empty :
    (finds (gather 0 0 true false) (fun j e t => holds e (fun e => match kgBits j (entPa e) 0 t with | .ok (b, _) => !b.1 && !b.2 | .error _ => false))
    && goesTo (exec (gathering true false) (gather 0 0 true false)) (fun t => onJob t (fun k => k.prog == 1 && k.aux == 0))) = true := by decide +kernel
theorem test_hyp_gather_pending :
    (finds (gather 0x10000 0 true false) (fun j e t => holds e (fun e => match kgBits j (entPa e) 0 t with | .ok (b, _) => !b.1 && b.2 | .error _ => false))
    && goesTo (exec (gathering true false) (gather 0x10000 0 true false)) (fun t => onJob t (fun k => k.state == 3))) = true := by decide +kernel
theorem test_hyp_gather_far :
    (finds (gather 1 1 true false) (fun _ e _ => holds e (fun e => entTier e == 1))
    && goesTo (exec (gathering true false) (gather 1 1 true false)) (fun t => onJob t (fun k => k.prog == 1 && kgPages k == [0x400000]))) = true := by
  decide +kernel
theorem test_hyp_gather_absent :
    (let s := gather 0 0 true false
     finds { s with mem := memPutNat s.mem 0x402040 8 0 } (fun _ e _ => e.isNone)) = true := by decide +kernel

/-- A gather in a phase, with rows done, what it holds, and missed pages. -/
def gatherAt (ph done : Nat) (b ps : List Nat) : State :=
  let s := gather 1 0 true false
  modQueue s s.curQ (fun q => { q with jobs := q.jobs.map (fun j => { j with phase := ph, prog := done, buf := b, data := j.data ++ ps }) })

/-- The premises of CopyCommands for KVGATHER: the value row of a position, the mask at the end, and the end with missed pages. -/
theorem test_hyp_gather_values :
    goesTo (exec (gathering true false) (gatherAt 1 0 (1 :: List.replicate 64 0) [])) (fun t => onJob t (fun k => k.phase == 0 && k.prog == 1 && kgMask k == 1)) = true := by
  decide +kernel
theorem test_hyp_gather_end :
    goesTo (exec (gathering true false) (gatherAt 0 2 [] [])) (fun t => onJob t (fun k => k.fin == some 0)) = true ∧
    goesTo (exec (gathering true false) (gatherAt 0 2 [] [0x900000])) (fun t => onJob t (fun k => k.fin == some 13)
      && t.net.any (fun p => match p.body with | .ev _ v => decide (v.chan = 2) && v.payload == [2 ^ 32 + 2 ^ 49, 0, 0x900000] | _ => false)) = true := by
  decide +kernel

/-- A BFILL of one layer over the same cache, with its records; all of the weights and the state are 0. -/
def backfilled : State :=
  let i : Instr := .bfill hdrPlain 0 1 false 0x400000
  let s := work i 0 0 (settled ([0] ++ [0x100010002, 0x405000, 0x404000, 0, 0x10010, 0, 0, 0] ++ [0x400040, 0, 0x500000, 0x510000, 64, 0, 0, 0]))
  { s with mem := memPutNat s.mem 0x405000 8 0x402000 }

/-- The BFILL in a phase. -/
def bfAt (ph : Nat) : State := modQueue backfilled backfilled.curQ (fun q => { q with jobs := q.jobs.map (fun j => { j with phase := ph }) })

/-- The premises of BackfillAndReconcile for BFILL: what the layer reads is there, and no other BFILL's work stands in the matrix queue. -/
theorem test_hyp_bfill :
    onJob backfilled (fun j => j.issued && j.phase == 0 && bfCols j == 16 && bfDm j == 64 && !bwStands backfilled (bfClus backfilled j)
      && (match emRead j 0x500000 256 backfilled with
      | .ok (_, t1) => (match emDwords j 0x510040 4 t1 with
          | .ok (e, t2) => decide (e = [0, 0, 0, 0]) && (match emRead j 0 256 t2 with | .ok (_, t3) => good (emRead j 0 2048 t3) | .error _ => false)
          | .error _ => false)
      | .error _ => false)) = true := by decide +kernel
theorem test_hyp_bfill_waits :
    let k : Job := { placeJob ((encodeCmd (.bfill hdrPlain 0 1 false 0x400000)).getD 0) with jid := 9 }
    let s := modQueue backfilled { eng := 0, idx := 0 } (fun q => { q with jobs := [k] })
    onJob s (fun j => bwStands s (bfClus s j) && answers (exec (.bfill hdrPlain 0 1 false 0x400000) s) (setJob s s.curQ j)) = true := by decide +kernel
theorem test_hyp_bfill_publish :
    onJob (bfAt 2) (fun j => good (bfGroups j 1 (bwOut (clus (bfAt 2) 0) (bfRow j) 16) (bwOut (clus (bfAt 2) 0) (bfRow j + 1) 16) [0] (bfAt 2))) = true := by
  decide +kernel

/-- A BFILL's work in the matrix queue of cluster 0: DM 64, 16 columns; one step is done of two. -/
def bfWorking (done : Nat) : State :=
  let s := work (.bfill hdrPlain 0 1 false 0x400000) 0 0 (fun j => { settled ([64, 16, 0, 0] ++ List.replicate 64 0 ++ List.replicate 2048 0) j with prog := done })
  { s with curQ := { eng := 0, idx := 0 }, queues := tput s.queues (qKey { eng := 0, idx := 0 }) (queue s s.curQ) }

/-- The premises of BackfillAndReconcile for a turn of a BFILL's work, the first and the last. -/
theorem test_hyp_bf_work :
    onJob (bfWorking 0) (fun j => bwSteps j == 2 && good (emAcc j (bwRow j + bwNo j) 1 (bwWide j) (fun x => x) (bfWorking 0))) = true ∧
    onJob (bfWorking 1) (fun j => good (emAcc j (bwRow j + bwNo j) 1 (bwWide j) (fun x => x) (bfWorking 1))) = true := by decide +kernel

/-- The premises of BackfillAndReconcile for poisoned rows: of a result that a layer publishes, and of one that a turn of the work adds to. -/
theorem test_hyp_bf_poison :
    let bad (s : State) : State := modClus s 0 (fun x => { x with accBad := [32] })
    let w := bad (bfWorking 1)
    onJob (bad (bfAt 2)) (fun j => decide (bwBad (clus (bad (bfAt 2)) 0) (bfRow j) 16 = none) && bwBad (clus (bad (bfAt 2)) 0) (bfRow j + bfTiles j) 16 == some 1) = true ∧
    goesTo (exec (.bfill hdrPlain 0 1 false 0x400000) (bad (bfAt 2))) (fun t => onJob t (fun k => k.state == 5 && k.code == 25)) = true ∧
    onJob w (fun j => j.prog % Nat.max 1 (bwDeep j) == 0 || (badRow (clus w 0) (bwRow j + bwNo j) 1 (bwWide j)).isSome) = true ∧
    (let d := modQueue (bfWorking 1) { eng := 0, idx := 0 } (fun q => { q with jobs := q.jobs.map (fun j => { j with data := [128, 16, 0, 0] ++ j.data.drop 4 }) })
     let b := modClus d 0 (fun x => { x with accBad := [0] })
     onJob b (fun j => j.prog % Nat.max 1 (bwDeep j) != 0 && badRow (clus b 0) (bwRow j + bwNo j) 1 (bwWide j) == some 0
       && (jobOf { b with queues := tput b.queues (qKey { eng := 2, idx := 0 }) (queue b b.curQ) } { eng := 2, idx := 0 } j.jid).isSome) = true ∧
     goesTo (exec (.bfill hdrPlain 0 1 false 0x400000) b) (fun t => onJob t (fun k => k.fin == some 0)) = true) := by decide +kernel

/-- The premises of BackfillAndReconcile for BFCANCEL: an unfinished BFILL of the queue, and none. -/
theorem test_hyp_bfcancel :
    let i : Instr := .bfcancel hdrPlain 0x40000007
    let s := work i 0 0 id
    let k : Job := { placeJob ((encodeCmd (.bfill hdrPlain 0 1 false 0x400000)).getD 0) with jid := 0x40000007 }
    let t := modQueue s s.curQ (fun q => { q with jobs := q.jobs ++ [k] })
    bfTarget s 0x40000007 = none ∧ goesTo (exec i s) (fun u => onJob u (fun j => j.fin == some 18)) = true ∧
    bfTarget t 0x40000007 = some k ∧ goesTo (exec i t) (fun u => onJob u (fun j => j.fin == some 0 && j.aux == 1)) = true := by decide +kernel

/-- What a Riffle command has settled: a record with BMAX and BCUR 0, TLOG 6 and LCAP 1, of phase ph, whose BLIST has nb items; the peer is this
device, with its record at 0x401000. -/
def riffle (i : Instr) (ph nb : Nat) (r1 : Nat) : State :=
  work i 0 r1 (settled [0x500000, 0x510000, 0x520000, 0, 0, 0x401000, 0, 0x540000, 6, 0x550000, 0x560000, 0x570000, 1, nb * 2 ^ 32, 0, 0, 0, 0, ph, 0])

/-- The peer's record: SNAP at 0x530000, BMAX bm, SNAPV, an item table of 64 entries at 0x580000. -/
def peerAt (bm : Nat) : Nat := 0x530000 * 2 ^ 64 + (bm + 2 ^ 20) * 2 ^ 192 + 0x580000 * 2 ^ 448

/-- The premises of BackfillAndReconcile for RCXCHG: no snapshot yet, unequal seeds, and the difference; and for RCPEEL. -/
theorem test_hyp_exchange :
    let i : Instr := .rcxchg hdrPlain 0x400000 0 3
    let w := riffle i 0 0 0
    let o := riffle i 0 0 (peerAt 0)
    -- the engine of I-die 1 asks a peer whose record lies at I-die 0
    let q : QueueId := { eng := 3, idx := 1 }
    let d := modDie (setElem { o with curQ := q, queues := tput o.queues (qKey q) (queue o o.curQ) } 0 (curElem o)) 5 (fun x => { x with seeds := [(0, 9)] })
    onJob w (fun j => match rcExchange 0x400000 0 j w with | .ok (.wait _, _) => true | _ => false) = true ∧
    onJob o (fun j => match rcExchange 0x400000 0 j o with | .ok (.ok _ _, _) => true | _ => false) = true ∧
    onJob d (fun j => match rcExchange 0x400000 0 j d with | .ok (.seeds, _) => true | _ => false) = true ∧
    (let p := riffle (.rcpeel hdrPlain 0x400000) 0 0 0
     onJob p (fun j => good (rcPeelAct 0x400000 j p)) = true) := by decide +kernel

/-- The premises of BackfillAndReconcile for RCFETCH: no peer, the phantoms, and an item that the peer lacks. -/
theorem test_hyp_fetch :
    let i : Instr := .rcfetch hdrPlain 0x400000
    let n := riffle i 0 0 (peerAt 0)
    let off := onJob n (fun _ => true)
    let m := let s := riffle i 1 1 (peerAt 0); { s with mem := memPutNat s.mem 0x570000 16 (77 + 5 * 2 ^ 64) }
    let u := let s := riffle i 0 0 (peerAt 0); modQueue s s.curQ (fun q => { q with jobs := q.jobs.map (fun j => { j with data := j.data.set 4 3 }) })
    off = true ∧ onJob u (fun j => match peerRec j u with | .ok (r, _) => r.isNone | .error _ => false) = true ∧
    onJob n (fun j => match peerRec j n with
      | .ok (some _, t) => (match emItems j 0x560000 0 t with | .ok (a, v) => decide (a = []) && good (countPhantoms j a v) | .error _ => false)
      | _ => false) = true ∧
    onJob m (fun j => match emItems j 0x570000 1 m with
      | .ok ([x], t) => decide (x = (77, 5)) && (match peerRec j t with
          | .ok (some pr, u) => (match fetchItem pr [] 77 5 j u with | .ok (k, _) => k.fin.isNone && rcPhantoms k == 1 | .error _ => false)
          | _ => false)
      | _ => false) = true := by decide +kernel

/-- The premises of BackfillAndReconcile for RCROUND: a peel that succeeded, no rounds left, an exchange, and the full transfer. -/
theorem test_hyp_round :
    let i : Instr := .rcround hdrPlain 0x400000 3
    let x := riffle i 0 0 (peerAt 6)
    let y := modDie x 4 (fun d => { d with peels := [(rcKey { jobIn 4 with o := { (jobIn 4).o with lid := 1 } } 0x400000, true)] })
    let z := modDie x 4 (fun d => { d with rcmaxr := 0 })
    onJob y (fun j => rcPhase j == 0 && rcPeeled y j 0x400000) = true ∧ onJob z (fun j => !rcPeeled z j 0x400000 && decide ((rcDie z).rcmaxr ≤ rcNrnd j)) = true ∧
    onJob x (fun j => decide (rcNrnd j < (rcDie x).rcmaxr)
      && (match rcExchange 0x400000 (Nat.max 6 (Nat.min (rcBcur j + 1) (rcBmax j))) j x with | .ok (.ok _ _, _) => true | _ => false)) = true ∧
    (let p := riffle i 1 0 (peerAt 0)
     onJob p (fun j => rcPhase j == 1 && good (rcPeelAct 0x400000 j p)) = true) ∧
    (let f := riffle i 2 0 (peerAt 0)
     onJob f (fun j => decide (1 < rcPhase j) && good (rcFull 0x400000 j f)) = true) := by decide +kernel

/-- The premises of BulkCommands: a chunk to request, none, and chunks that are at hand and late. -/
theorem test_hyp_bulk :
    let i : Instr := .gallred hdrPlain 3 0 2 5 0 0x600000
    let s := work i 0 0 (settled [0, 0, 0])
    let e := work i 0 0 (settled [0, 1, 1])
    let d := let s := work i 0 0 (settled [0, 2, 0]); { s with groups := [(3, (dw (2 ^ 62 + 31), 0))] }
    let l := let s := work i 0 0 (settled [0, 2, 0]); { s with groups := [(3, (dw (2 ^ 62 + 2 ^ 32 + 2 ^ 8 + 31), 0))], roundNo := 1 }
    onJob e (fun j => (nextRequest e j).isNone) = true ∧ onJob s (fun j => nextRequest s j == some 0 && (annOf s (blkG j) (blkQ j) 0).isNone) = true ∧
    goesTo (exec i s) (fun t => onJob t (fun k => decide (k.data = [0, 2, 0]))) = true ∧
    (let u : State := { s with groups := [(3, (dw (2 ^ 62 + 2 ^ 8 + 31), 0))], regs := { s.regs with fpctl := [(0, 0x101)] }, portEdge := [0] }
     portSeen u 0 = true ∧ portUp u 0 = true ∧ goesTo (exec i u) (fun t => decide (t.out.length = 1)) = true) ∧
    onJob d (fun j => flyingChunk j (chunkReady d j) == some 0 && good (deliverChunk 0 false j { d with curQ := d.curQ, curJ := j.jid })) = true ∧
    onJob l (fun j => flyingChunk j (chunkLate l j) == some 0 && good (deliverChunk 0 true j { l with curQ := l.curQ, curJ := j.jid })) = true := by
  decide +kernel

/-- The premises of EngineEvents: a due boundary of each kind, a waiting job that may work and one that may not, a job whose work is done. -/
theorem test_hyp_engine_events :
    let m : QueueId := { eng := 0, idx := 0 }
    let c : QueueId := { eng := 1, idx := 0 }
    let s := modQueue (modQueue (queued5 2) m (fun q => { q with edge := some 0 })) c (fun q => { q with edge := some 64 })
    let f := modQueue base m (fun q => { q with jobs := [{ jobIn 4 with fin := some 0 }] })
    (queue s m).edge = some 0 ∧ (queue s c).edge = some 64 ∧ jobOf (queued5 2) m 5 = some (jobIn 2) ∧ (queue (queued5 2) m).active ≠ some 5 ∧
    eligible (queued5 2) m (jobIn 2) = true ∧ eligible (queued5 3) m (jobIn 3) = false ∧
    goesTo (exec (.engineAgeing m 5) (queued5 2)) (fun t => holds (jobOf t m 5) (fun j => j.age == 1)) = true ∧
    (queue f m).edge = none ∧ goesTo (exec (.engineDone m 5) f) (fun t => (jobOf t m 5).isNone && decide ((queue t m).ended.length = 1)) = true := by
  decide +kernel

/-- The premises of EngineEvents: a gather that waited for a position that is now valid, and an exchange whose wait has passed. -/
theorem test_hyp_engine_waits :
    let g := let s := gather 1 0 true false; modQueue s s.curQ (fun q => { q with jobs := q.jobs.map (fun j => { j with state := 3 }) })
    let x := let s := riffle (.rcxchg hdrPlain 0x400000 0 3) 0 0 0; { s with roundNo := 3 }
    onJob g (fun j => j.state == 3 && (match kgEntry j (kgPos j j.prog) { g with curQ := { eng := 1, idx := 0 }, curJ := j.jid } with
      | .ok (some e, t) => (match kgBits j (entPa e) 0 t with | .ok (b, _) => b.1 || !b.2 | .error _ => false) | _ => false)) = true ∧
    goesTo (exec (.kvgatherDeferResume 0 0) g) (fun t => holds (jobOf t { eng := 1, idx := 0 } 0) (fun j => j.state == 4)) = true ∧
    onJob x (fun j => xchgExpired x j) = true ∧
    goesTo (exec (.rcxchgWaitExpiry { eng := 3, idx := 0 } 0) x) (fun t => holds (jobOf t { eng := 3, idx := 0 } 0) (fun j => j.fin == some 20)) = true := by
  decide +kernel


/-- The premises of EngineEvents: a boundary of a job that JOBCANCEL has named, and a burst of one that signals a byte counter. -/
theorem test_hyp_boundary :
    let q : QueueId := { eng := 1, idx := 0 }
    let c : BitVec 256 := (encodeCmd (.cpyfill hdrFull 0x400000 7)).getD 0
    let k (b : Bool) : Job := { placeJob c with jid := 5, state := 4, cancel := b }
    let s (b : Bool) : State := modClus (modQueue base q (fun x => { x with jobs := [k b], active := some 5, edge := some 64 })) 0
      (fun x => { x with sc := [(cmdSigc c, { Counter.reset with byte := true })] })
    jobOf (s true) q 5 = some (k true) ∧ (jobOf (boundary (s true) q) q 5).isNone = true ∧ cmdSigen c = true ∧
    (counter (s false) 0 (cmdSigc c)).byte = true ∧ (counter (burstSignal (s false) q 64) 0 (cmdSigc c)).value = 64 := by decide +kernel

/-- The premises of BackfillAndReconcile for RCSNAP: the edge at which its snapshot is taken, and one at which a fold of its record is served. -/
theorem test_hyp_snap :
    let i : Instr := .rcsnap hdrPlain 0x400000 4
    let s := riffle i 0 0 0
    let z : FoldReq := { port := 0, dev := 9, addr := 0x400000, epoch := 4, b := 0, seeds := [], serve := some (0, [], 1) }
    let h := modDie s 4 (fun d => { d with folds := [z] })
    onJob s (fun j => j.issued && !snapHeld { s with marks := [] } j && good (rcSnapEdge 0x400000 4 j s)) = true ∧
    memNat (snapJobs s).mem 0x400030 8 = 4 ∧ onJob h (fun j => snapHeld { h with marks := [] } j) = true ∧
    memNat (snapJobs h).mem 0x400030 8 = 0 := by decide +kernel

/-- The premises of BackfillAndReconcile for a peel that fails: a cell of the difference holds two items. -/
theorem test_hyp_peel_fails :
    (let s := riffle (.rcpeel hdrPlain 0x400000) 0 0 0
     let p := { s with mem := memPutNat s.mem 0x520000 8 2 }
     onJob p (fun j => match rcPeelAct 0x400000 j p with | .ok ((_, ok, _), _) => !ok | .error _ => false)) = true := by decide +kernel



/-! ## Events -/

/-- A machine in which one act is in flight. -/
def sent (b : Body) : State := { base with net := [{ src := uHw, dst := 0, round := 0, body := b }] }

/-- The act of sent arrives. -/
theorem test_hyp_arrives (b : Body) : Arrives (sent b) 0 b { (sent b) with net := dropAt (sent b).net 0 } := ⟨_, rfl, rfl, by simp, rfl⟩

/-- A message for channel 8 of element 0, of launch 0. -/
def mail (l : List Dword) (ch : Nat) : Ev :=
  { kind := .msg, chan := ch, payload := l, sender := 0, ts := 5, lid := 0, xfer := 0, num := 0, trun := 0, serial := false,
    admitted := false, deferred := false, port := none }

/-- The state once the act of sent has arrived. -/
def got (b : Body) : State := let s := sent b; { s with net := [] }

/-- The premises of Arrivals for a message, a port word, a credit, a launch and a barrier configuration. -/
theorem test_hyp_arrivals :
    let v := mail [1] 8
    let m := got (.ev 0 v)
    ¬ (v.chan = 0 ∧ v.kind = .msg) ∧ inqUsed (elem (sent (.ev 0 v)) 0) < 128 ∧ imaged m v.lid = false ∧ outsideGroup m 0 v = false ∧
    (chEntry (elem m 0) v.chan).trig = 0 ∧
    goesTo (exec (.messageArrival 0) (sent (.ev 0 v))) (fun t => decide ((elem t 0).inq = [{ v with num := 1 }]) && t.net.isEmpty) = true ∧
    goesTo (exec (.portWordArrival 0) (sent (.word 0 1 { word := 7, ts := 1, lid := 0 }))) (fun t => decide (tget (elem t 0).fifo 1 [] = [{ word := 7, ts := 1, lid := 0 }])) = true ∧
    goesTo (exec (.creditReturn 0) (sent (.credit 0 1))) (fun t => tget (elem t 0).credit 1 16 == 17) = true ∧
    (let w : State := { sent (.launch 0 1) with launches := (launched base 1).launches }
     holds (launchOf w 1) (fun l => (occupiedOn w l.rcd 2).isEmpty && !(occupiedOn w l.rcd 0).isEmpty) = true ∧
     goesTo (exec (.launchPacket 0) w) (fun t => decide ((die t 0).waiting = [1])) = true) ∧
    goesTo (exec (.barcfgApply 0) (sent (.barcfg 3 [0x801, 3]))) (fun t => let b := tget t.bars 3 BarTag.reset; b.op == 1 && b.chan == 8 && b.mem == 3) = true := by
  decide +kernel

/-- The premises of Arrivals: a message of a group-scope launch for an element outside its cluster, on a channel and on channel 0. -/
theorem test_hyp_outside :
    let s (ch : Nat) : State :=
      { sent (.ev 40 { mail [] ch with lid := 1, sender := dw (3 + 8 * 2 ^ 27) }) with launches := (launched base 1).launches }
    outsideGroup (s 0) 40 { mail [] 0 with lid := 1 } = true ∧
    goesTo (exec (.messageArrival 0) (s 8)) (fun t => (elem t 40).inq.isEmpty && t.net.any (fun p => p.dst == 3 && (match p.body with
      | .ev 3 v => v.chan == 3 && v.payload.headD 0 == 1 | _ => false))) = true ∧
    goesTo (exec (.messageArrival 0) (s 0)) (fun t => decide (t.net.length = 1)) = true := by decide +kernel

/-- The premises of Arrivals: a message to a channel with TRIG 1, from element 3 and from hardware, and a TRIGMISMATCH of the element itself. -/
theorem test_hyp_trigger :
    let s (ch : Nat) (sender : Dword) (l : List Dword) : State :=
      onElem (sent (.ev 0 { mail l ch with sender := sender })) (fun x => { x with chans := tput x.chans ch { ChEntry.reset with d2 := 0x100 } })
    let told (t : State) (e : Nat) : Bool := (elem t 0).inq.isEmpty && t.net.any (fun p => p.dst == e && (match p.body with
      | .ev i v => i == e && v.chan == 3 && v.payload.headD 0 == 13 | _ => false))
    (chEntry (elem (s 8 3 []) 0) 8).trig = 1 ∧ goesTo (exec (.messageArrival 0) (s 8 3 [])) (fun t => told t 3) = true ∧
    goesTo (exec (.messageArrival 0) (s 8 0 [])) (fun t => told t 0) = true ∧
    goesTo (exec (.messageArrival 0) (s 3 0 [13])) (fun t => (elem t 0).inq.isEmpty && t.net.isEmpty) = true := by decide +kernel

/-- A barrier of the elements 0 and 1 on tag 3, at which the listed elements have arrived. -/
def barrier (l : List Nat) (e : Nat) : State :=
  let s := sent (.barv 3 5 { Origin.none with el := e })
  { s with bars := tput s.bars 3 { op := 1, chan := 8, mem := 3, ep := 7, arr := l.map (fun i => ({ Origin.none with el := i }, 4)) } }

/-- The premises of Arrivals for a barrier: no member, a second arrival, a first one, the last one. -/
theorem test_hyp_barrier :
    let b (l : List Nat) (e : Nat) := tget (barrier l e).bars 3 BarTag.reset
    (b [] 2).mem.getLsbD 2 = false ∧ goesTo (exec (.barrierArrival 0) (barrier [] 2)) (fun t => (tget t.bars 3 BarTag.reset).arr.isEmpty) = true ∧
    (∃ a ∈ (b [0] 0).arr, a.1.el = 0) ∧ (b [0] 1).mem.getLsbD 1 = true ∧ (∀ a ∈ (b [0] 1).arr, a.1.el ≠ 1) ∧
    popCount 3 2048 = 2 ∧
    goesTo (exec (.barrierArrival 0) (barrier [] 0)) (fun t => decide ((tget t.bars 3 BarTag.reset).arr.length = 1)) = true ∧
    goesTo (exec (.barrierArrival 0) (barrier [0] 1)) (fun t => (tget t.bars 3 BarTag.reset).ep == 8
      && t.net.any (fun p => p.dst == 1 && (match p.body with | .ev _ v => v.chan == 8 && v.payload == [5, 3 + 7 * 256] | _ => false))) = true := by
  decide +kernel

/-- The premises of Arrivals for a cell update: the cell is readable, and the item is added. -/
theorem test_hyp_cell :
    let b : Body := .cell 0x400000 0 77 9 5 false Origin.none
    physRead (got b) 0x400000 16 = some (List.replicate 16 0) ∧
    goesTo (exec (.cellUpdate 0) (sent b)) (fun t => memNat t.mem 0x400000 2 == 1 && memNat t.mem 0x400008 8 == 77) = true ∧
    (let p : State := { sent b with memBad := [0x400000 / 8] }
     physRead p 0x400000 16 = none ∧ goesTo (exec (.cellUpdate 0) p) (fun t => decide (t.mem = p.mem) && !t.net.isEmpty) = true) := by
  decide +kernel

/-- A contribution of an element to group 3. -/
def contrib (v : Dword) : Contrib := { port := none, o := Origin.none, value := v, arr := 1, count := 1, part := false, nan := false }

/-- Group 3 with this entry, and an act in flight. -/
def grouped (e : Nat) (b : Body) : State := let s := sent b; { s with groups := [(3, (dw e, 0))] }

/-- An entry that is enabled, an integer sum of n local elements at the root, with this timeout. -/
def entry (n tmo : Nat) : Nat := 2 ^ 62 + n * 2 ^ 48 + 8 * 2 ^ 40 + tmo * 2 ^ 32 + 2 ^ 28 + 2 ^ 24 + 31

/-- The premises of CollectiveEvents for a contribution: a disabled group, an old sequence, no free slot, a slot that waits, and one that is full. -/
theorem test_hyp_contribution :
    let b : Body := .group 3 5 (contrib 4)
    let e := grp (grouped (entry 2 0) b) 3
    let old : State := { grouped (entry 2 0) b with hseq := [(3, 6)] }
    let full : State := { grouped (entry 2 0) b with rslots := List.replicate 512 { g := 4, q := 1, state := 0, start := 0, ins := [] } }
    gEn (grp (sent b) 3) = false ∧ goesTo (exec (.groupContribution 0) (sent b)) (fun t => t.rslots.isEmpty) = true ∧
    gEn e = true ∧ gLocal e = true ∧ gLcnt e ≠ 0 ∧ seqLe 5 (gHseq old 3) = true ∧
    seqLe 5 (gHseq full 3) = false ∧ rslot full 3 5 = none ∧ 512 ≤ full.rslots.length ∧
    goesTo (exec (.groupContribution 0) full) (fun t => decide (t.rslots.length = 512)) = true ∧
    goesTo (exec (.groupContribution 0) (grouped (entry 2 0) b)) (fun t => decide (t.rslots.length = 1) && t.rslots.all (fun x => x.state == 0)) = true ∧
    slotFull (grouped (entry 1 0) b) (grp (grouped (entry 1 0) b) 3) { g := 3, q := 5, state := 0, start := 0, ins := [contrib 4] } = true ∧
    goesTo (exec (.groupContribution 0) (grouped (entry 1 0) b)) (fun t => t.rslots.all (fun x => x.state == 2)) = true := by decide +kernel

/-- A slot of group 3 and sequence 5. -/
def slotAt (st : Nat) : RSlot := { g := 3, q := 5, state := st, start := 0, ins := [contrib 4] }

/-- The premises of CollectiveEvents for a contribution to a slot: it is recorded beside another, it fills the slot, the slot has it already,
and the slot has been forwarded. -/
theorem test_hyp_existing_slot :
    let b : Body := .group 3 5 (contrib 4)
    let s (n st : Nat) : State := { grouped (entry n 0) b with rslots := [slotAt st] }
    let ins (t : State) (n st : Nat) : Bool := t.rslots.all (fun x => x.ins.length == n && x.state == st)
    rslot (s 3 0) 3 5 = some (slotAt 0) ∧ localCount (slotAt 0) = 1 ∧
    goesTo (exec (.groupContribution 0) (s 3 0)) (fun t => ins t 2 0) = true ∧
    slotFull (s 2 0) (grp (s 2 0) 3) { slotAt 0 with ins := [contrib 4, contrib 4] } = true ∧
    goesTo (exec (.groupContribution 0) (s 2 0)) (fun t => ins t 2 2) = true ∧
    goesTo (exec (.groupContribution 0) (s 1 0)) (fun t => ins t 1 0) = true ∧ goesTo (exec (.groupContribution 0) (s 2 1)) (fun t => ins t 1 1) = true := by
  decide +kernel

/-- The premises of CollectiveEvents for a result of an entry that GCFG has ended, and for one of another code. -/
theorem test_hyp_results_more :
    let b (code : Nat) : Body := .result 3 5 code 4 1 1 false
    let s (code : Nat) : State := { grouped (entry 2 4) (b code) with rslots := [slotAt 1] }
    let z : State := { s 0 with stale := [(3, 5)] }
    (3, 5) ∈ z.stale ∧ goesTo (exec (.groupResult 0) z) (fun t => t.stale.isEmpty && t.rslots.all (fun x => x.state == 1)) = true ∧
    (3, 5) ∉ (s 4).stale ∧ (slotAt 1).state = 1 ∧ goesTo (exec (.groupResult 0) (s 4)) (fun t => t.rslots.all (fun x => x.state == 2)) = true ∧
    goesTo (exec (.groupResult 0) (s 2)) (fun t => t.rslots.all (fun x => x.state == 1)) = true ∧
    goesTo (exec (.groupResult 0) { s 4 with rslots := [slotAt 0] }) (fun t => t.rslots == [slotAt 0]) = true ∧
    goesTo (exec (.groupResult 0) { s 2 with rslots := [slotAt 2] }) (fun t => t.rslots == [slotAt 2]) = true ∧
    goesTo (exec (.groupResult 0) { s 2 with stale := [(3, 5)] }) (fun t => decide (t.stale = [(3, 5)])) = true ∧
    (let o : State := { s 0 with groups := [(3, (dw (entry 2 4), dw (9 * 2 ^ 16)))], hseq := [(3, 8)], renewed := [3] }
     let first := (gSeq0 o 3 + 2 ^ 32 - 1) % 2 ^ 32
     (seqLe 5 first && seqLe first (gHseq o 3) && seqLe 5 (gHseq o 3)) = true ∧
     goesTo (exec (.groupResult 0) o) (fun t => t.rslots == [slotAt 1]) = true) ∧
    (s 0).renewed = [] := by
  decide +kernel

/-- The premises of CollectiveEvents for a second announcement of a chunk. -/
theorem test_hyp_announced :
    let r : Body := .grdy [dw 0x50003, 0, 0x400000] Origin.none
    let s : State := { grouped (entry 2 4) r with anns := [{ g := 3, q := 5, c := 0, addr := 7, size := 64, o := Origin.none }] }
    goesTo (exec (.grdyAnnounce 0) s) (fun t => decide (t.anns.length = 1)) = true := by decide +kernel

/-- The premises of CollectiveEvents for results, announcements and timeouts. -/
theorem test_hyp_results :
    let b : Body := .result 3 5 0 4 1 1 false
    let s : State := { grouped (entry 2 4) b with rslots := [slotAt 1] }
    let r : Body := .grdy [dw 0x50003, 0, 0x400000] Origin.none
    let x : State := { grouped (entry 2 4) r with rslots := [slotAt 0], roundNo := 4 }
    let y : State := { x with rslots := [slotAt 2] }
    rslot s 3 5 = some (slotAt 1) ∧ goesTo (exec (.groupResult 0) s) (fun t => t.rslots.all (fun z => z.state == 2)) = true ∧
    rslot (grouped (entry 2 4) b) 3 5 = none ∧ goesTo (exec (.groupResult 0) (grouped (entry 2 4) b)) (fun _ => true) = true ∧
    goesTo (exec (.grdyAnnounce 0) x) (fun t => decide (t.anns.map (fun a => (a.g, a.q, a.c, a.size)) = [(3, 5, 0, 64)])) = true ∧
    (slotAt 0).state = 0 ∧ gTmo (grp x 3) = 4 ∧ (slotAt 0).start + gTmo (grp x 3) ≤ x.roundNo ∧ rslot x 3 5 = some (slotAt 0) ∧
    goesTo (exec (.groupTimeout 3 5) x) (fun t => t.rslots.all (fun z => z.state == 2)) = true ∧
    rslot y 3 5 = some (slotAt 2) ∧ (slotAt 2).start + 2 ≤ y.roundNo ∧
    goesTo (exec (.groupSlotFree 3 5) y) (fun t => t.rslots.isEmpty) = true := by decide +kernel

/-- The premises of CollectiveEvents for pulls: a group that is disabled, a chunk that is at hand, one that is not, and a pull that has waited. -/
theorem test_hyp_pulls :
    let l : List Dword := [dw 0x50003, 0, 0x600000]
    let b : Body := .gpull l { Origin.none with mode := 1 }
    let p : Pull := { block := l, o := { Origin.none with mode := 1 }, start := 0 }
    let s := grouped (entry 2 4) b
    let a : Ann := { g := 3, q := 5, c := 0, addr := 0x400000, size := 64, o := { Origin.none with mode := 1 } }
    let h : State := { s with anns := [a] }
    let w : State := { s with pulls := [p], roundNo := 4 }
    gEn (grp (sent b) 3) = false ∧ (servePull h p).isSome = true ∧ goesTo (exec (.gpullRequest 0) h) (fun t => t.pulls.isEmpty) = true ∧
    servePull s p = none ∧ fld (dwAt l 1) 21 16 = gLeaf (grp s 3) ∧ goesTo (exec (.gpullRequest 0) s) (fun t => decide (t.pulls = [p])) = true ∧
    (let f : Body := .gpull [dw 0x50003, dw (2 * 2 ^ 16), 0x600000] { Origin.none with mode := 1 }
     goesTo (exec (.gpullRequest 0) (grouped (entry 2 4) f)) (fun t => t.pulls.isEmpty) = true ∧
     goesTo (exec (.gpullRequest 0) { grouped (entry 2 4 + 2 ^ 8) f with regs := { base.regs with fpctl := [(0, 0x101)] }, portEdge := [0] })
       (fun t => decide (t.pulls.length = 1) && decide (t.out.length = 1)) = true) ∧
    w.pulls[0]? = some p ∧ pullLeaf p = gLeaf (grp w (pullG p)) ∧ gTmo (grp w (pullG p)) = 4 ∧
    pullLost { w with pulls := [{ p with block := [dw 0x50003, dw (2 * 2 ^ 16), 0x600000] }] } { p with block := [dw 0x50003, dw (2 * 2 ^ 16), 0x600000] } = true ∧ goesTo (exec (.gpullTimeout 0) w) (fun t => t.pulls.isEmpty) = true := by decide +kernel

/-- A confluence operation on object 0 of I-die 0, with its block. -/
def atHomeOp (sub : Nat) (l : List Dword) (ts : Option (List (BitVec 32))) : CfOp :=
  { sub := sub, o := Origin.none, block := l, terms := ts, pages := [] }

/-- Object 0 as it is, and an operation for it in flight. -/
def confl (o : CfObj) (op : CfOp) : State := setCf (sent (.cf op)) 0 o

/-- An open object of generation 1, of one group of lanes. -/
def opened : CfObj := { CfObj.reset with state := 1, gen := 1, nl := 1 }

/-- An operation for generation 1. -/
def anOp (sub : Nat) : CfOp := atHomeOp sub [0, 1, 6] none

/-- An operation that is not refused leaves its object so. -/
def taken (sub : Nat) (o : CfObj) (i : Instr) (p : CfObj → Bool) : Bool :=
  (cfRefuse (confl o (anOp sub)) (anOp sub)).isNone && goesTo (exec i (confl o (anOp sub))) (fun t => p (cfObj t 0))

/-- The premises of HomeOperations: every operation that its object takes, and refused ones. -/
theorem test_hyp_homes :
    let d (sub : Nat) : CfOp := anOp sub
    (taken 0 CfObj.reset (.cfopenHome 0) (fun x => x.state == 1 && x.gen == 1 && x.nl == 1)
      && taken 1 opened (.cfnextHome 0) (fun x => x.state == 1 && x.gen == 2)
      && taken 2 opened (.cfexpectHome 0) (fun x => x.eset && x.e == 6) && taken 5 opened (.cfsealHome 0) (fun x => x.state == 2)
      && taken 7 opened (.exitmarkHome 0) (fun x => x.state == 3)) = true ∧
    cfRefuse (confl CfObj.reset (d 5)) (d 5) = some 10 ∧ goesTo (exec (.cfsealHome 0) (confl CfObj.reset (d 5))) (fun t => (cfObj t 0).state == 0) = true ∧
    (let f := atHomeOp 0 [0, dw (2 ^ 31)] none
     cfFree f = true ∧ cfRefuse (confl opened f) f = none ∧ goesTo (exec (.cfopenHome 0) (confl opened f)) (fun t => (cfObj t 0).state == 0) = true) := by
  decide +kernel

/-- The premises of HomeOperations for CFPOST and CFREAD: a term of 1 and one of 2, a handle of no object, a read that waits. -/
theorem test_hyp_home_post :
    let p := atHomeOp 3 [0, dw (1 + 2 ^ 16 + 2 ^ 24 + 2 ^ 42), 0, 0] (some [0x3F800000, 0x40000000])
    let z := atHomeOp 3 [dw 1, 1, 0, 0] (some [])
    let r := atHomeOp 4 [0, 1, 2, 0, 0, 0] none
    let s := confl opened p
    let o := cfObj s 0
    cfNamed s 0 = true ∧ o.state = 1 ∧ o.gen.toNat = cfGen p ∧ postNull p = false ∧ postOff p + postCnt p ≤ cfLanes o ∧
    dbit o.a (cfContrib p) = false ∧ o.eset = false ∧ postCond p = false ∧ homeTerms s p = some [0x3F800000, 0x40000000] ∧
    ([0x3F800000, 0x40000000] : List (BitVec 32)).all (fun x => (termInt .fp32 0 x.toNat).isSome) = true ∧ postFmt p = .fp32 ∧ o.w = 0 ∧
    goesTo (exec (.cfpostHome 0) s) (fun t => (cfObj t 0).a == 2 && decide ((cfObj t 0).lanes.length = 2)) = true ∧
    cfNamed (confl opened z) 1 = false ∧ goesTo (exec (.cfpostHome 0) (confl opened z)) (fun t => (cfObj t 0).a == 0) = true ∧
    o.gen.toNat = cfGen r ∧ readOff r + readCnt r ≤ cfLanes o ∧ o.reads.length < 8 ∧
    goesTo (exec (.cfreadHome 0) (confl opened r)) (fun t => decide ((cfObj t 0).reads.length = 1)) = true := by decide +kernel

/-- Element 0 with a message for channel 9, whose handler has this priority; a run may be under way. -/
def pending (prio : Nat) (run : Bool) : State :=
  onElem base (fun x => { x with run := if run then x.run else none, chans := tput x.chans 9 { ChEntry.reset with d0 := 0x300000, d1 := 0x1000, d2 := dw (0x80 + prio) },
                                 csr := { x.csr with status := x.csr.status ||| 0x10 }, inq := [{ mail [1] 9 with num := 1 }] })

/-- The premises of RunStarts. -/
theorem test_hyp_starts :
    let s := pending 3 false
    let u := pending 7 true
    holds (selectable s 0) (fun c => c.1 == 9 && wpOk (elem s 0) (chEntry (elem s 0) c.2.chan).wpo) = true ∧
    holds (urgentReady u 0) (fun c => c.1 == 9 && wpOk (elem u 0) (chEntry (elem u 0) c.2.chan).wpo) = true ∧ selectable u 0 = none ∧
    goesTo (exec (.handlerSelection 0) s) (fun t => (elem t 0).seq.p == 0x300000 && getW (elem t 0) 4 == 5) = true ∧
    goesTo (exec (.urgentInterruption 0) u) (fun t => (elem t 0).under.isSome && getW (elem t 0) 2 == 1) = true := by decide +kernel

/-- The premises of RunStarts: a workspace pointer that the channel may not have, and a lane request of another event's run. -/
theorem test_hyp_start_more :
    let c (x : Elem) : Tbl ChEntry := tput x.chans 9 { (tget x.chans 9 ChEntry.reset) with d1 := 0x3FFF8 }
    let s := onElem (pending 3 false) (fun x => { x with chans := tput (c x) 1 { d0 := 0x1000, d1 := 0x800, d2 := 0 } })
    let q := onElem (pending 3 false) (fun x => { x with req := some { want := 2, min := 1, prio := 0, num := 7, lid := 0 } })
    holds (selectable s 0) (fun c => !wpOk (elem s 0) (chEntry (elem s 0) c.2.chan).wpo && wpOk (elem s 0) (chEntry (elem s 0) 1).wpo) = true ∧
    goesTo (exec (.handlerSelection 0) s) (fun t => (elem t 0).x.ecause == BitVec.ofNat 5 cBOUNDS && (elem t 0).seq.p == 0x1000) = true ∧
    goesTo (exec (.handlerSelection 0) q) (fun t => (elem t 0).req.isNone) = true ∧
    (let l := launched (pending 3 false) 1
     let late : Ev := { mail [] 8 with serial := true, admitted := true, lid := 1, num := 5, ts := 9 }
     let d := onElem (modElem l 1 (fun x => { x with inq := [late] })) (fun x => { x with inq := x.inq.map (fun v => { v with lid := 1 }) })
     holds (selectable d 0) (fun c => lidScope d (runLid (elem d 0) c.2) == 1 && keyLt (evKey 0 c.2) (evKey 1 late)) = true ∧
     goesTo (exec (.handlerSelection 0) d) (fun t => (elem t 1).inq == [{ late with admitted := false }]) = true) := by decide +kernel

/-- An element that halted, with a control message in flight. -/
def control (l : List Dword) : State := modElem (sent (.ev 0 (mail l 0))) 0 (fun x => { x with halted := true })

/-- The event changes nothing. -/
def doesNothing (i : Instr) (s : State) : Bool := answers (exec i s) s

/-- The premises of ElementEvents: control messages, a serial event, a commit, immediate atomics, a host completion. -/
theorem test_hyp_element_events :
    let s := onElem base (fun x => { x with inq := [{ mail [] 8 with serial := true }] })
    let r := (elem base 0).run
    let f := onElem base (fun x => { x with run := none, fin := match x.run with | some r => [r] | none => [] })
    let a (u : AmoUse) := onElem base (fun x => { x with iq := [addAtHome u] })
    (serialHead (elem s 0) 8).isSome = true ∧ lidScope s 0 = 0 ∧ goesTo (exec (.serialAdmission 0 8) s) (fun t => (serialHead (elem t 0) 8).isNone) = true ∧
    holds r (fun r => decide ((elem f 0).fin[0]? = some r) && mayCommit f (0, r) && commitFirst f (0, r)) = true ∧
    goesTo (exec (.commit 0 0) f) (fun t => (elem t 0).fin.isEmpty) = true ∧
    (let d := launched (onElem base (fun x => { x with inq := [{ mail [] 8 with serial := true, lid := 1 }] })) 3
     (serialHead (elem d 0) 8).isSome = true ∧ lidScope d 1 = 3 ∧ doesNothing (.serialAdmission 0 8) d = true) ∧
    (elem (a .nord) 0).iq[0]? = some (addAtHome .nord) ∧ goesTo (exec (.iatom 0 0) (a .nord)) (fun t => (elem t 0).iq.isEmpty) = true ∧
    goesTo (exec (.iatom 0 0) (a .quant)) (fun t => decide (t.quants.length = 1)) = true ∧
    goesTo (exec (.hostCompletionTimeout 0) base) (fun t => t.hostLost == some 0) = true := by decide +kernel

/-- The premises of ElementEvents for a serial event of a launch: a finished serial run of its timestamp commits as it is admitted. -/
theorem test_hyp_serial_left :
    let v : Ev := { mail [] 8 with serial := true, lid := 1, num := 2, ts := 0 }
    let r : Run := { freshRun with serial := true, ev := { freshRun.ev with lid := 1 }, rs := [7] }
    let s := launched (onElem base (fun x => { x with run := none, inq := [v], fin := [r] })) 1
    serialHead (elem s 0) 8 = some v ∧ lidScope s 1 = 1 ∧ oldest s 0 v = true ∧
    goesTo (exec (.serialAdmission 0 8) s) (fun t => (elem t 0).fin.isEmpty && (elem t 0).inq.all (·.admitted)) = true := by decide +kernel

theorem test_hyp_controls :
    controlOp (control []) 0 (mail [] 0) = some 0 ∧ isHalted (elem (control []) 0) = true ∧
    goesTo (exec (.wake 0) (control [])) (fun t => !(elem t 0).halted) = true ∧
    controlOp (control [1]) 0 (mail [1] 0) = some 1 ∧ goesTo (exec (.stop 0) (control [1])) (fun t => (elem t 0).stopping) = true ∧
    ctlOp [0x102, 0x600000, 0x10000, 0, 0, 9] = some 2 ∧ goesTo (exec (.preempt 0) (control [0x102, 0x600000, 0x10000, 0, 0, 9])) (fun t => decide (t.net.length = 1)) = true ∧
    ctlOp [3, 0x600000] = some 3 ∧ goesTo (exec (.resume 0) (control [3, 0x600000])) (fun t => decide (t.net.length = 1)) = true ∧
    ctlOp [4, 0x600000] = some 4 ∧ goesTo (exec (.discard 0) (control [4, 0x600000])) (fun t => decide (t.net.length = 1)) = true := by decide +kernel

/-- The premises of ElementEvents for the pre-emption unit: a request for launch 1, the stop, and the capture. -/
theorem test_hyp_preemption :
    let l : List Dword := [0x102, 0x600000, 0x10000, 0, 0, 1]
    let s : State := let s := sent (.preempt l Origin.none)
             { s with launches := [(1, { rcd := oneElement, asid := 0, scope := 1, home := 0, todo := [], parts := [], queue := none, held := 0 })] }
    let p : PreUnit := { stage := 2, op := 2, lids := [1], img := 0x600000, cap := 0x10000, reply := 0, o := Origin.none, e := 0, sEdge := 0, saves := [] }
    let u : State := { s with pre := p }
    let w : State := { s with pre := { p with stage := 3 }, roundNo := 2 }
    let c : State := { s with pre := { p with stage := 5 }, roundNo := 2 }
    s.pre.stage = 0 ∧ fld (dwAt l 0) 7 0 = 2 ∧ (preLids l).all (preAble s) = true ∧
    goesTo (exec (.preemptRequest 0) s) (fun t => t.pre.stage == 1 && t.pre.lids == [1] && t.pre.e == 2) = true ∧
    u.pre.stage = 2 ∧ goesTo (exec .preemptStop u) (fun t => t.pre.stage == 3 && holds (launchOf t 1) (fun l => l.held == 2)) = true ∧
    stopsDone (preSaves w) = true ∧ captureReady (preStopEdge w) = true ∧ captureReady c = true ∧
    queueQuiet w { eng := 0, idx := 0 } = true := by decide +kernel

/-- A context of launch 7 that is to be captured, into this many bytes: one event in the queue of an element without local store. -/
def capturing (cap : Nat) : State :=
  let p : PreUnit := { stage := 5, op := 2, lids := [7], img := 0x600000, cap := dw cap, reply := 0, o := Origin.none, e := 0, sEdge := 0, saves := [] }
  { onElem base (fun x => { x with bmask := 0, inq := [{ mail [5] 9 with lid := 7 }] }) with pre := p }

/-- The premises of ElementEvents for a capture, beyond its capacity and within it. -/
theorem test_hyp_capture_full :
    captureReady (capturing 0x100) = true ∧
    goesTo (exec .preemptCapture (capturing 0x100)) (fun t => decide (t.pre = PreUnit.idle ∧ t.mem = base.mem ∧ t.ctxs.map (·.written) = [false])) = true := by
  decide +kernel
theorem test_hyp_capture :
    goesTo (exec .preemptCapture (capturing 0x10000)) (fun t => decide (t.ctxs.map (·.written) = [true]) && (elem t 0).inq.isEmpty) = true := by
  decide +kernel

/-- A host queue: a descriptor table of one entry at 0x700000, with a ring of one record of launch oneElement at 0x701000. -/
def hostQueue (rec0 : Nat) : State :=
  { base with mem := memPutNat (memPutNat (memPutNat (memPutNat base.mem 0x700000 8 0x701000) 0x700008 8 0x100) 0x700018 8 1)
                0x701000 256 rec0,
              regs := { base.regs with qtbase := 0x700000, qtctl := dw (1 + 2 ^ 16 + 2 ^ 24) }, launches := [], tailSeen := [(0, 1)],
              slots := [(0, { q := some 0, held := 1, taken := 0 })] }

/-- The machine with fabric ports 0 and 1 enabled and up, and device 9 routed to port 1. -/
def ported : State :=
  { base with regs := { base.regs with fpctl := [(0, 0x101), (1, 0x101)], route := [(9, 0x81)] } }

/-- What another device tells of a domain at a system edge: it has nothing to commit. -/
def told : SysPart := { lo := 5, ser := false, low := none, wait := false, parts := [], runs := [] }

/-- The premises of RoundEvents: markers, an edge, horizons, a record that is launched and one that is refused. -/
theorem test_hyp_rounds :
    let r := leNat (dwordsBytes oneElement)
    let e : State := { base with roundGen := 1 }
    base.roundGen = base.roundNo ∧ goesTo (exec .roundMarkerInjection base) (fun t => t.roundGen == 1) = true ∧
    e.roundGen = e.roundNo + 1 ∧ goesTo (exec .roundEdge e) (fun t => t.roundNo == 1) = true ∧
    portOpen ported 0 = true ∧ goesTo (exec (.horizonReport 1 2 { port := 0, dev := 3 } 4 told) ported) (fun t => decide (t.reports.length = 1)) = true ∧
    portOpen base 0 = false ∧ goesTo (exec (.horizonReport 1 2 { port := 0, dev := 3 } 4 told) base) (fun t => t.reports.isEmpty) = true ∧
    takeReady (hostQueue r) 0 = some 0 ∧ holds (ringRecord (hostQueue r) 0) (fun l => recordOk (hostQueue r) l false 7) = true ∧
    goesTo (exec (.slotTakeRecord 0) (hostQueue r)) (fun t => decide (t.launches.length = 1) && qdHead t 0 == 1) = true ∧
    holds (ringRecord (hostQueue 0) 0) (fun l => !recordOk (hostQueue 0) l false 7) = true ∧
    goesTo (exec (.slotTakeRecord 0) (hostQueue 0)) (fun t => decide (t.launches.length = 0) && qdHead t 0 == 1 && memNat t.mem 0x700028 8 == 2 ^ 32 + 1) = true := by
  decide +kernel

/-- An act in flight that its destination cannot take yet: the element's queue is full. -/
theorem test_hyp_rounds_held :
    let s := onElem (sent (.ev 0 (mail [] 8))) (fun x => { x with inq := List.replicate 128 (mail [] 9) })
    deliverable s 0 = false ∧ deliverable s 1 = false := by decide +kernel

/-- The premises of RoundEvents: an immediate atomic that is left to perform, and a ring that cannot be read. -/
theorem test_hyp_rounds_more :
    let s : State := { onElem base (fun x => { x with iq := [addAtHome .unp] }) with roundGen := 1 }
    let h : State := { hostQueue 0 with memBad := [0x701000 / 8] }
    iqSettled s = false ∧ goesTo (exec .roundEdge s) (fun t => t.roundNo == 0) = true ∧ takeReady h 0 = some 0 ∧ (ringRecord h 0).isNone = true ∧
    goesTo (exec (.slotTakeRecord 0) h) (fun t => qdHead t 0 == 1 && (match (die t 4).mclog with | [m] => m.addr == 0x701000 | _ => false)) = true ∧
    dieOfPa (ringAddr h 0) = 4 := by
  decide +kernel

/-- The premises of RoundEvents for a slot's quantum and for an admission. -/
theorem test_hyp_slots :
    let h := hostQueue 0
    let g : Regs := { h.regs with qtctl := dw (2 + 2 ^ 16 + 2 ^ 24) }
    let s : State := { h with regs := g, mem := memPutNat (memPutNat (memPutNat h.mem 0x700040 8 0x702000) 0x700048 8 0x100) 0x700058 8 1 }
    let w := modDie (launched base 1) 0 (fun x => { x with waiting := [1] })
    (lslot s 0).q = some 0 ∧ qtQuant s ≤ (lslot s 0).held ∧ anyWaiting s = true ∧
    goesTo (exec (.slotQuantumExpiry 0) s) (fun t => (lslot t 0).q.isNone) = true ∧
    (match waitingHead w 0 with
     | some lid => holds (launchOf w lid) (fun l => canAdmit w l.rcd 0) && goesTo (exec (.launchAdmission 0) w) (fun t => (die t 0).waiting.isEmpty)
     | none => false) = true := by decide +kernel

/-- A packet of a third device's message. -/
def inTransit : FabBody := .msg 0 8 [1] 0 5 0

/-- The premises of FabricEvents: a read whose wait has passed, packets, remote accesses, and links. -/
theorem test_hyp_fabric :
    let r := atHomeOp 4 [0, dw (1 + 2 ^ 24), 2, 0, 0, 0] none
    let p : CfPend := { op := r, start := 0 }
    let s := setCf base 0 { opened with reads := [p], a := 2, e := 2, eset := true }
    (cfObj s (cfHandleOf s 0 0)).reads[0]? = some p ∧ readTest s (cfObj s (cfHandleOf s 0 0)) p = true ∧
    goesTo (exec (.cfreadLateness 0 0 0) s) (fun t => (cfObj t 0).reads.isEmpty) = true ∧
    portOpen ported 0 = true ∧ portOpen base 0 = false ∧ hopLocal inTransit = false ∧ (9 : BitVec 16) ≠ ported.regs.devnum ∧
    routePort ported 9 = some 1 ∧ goesTo (exec (.fabricForward 0 { dev := 9, body := inTransit }) ported) (fun t => decide (t.out.length = 1)) = true ∧
    goesTo (exec (.fabricForward 0 { dev := 0, body := inTransit }) ported) (fun t => decide (t.net.length = 1)) = true := by decide +kernel

/-- The premises of HeldArrivals: port 0 waits for system edge 5, and a packet that comes there is held until that has passed; a marker is not. -/
theorem test_hyp_held :
    let h : State := { ported with sysSeen := [(0, 5)] }
    let p : FabPkt := { dev := 0, body := inTransit }
    portTakes h 0 = true ∧ portHeld h 0 = true ∧ portTakes base 0 = false ∧ portHeld ported 0 = false ∧ isMarker (.fab 0 p) = false ∧
    goesTo (exec (.fabricForward 0 p) h) (fun t => decide (t.heldIn = [{ edge := 5, arr := .fab 0 p }]) && t.net.isEmpty
      && (releaseHeld t).agenda == t.agenda
      && (let u := releaseHeld { t with regs := { t.regs with srno := 5 } }; u.agenda == .held (.fab 0 p) :: t.agenda && u.heldIn.isEmpty)) = true ∧
    goesTo (takeTurn (.held (.fab 0 p)) h) (fun t => decide (t.net.length = 1)) = true ∧
    goesTo (exec (.fabricForward 0 { dev := 0, body := .marker (mkFlit 3 2 0 12) }) h) (fun t => decide (t.sysSeen = [(0, 12)])) = true := by
  decide +kernel

/-- The premises of FabricEvents: remote accesses, a COMMIT's write among them, a marker, and a device that is removed. -/
theorem test_hyp_remote :
    let go (i : Instr) (p : State → Bool) : Bool := goesTo (exec i ported) p
    let f : State := { base with farCap := [(0, 2 ^ 30)] }
    remoteOk ported 0x400000 = true ∧ remoteOk ported (2 ^ 50) = false ∧ (physWrite ported 0x400000 [1, 2] hwCodec).2 = [] ∧
    go (.remoteRequest { port := 0, dev := 9 } 0x400000 (.write [1, 2] 0)) (fun t => memNat t.mem 0x400000 2 == 0x201 && decide (t.out.length = 1)) = true ∧
    go (.remoteRequest { port := 0, dev := 9 } 0x400000 (.write [1, 2] 7)) (fun t => memNat t.mem 0x400000 2 == 0x201) = true ∧
    go (.remoteRequest { port := 0, dev := 9 } 0x400000 (.atomic 0 .comm 5 0)) (fun t => memNat t.mem 0x400000 8 == 5) = true ∧
    go (.remoteRequest { port := 0, dev := 9 } 0x400000 (.atomic 0 .quant 5 0)) (fun t => memNat t.mem 0x400000 8 == 0 && decide (t.quants.length = 1)) = true ∧
    go (.remoteRequest { port := 0, dev := 9 } (2 ^ 50) (.read 8)) (fun t => decide (t.out = [.packet 1 { dev := 9, body := .answer none }])) = true ∧
    go (.fabricForward 0 { dev := 0, body := .marker (mkFlit 3 2 0 12) }) (fun t => decide (t.sysSeen = [(0, 12)])) = true ∧
    tget f.farCap 0 0 ≠ 0 ∧ 0 ∉ f.farDown ∧ goesTo (exec (.cxlDeviceRemoval 0) f) (fun t => t.farDown.contains 0) = true := by decide +kernel

/-- A link whose replay has failed this often. -/
def failing (n : Nat) (again : Bool) : State := { ported with links := [(128, { seq := 3, fails := n, again := again })] }

/-- The premises of FabricEvents for a flit: a good one, a first failure, the retraining, and the link taken down; links that come up. -/
theorem test_hyp_links :
    let bad := mkFlit 3 0 0 9 ^^^ 1
    let d : State := { base with regs := { base.regs with fpctl := [(0, 3)] } }
    flitOk (mkFlit 3 0 0 9) = true ∧ flitOk bad = false ∧ linkAlive ported (.fab 0) = true ∧ (replayOf ported (.fab 0) 3).fails = 0 ∧
    goesTo (exec (.flitCrcFailure (.fab 0) { seq := 3, bits := bad }) ported) (fun t => decide (t.links = [(128, { seq := 3, fails := 1, again := false })])) = true ∧
    goesTo (exec (.flitCrcFailure (.fab 0) { seq := 3, bits := bad }) (failing 7 false)) (fun t => tget t.regs.fpctl 0 0 == 0x10101) = true ∧
    goesTo (exec (.flitCrcFailure (.fab 0) { seq := 3, bits := bad }) (failing 7 true)) (fun t => !portUp t 0) = true ∧
    goesTo (takeTurn (.linkReset (.mem 3)) { base with nearDown := [3] }) (fun t => t.nearDown.isEmpty) = true ∧
    goesTo (takeTurn (.linkReset (.cxl 3)) { base with farDown := [3] }) (fun t => t.farDown.isEmpty) = true ∧
    dbit (tget d.regs.fpctl 0 0) 0 = true ∧ dbit (tget d.regs.fpctl 0 0) 8 = false ∧ 0 ∉ d.fabDown ∧ portOff d 0 = false ∧
    goesTo (exec (.linkUp 0) d) (fun t => portUp t 0) = true := by decide +kernel

/-- A Riffle record at 0x400000 with BMAX 0, epoch 4 and FOLD set, and its snapshot's cells at 0x410000; the store holds this request. -/
def foldable (r : List FoldReq) : State :=
  let s := { ported with mem := memPutNat (memPutNat (memPutNat base.mem 0x400008 8 0x410000) 0x400018 8 (2 ^ 20)) 0x400030 8 4 }
  modDie s 4 (fun d => { d with folds := r })

/-- A request of device 9 for the fold of epoch ep, with seeds, at a stage of its service. -/
def foldReq (ep : Nat) (z : List Dword) (sv : Option (Nat × List (BitVec 128) × Nat)) : FoldReq :=
  { port := 0, dev := 9, addr := 0x400000, epoch := ep, b := 0, seeds := z, serve := sv }

/-- The answer to a fold request. -/
def isFolded (code n : Nat) : OutMsg → Bool
  | .packet 1 p => (match p.body with
    | .folded c l => decide (c = code ∧ l.length = n)
    | _ => false)
  | _ => false

/-- The machine has sent this answer. -/
def folded (s : State) (code n : Nat) : Bool :=
  goesTo (takeTurn (.fold 0) s) (fun t => (die t 4).folds.isEmpty && t.out.length == 1 && t.out.all (isFolded code n))

/-- The premises of FoldService: a request that enters the store, one that finds it full, other seeds, another epoch, the service. -/
theorem test_hyp_fold :
    let z := seedsOf base 0
    let q := foldReq 4 z none
    ported.regs.recovery = false ∧ goesTo (exec (.foldRequest 0 { port := 0, dev := 9 } 0x400000 4 0 z) (foldable [])) (fun t => decide ((die t 4).folds = [q])) = true ∧
    goesTo (exec (.foldRequest 0 { port := 0, dev := 9 } 0x400000 4 0 z) (foldable [q, q, q, q]))
      (fun t => (die t 4).folds.length == 4 && (die t 4).portFolds == [q]) = true ∧
    (let f := modDie (foldable [foldReq 4 z (some (0, [0], 1))]) 4 (fun d => { d with portFolds := [q] })
     goesTo (takeTurn (.fold 0) f) (fun t => (die t 4).folds == [q] && (die t 4).portFolds.isEmpty)) = true ∧
    (let off (s : State) : State := { s with regs := { s.regs with islctl := [(14, 0x100)] } }
     idiePowered (off base) 1 = false ∧ idiePowered base 1 = true ∧
     doesNothing (.foldRequest 1 { port := 0, dev := 9 } 0x400000 4 0 z) (off ported) = true) ∧
    (let lost : State := { foldable [q] with memBad := [0x400000 / 8] }
     physRead lost 0x400000 128 = none ∧
     goesTo (takeTurn (.fold 0) lost) (fun t => match (die t 4).mclog with | [m] => m.code == 8 && m.addr == 0x400000 | _ => false) = true) ∧
    folded (foldable [foldReq 4 [1] none]) 2 0 = true ∧ folded (foldable [foldReq 5 z none]) 1 0 = true ∧
    goesTo (takeTurn (.fold 0) (foldable [q])) (fun t => (die t 4).folds.all (fun r => match r.serve with | some (0, l, n) => decide (l.length = 3) && n == 1 | _ => false)) = true ∧
    goesTo (takeTurn (.fold 0) (foldable [foldReq 4 z (some (0, [0], 2))])) (fun t => (die t 4).folds == [foldReq 4 z (some (0, [0], 1))]) = true ∧
    folded (foldable [foldReq 4 z (some (0, [0], 1))]) 0 1 = true := by decide +kernel

/-- The premises of ScrubResults: the fourth correctable word of a row, with and without a spare row left; uncorrectable ones. -/
theorem test_hyp_scrub :
    let row := (scrubRow (.ls 0 0)).getD 0
    let s (used : Nat) : State := { base with rowHits := [(row, 3)], spares := [(bankOfRow row, used)] }
    let found (p : ScrubAt) (d : Nat) (q : State → Bool) : Bool := goesTo (exec (.patrolScrub p true) base) (fun t => !(die t d).mclog.isEmpty && q t)
    spareRows (bankOfRow row) = 4 ∧ goesTo (exec (.patrolScrub (.ls 0 0) false) (s 3)) (fun t => tget t.spares (bankOfRow row) 0 == 4) = true ∧
    goesTo (exec (.patrolScrub (.ls 0 0) false) (s 4)) (fun t => t.spent.contains (bankOfRow row)) = true ∧
    populated base (8 * 5) = true ∧ external (8 * 5) = false ∧ dieOfPa (8 * 5) = 4 ∧ found (.phys 5) 4 (fun t => t.memBad.contains 5) = true ∧
    found (.opm 0 5) 0 (fun t => (clus t 0).opmBad.contains 5) = true ∧ found (.acc 0 5) 0 (fun t => (clus t 0).accBad.contains 5) = true ∧
    found (.ls 0 5) 0 (fun t => (elem t 0).lsBad.contains 5 && holds (elem t 0).run (fun r => r.mc == some (lsVa 40))) = true := by decide +kernel

/-- The premises of HostEvents: memory and no memory in the window, a mapped queue, no launch, a word to scrub. -/
theorem test_hyp_host :
    let far : State := { base with regs := { base.regs with winbase := dw (2 ^ 50) } }
    populated base (fld base.regs.winbase 51 30 * 2 ^ 30 + 0x40) = true ∧ populated far (fld far.regs.winbase 51 30 * 2 ^ 30 + 0x40) = false ∧
    goesTo (exec (.hostBar2Write 0x40 [7]) base) (fun t => memNat t.mem 0x40 1 == 7) = true ∧
    goesTo (exec (.hostBar2Write 0x40 [7]) far) (fun t => decide (t.mem = far.mem)) = true ∧
    goesTo (exec (.hostBar2Read 0x40 2) base) (fun t => decide (t.out.length = 1)) = true ∧
    (let bad : State := { base with memBad := [8] }
     populated bad 0x40 = true ∧ physRead bad 0x40 2 = none ∧
     goesTo (exec (.hostBar2Read 0x40 2) bad) (fun t => decide (t.out = [.hostRead none]) && !(die t 4).mclog.isEmpty) = true) ∧
    qMapped (hostQueue 0) 0 = true ∧ goesTo (exec (.qdb 0) (hostQueue 0)) (fun t => decide (t.tailSeen = [(0, 1)])) = true ∧
    base.launches = [] ∧ goesTo (exec (.registerWrite 0x108 0) base) (fun t => fld t.regs.qtctl 23 16 == 1) = true ∧
    base.regs.recovery = false ∧ goesTo (exec (.hostBar2Read 0x40 2) { base with regs := { base.regs with recovery := true } }) (fun t => t.out.isEmpty) = true ∧
    goesTo (takeTurn (.barRead 0x10000) (hostQueue 0)) (fun t => decide (t.out = [.barRead 1024])) = true := by decide +kernel

/-- The premises of ManagementEvents: a register that is listed and one that is not, an active launch and none, values in range and out of it. -/
theorem test_hyp_management :
    base.regs.recovery = false ∧ (mgmtRead base 0x10).isSome = true ∧ mgmtRead base 0x281 = none ∧ (launched base 1).launches ≠ [] ∧
    goesTo (exec (.mread 0x10 true) base) (fun t => decide (t.out.length = 1)) = true ∧
    goesTo (exec (.mwrite 0x10 12 true) base) (fun t => t.regs.rpset == 12) = true ∧
    goesTo (exec (.mwrite 0x10 7 true) base) (fun t => t.regs.rpset == base.regs.rpset) = true ∧
    goesTo (exec (.mwrite 0x10 12 true) (launched base 1)) (fun t => t.regs.rpset == base.regs.rpset) = true ∧
    goesTo (exec (.mclear 0x500 true) base) (fun t => (die t 0).tele.isEmpty) = true ∧
    goesTo (exec (.mwrite 0x08 9 true) base) (fun t => t.regs.devnum == 9) = true ∧ goesTo (exec (.mwrite 0x28 31 true) base) (fun t => t.regs.ageq == 20) = true ∧
    goesTo (exec (.mwrite 0x28 32 true) base) (fun t => t.regs.ageq == base.regs.ageq) = true ∧
    (cleanBoot.supImg).isSome = true ∧ base.launches = [] ∧ goesTo (exec (.capabilityRefresh cleanBoot) base) (fun t => t.launches.isEmpty) = true ∧
    goesTo (exec (.measurementRequest 3 5) base) (fun t => decide (t.regs.meas.length ≤ 8)) = true ∧
    doesNothing (.measurementRequest 3 5) { base with regs := { base.regs with recovery := true } } = true ∧
    doesNothing (.capabilityRefresh cleanBoot) { base with regs := { base.regs with recovery := true } } = true := by decide +kernel



end Sys2Proof.Tests
end

/-! PROOF. The encodings of chapter 03 (O1, O2, O3, O5). A format of R62 is characterised by the slices of its word, in the decoder's own
names; the decoder is sound group by group, and it reads from every instruction's word that instruction. A command word is a sum of fields
at rising places, which are read off one by one. -/

namespace Sys2Proof.Encodings
open Sys2Proof.Machine

/-! ## Slices of a number -/

theorem bits_lt (n lo len : Nat) : bits n lo len < 2 ^ len := Nat.mod_lt _ (Nat.two_pow_pos len)

/-- A slice is its low part and, above it, the rest. -/
theorem bits_append (n lo p q : Nat) : bits n lo (p + q) = bits n lo p + 2 ^ p * bits n (lo + p) q := by
  simp only [bits, pow_add, Nat.mod_mul, Nat.div_div_eq_div_mul]

theorem fieldAt_toNat (n lo len : Nat) : (fieldAt n lo len).toNat = bits n lo len := by simp [fieldAt, bits]

theorem fieldAt_eq_ofNat (n lo len : Nat) : fieldAt n lo len = BitVec.ofNat len (bits n lo len) := by
  rw [← BitVec.toNat_inj, fieldAt_toNat, BitVec.toNat_ofNat, Nat.mod_eq_of_lt (bits_lt ..)]

theorem fieldAt_eq_iff {n lo len : Nat} {x : BitVec len} : fieldAt n lo len = x ↔ bits n lo len = x.toNat := by
  rw [← BitVec.toNat_inj, fieldAt_toNat]

theorem z_iff {n lo len : Nat} : Decode.z n lo len = true ↔ bits n lo len = 0 := by simp [Decode.z]

theorem z_iff_fieldAt {n lo len : Nat} : Decode.z n lo len = true ↔ fieldAt n lo len = 0 := by
  rw [z_iff, fieldAt_eq_iff]; rfl

theorem z_append {n lo p q : Nat} : Decode.z n lo (p + q) = true ↔ Decode.z n lo p = true ∧ Decode.z n (lo + p) q = true := by
  simp [z_iff, bits_append]

theorem bitAt_eq_iff {n i : Nat} {v : Bool} : bitAt n i = v ↔ bits n i 1 = bitVal v := by
  have := Nat.mod_two_eq_zero_or_one (n / 2 ^ i)
  cases v <;> simp [bitAt, bits, bitVal]

theorem bitVal_lt (v : Bool) : bitVal v < 2 := by cases v <;> decide

/-- Two parts of a slice are known where the slice is. -/
theorem bits_append_eq_iff {n lo p q u v : Nat} (hu : u < 2 ^ p) :
    bits n lo (p + q) = u + 2 ^ p * v ↔ bits n lo p = u ∧ bits n (lo + p) q = v := by
  have hp := Nat.two_pow_pos p
  rw [bits_append]
  constructor
  · intro h
    have hm := congrArg (· % 2 ^ p) h
    simp only [Nat.add_mul_mod_self_left, Nat.mod_eq_of_lt hu, Nat.mod_eq_of_lt (bits_lt n lo p)] at hm
    exact ⟨hm, Nat.eq_of_mul_eq_mul_left hp (by omega)⟩
  · rintro ⟨rfl, rfl⟩
    rfl

/-- A value that needs only the low part of a slice: the bits above it are zero. -/
theorem bits_eq_low_iff {n lo len v : Nat} (p q : Nat) (hlen : p + q = len) (hv : v < 2 ^ p) :
    bits n lo len = v ↔ bits n lo p = v ∧ Decode.z n (lo + p) q = true := by
  rw [z_iff, ← bits_append_eq_iff hv, hlen, Nat.mul_zero, Nat.add_zero]

theorem w5_eq_iff {n lo v : Nat} (hv : v < 32) : fieldAt n lo 5 = Encode.w5 v ↔ bits n lo 5 = v := by
  rw [fieldAt_eq_iff, Encode.w5, BitVec.toNat_ofNat, Nat.mod_eq_of_lt hv]

/-- A narrower value in a five-bit field. -/
theorem narrow_iff {n lo : Nat} (p q : Nat) (hlen : p + q = 5) {x : BitVec p} :
    fieldAt n lo 5 = Encode.w5 x.toNat ↔ fieldAt n lo p = x ∧ Decode.z n (lo + p) q = true := by
  have hx : x.toNat < 2 ^ 5 := x.isLt.trans_le (Nat.pow_le_pow_right (by decide) (by omega))
  rw [w5_eq_iff hx, bits_eq_low_iff p q hlen x.isLt, fieldAt_eq_iff]

/-- A four-bit value and a Boolean above it in a five-bit field: the destination and SAT of FCVT, the source and SAT of VCVT. -/
theorem codeBit_iff {n lo u : Nat} {v : Bool} (hu : u < 16) :
    fieldAt n lo 5 = Encode.w5 (u + bitVal v * 2 ^ 4) ↔ bits n lo 4 = u ∧ bitAt n (lo + 4) = v := by
  have := bitVal_lt v
  rw [w5_eq_iff (by omega), bitAt_eq_iff, Nat.mul_comm, ← bits_append_eq_iff (p := 4) (q := 1) hu]

/-! ## Codes -/

theorem fmtOfCode_eq_some_iff {c : BitVec 4} {f : Fmt} : fmtOfCode c = some f ↔ c = fmtCode f := by
  cases f <;> revert c <;> decide

theorem fc_lt (f : Fmt) : Encode.fc f < 16 := (fmtCode f).isLt

/-- R75: the four bits at a place name a format when they hold its code. -/
theorem fmtOfCode_fieldAt_iff {n lo : Nat} {f : Fmt} : fmtOfCode (fieldAt n lo 4) = some f ↔ bits n lo 4 = Encode.fc f := by
  rw [fmtOfCode_eq_some_iff, fieldAt_eq_iff, Encode.fc]

theorem vFmt_iff {n : Nat} {f : Fmt} : Decode.vFmt n = some f ↔ bits n 4 4 = Encode.fc f := fmtOfCode_fieldAt_iff

/-- R67: the format of an FPU word is the one whose code is in sh. -/
theorem fpFmt_iff {n : Nat} {f : FpFmt} : Decode.fpFmt n = some f ↔ Decode.sh n = Encode.fpCode f := by
  rw [Decode.sh, fieldAt_eq_iff]
  unfold Decode.fpFmt
  split <;> cases f <;> simp_all [Encode.fpCode]

/-- R68: the source type of FCVT is the one whose code is in sh. -/
theorem cvtSrc_iff {n : Nat} {t : CvtSrc} : Decode.cvtSrc n = some t ↔ Decode.sh n = Encode.srcCode t := by
  rw [Decode.sh, fieldAt_eq_iff]
  unfold Decode.cvtSrc
  split <;> cases t <;> simp_all [Encode.srcCode]

/-- R70: the use of an AMO word is the one whose code is in its three lowest bits. -/
theorem amoUse_iff {n : Nat} {u : AmoUse} : Decode.amoUse n = some u ↔ bits n 0 3 = Encode.useCode u := by
  unfold Decode.amoUse
  split <;> cases u <;> simp_all [Encode.useCode]

/-! ## Formats -/

section
variable {w : BitVec 32} {op : Nat} (hop : op < 64)
include hop

/-- The R format (R62). -/
theorem r_word_iff {d a b sh : BitVec 5} {fn : Nat} (hfn : fn < 64) :
    some (Encode.r op d a b sh fn) = some w ↔ bits w.toNat 26 6 = op ∧ bits w.toNat 0 6 = fn ∧ Decode.d w.toNat = d ∧
      Decode.a w.toNat = a ∧ Decode.b w.toNat = b ∧ Decode.sh w.toNat = sh := by
  simp only [Option.some.injEq, Decode.d, Decode.a, Decode.b, Decode.sh, ← BitVec.toNat_inj, fieldAt_toNat, Encode.r, BitVec.toNat_ofNat, bits]
  omega

/-- The I format (R62). -/
theorem i_word_iff {d a : Reg} {v : Nat} (hv : v < 2 ^ 16) :
    some (Encode.i op d a v) = some w ↔ bits w.toNat 26 6 = op ∧ Decode.d w.toNat = d ∧ Decode.a w.toNat = a ∧ bits w.toNat 0 16 = v := by
  simp only [Option.some.injEq, Decode.d, Decode.a, ← BitVec.toNat_inj, fieldAt_toNat, Encode.i, BitVec.toNat_ofNat, bits]
  omega

/-- The M format (R62). -/
theorem mm_word_iff {d x : Reg} {bf : BitVec 4} {disp : BitVec 12} :
    some (Encode.mm op d bf x disp) = some w ↔ bits w.toNat 26 6 = op ∧ Decode.d w.toNat = d ∧ Decode.bf w.toNat = bf ∧
      Decode.x w.toNat = x ∧ Decode.disp12 w.toNat = disp := by
  simp only [Option.some.injEq, Decode.d, Decode.bf, Decode.x, Decode.disp12, ← BitVec.toNat_inj, fieldAt_toNat, Encode.mm, BitVec.toNat_ofNat, bits]
  omega

/-- The B format (R62): its registers a and b stand where d and a stand elsewhere. -/
theorem br_word_iff {a b : Reg} {v : Bool} {disp : BitVec 15} :
    some (Encode.br op a b v disp) = some w ↔ bits w.toNat 26 6 = op ∧ Decode.d w.toNat = a ∧ Decode.a w.toNat = b ∧
      bitAt w.toNat 15 = v ∧ Decode.disp15 w.toNat = disp := by
  have := bitVal_lt v
  simp only [Option.some.injEq, Decode.d, Decode.a, bitAt_eq_iff, Decode.disp15, ← BitVec.toNat_inj, fieldAt_toNat, Encode.br, BitVec.toNat_ofNat, bits]
  omega

/-- The J format (R62). -/
theorem j_word_iff {disp : BitVec 25} :
    some (BitVec.ofNat 32 (op * 2 ^ 26 + disp.toNat)) = some w ↔ bits w.toNat 26 6 = op ∧ Decode.z w.toNat 25 1 = true ∧
      Decode.disp25 w.toNat = disp := by
  simp only [Option.some.injEq, z_iff, Decode.disp25, ← BitVec.toNat_inj, fieldAt_toNat, BitVec.toNat_ofNat, bits]
  omega

/-- The S format (R62). -/
theorem s_word_iff {d a b : BitVec 5} {sub k : Nat} (hsub : sub < 64) (hk : k < 32) :
    some (Encode.s op d a b sub k) = some w ↔ bits w.toNat 26 6 = op ∧ bits w.toNat 5 6 = sub ∧ Decode.d w.toNat = d ∧
      Decode.a w.toNat = a ∧ Decode.b w.toNat = b ∧ bits w.toNat 0 5 = k := by
  simp only [Option.some.injEq, Decode.d, Decode.a, Decode.b, ← BitVec.toNat_inj, fieldAt_toNat, Encode.s, BitVec.toNat_ofNat, bits]
  omega

/-- The V format (R62). -/
theorem v_word_iff {d a b : BitVec 5} {m : BitVec 3} {f fn : Nat} (hf : f < 16) (hfn : fn < 16) :
    some (Encode.v op d a b m f fn) = some w ↔ bits w.toNat 26 6 = op ∧ bits w.toNat 0 4 = fn ∧ Decode.d w.toNat = d ∧
      Decode.a w.toNat = a ∧ Decode.b w.toNat = b ∧ Decode.m w.toNat = m ∧ bits w.toNat 4 4 = f := by
  simp only [Option.some.injEq, Decode.d, Decode.a, Decode.b, Decode.m, ← BitVec.toNat_inj, fieldAt_toNat, Encode.v, BitVec.toNat_ofNat, bits]
  omega
end

theorem useCode_lt (u : AmoUse) : Encode.useCode u < 8 := by cases u <;> decide

/-- The A format (R62). -/
theorem am_word_iff {w : BitVec 32} {d x b : Reg} {bf : BitVec 4} {aop : Nat} {u : AmoUse} (haop : aop < 16) :
    some (Encode.am d bf x b aop u) = some w ↔ bits w.toNat 26 6 = 0x1e ∧ bits w.toNat 3 4 = aop ∧ Decode.d w.toNat = d ∧
      Decode.bf w.toNat = bf ∧ Decode.x w.toNat = x ∧ Decode.amoB w.toNat = b ∧ Decode.amoUse w.toNat = some u := by
  have := useCode_lt u
  simp only [Option.some.injEq, Decode.d, Decode.bf, Decode.x, Decode.amoB, amoUse_iff, ← BitVec.toNat_inj, fieldAt_toNat, Encode.am, BitVec.toNat_ofNat, bits]
  omega

/-! ## Reserved slices, by the fields that they cover -/

section
variable {n : Nat}

@[simp] theorem z_d : Decode.z n 21 5 = true ↔ Decode.d n = 0 := z_iff_fieldAt
@[simp] theorem z_a : Decode.z n 16 5 = true ↔ Decode.a n = 0 := z_iff_fieldAt
@[simp] theorem z_b : Decode.z n 11 5 = true ↔ Decode.b n = 0 := z_iff_fieldAt
@[simp] theorem z_sh : Decode.z n 6 5 = true ↔ Decode.sh n = 0 := z_iff_fieldAt
@[simp] theorem z_m : Decode.z n 8 3 = true ↔ Decode.m n = 0 := z_iff_fieldAt
@[simp] theorem z_amoB : Decode.z n 7 5 = true ↔ Decode.amoB n = 0 := z_iff_fieldAt
@[simp] theorem z_k : Decode.z n 0 5 = true ↔ bits n 0 5 = 0 := z_iff
@[simp] theorem z_f : Decode.z n 4 4 = true ↔ bits n 4 4 = 0 := z_iff
@[simp] theorem z_sh_b : Decode.z n 6 10 = true ↔ Decode.sh n = 0 ∧ Decode.b n = 0 :=
  (z_append (p := 5) (q := 5)).trans (and_congr z_sh z_b)
@[simp] theorem z_b_a : Decode.z n 11 10 = true ↔ Decode.b n = 0 ∧ Decode.a n = 0 :=
  (z_append (p := 5) (q := 5)).trans (and_congr z_b z_a)
@[simp] theorem z_b_a_d : Decode.z n 11 15 = true ↔ (Decode.b n = 0 ∧ Decode.a n = 0) ∧ Decode.d n = 0 :=
  (z_append (p := 10) (q := 5)).trans (and_congr z_b_a z_d)
@[simp] theorem z_f_m : Decode.z n 4 7 = true ↔ bits n 4 4 = 0 ∧ Decode.m n = 0 :=
  (z_append (p := 4) (q := 3)).trans (and_congr z_f z_m)
@[simp] theorem z_f_m_b : Decode.z n 4 12 = true ↔ (bits n 4 4 = 0 ∧ Decode.m n = 0) ∧ Decode.b n = 0 :=
  (z_append (p := 7) (q := 5)).trans (and_congr z_f_m z_b)
@[simp] theorem z_f_m_b_a : Decode.z n 4 17 = true ↔ ((bits n 4 4 = 0 ∧ Decode.m n = 0) ∧ Decode.b n = 0) ∧ Decode.a n = 0 :=
  (z_append (p := 12) (q := 5)).trans (and_congr z_f_m_b z_a)
@[simp] theorem z_f_m_b_a_d : Decode.z n 4 22 = true ↔
    (((bits n 4 4 = 0 ∧ Decode.m n = 0) ∧ Decode.b n = 0) ∧ Decode.a n = 0) ∧ Decode.d n = 0 :=
  (z_append (p := 17) (q := 5)).trans (and_congr z_f_m_b_a z_d)

/-! ## Fields that hold part of a register's place, or more than one -/

theorem d_narrow_iff {x : BitVec 3} : Decode.d n = Encode.w5 x.toNat ↔ fieldAt n 21 3 = x ∧ Decode.z n 24 2 = true := narrow_iff 3 2 rfl
theorem a_narrow3_iff {x : BitVec 3} : Decode.a n = Encode.w5 x.toNat ↔ fieldAt n 16 3 = x ∧ Decode.z n 19 2 = true := narrow_iff 3 2 rfl
theorem b_narrow_iff {x : BitVec 3} : Decode.b n = Encode.w5 x.toNat ↔ fieldAt n 11 3 = x ∧ Decode.z n 14 2 = true := narrow_iff 3 2 rfl
theorem a_narrow4_iff {x : BitVec 4} : Decode.a n = Encode.w5 x.toNat ↔ fieldAt n 16 4 = x ∧ Decode.z n 20 1 = true := narrow_iff 4 1 rfl

theorem k_eq (n : Nat) : Decode.k n = BitVec.ofNat 5 (bits n 0 5) := fieldAt_eq_ofNat ..

theorem k_iff {x : BitVec 5} : bits n 0 5 = x.toNat ↔ Decode.k n = x := fieldAt_eq_iff.symm
theorem m_iff {v : Nat} (hv : v < 8) : Decode.m n = BitVec.ofNat 3 v ↔ bits n 8 3 = v := by
  rw [Decode.m, fieldAt_eq_iff, BitVec.toNat_ofNat, Nat.mod_eq_of_lt hv]
theorem imm_iff {x : BitVec 16} : bits n 0 16 = x.toNat ↔ Decode.imm n = x := fieldAt_eq_iff.symm

/-- R68, R74: a format and SAT in the field b. -/
theorem fmtSat_iff {f : Fmt} {v : Bool} :
    Decode.b n = Encode.w5 (Encode.fc f + bitVal v * 2 ^ 4) ↔ fmtOfCode (fieldAt n 11 4) = some f ∧ bitAt n 15 = v :=
  (codeBit_iff (fc_lt f)).trans (and_congr_left' fmtOfCode_fieldAt_iff.symm)

/-- A Boolean alone in the field k. -/
theorem kBit_iff {v : Bool} : bits n 0 5 = bitVal v ↔ bitAt n 0 = v ∧ Decode.z n 1 4 = true := by
  rw [bitAt_eq_iff, bits_eq_low_iff 1 4 rfl (bitVal_lt v)]

/-- R73: the CSR number is b:k. -/
theorem csr_iff {c : BitVec 10} :
    Decode.b n = Encode.w5 (c.toNat / 32) ∧ bits n 0 5 = c.toNat % 32 ↔ BitVec.ofNat 10 (bits n 11 5 * 32 + bits n 0 5) = c := by
  have := c.isLt
  have := bits_lt n 11 5
  have := bits_lt n 0 5
  rw [Decode.b, w5_eq_iff (by omega), ← BitVec.toNat_inj, BitVec.toNat_ofNat]
  omega

/-- R130: the counter number is b[2:0]:k. -/
theorem sc_iff {c : BitVec 8} :
    Decode.b n = Encode.w5 (c.toNat / 32) ∧ bits n 0 5 = c.toNat % 32 ↔ Decode.sc n = c ∧ Decode.z n 14 2 = true := by
  have := c.isLt
  have := bits_lt n 11 3
  have := bits_lt n 0 5
  rw [Decode.b, w5_eq_iff (by omega), bits_eq_low_iff 3 2 rfl (by omega), z_iff, Decode.sc, ← BitVec.toNat_inj, BitVec.toNat_ofNat]
  omega

/-- R66: the immediate of SHI: eight reserved bits, the selector and the amount. -/
theorem shi_iff {amt : BitVec 6} {k : Nat} (hk : k < 4) :
    bits n 0 16 = k * 2 ^ 6 + amt.toNat ↔ bits n 6 2 = k ∧ fieldAt n 0 6 = amt ∧ Decode.z n 8 8 = true := by
  rw [bits_eq_low_iff 8 8 rfl (by omega), Nat.add_comm, Nat.mul_comm, bits_append_eq_iff (p := 6) (q := 2) amt.isLt, fieldAt_eq_iff,
    and_assoc, and_left_comm]

/-- R66: the scope of FENCE, below 24 reserved bits. -/
theorem fence_iff {scope : BitVec 2} :
    Decode.d n = 0 ∧ Decode.a n = 0 ∧ bits n 0 16 = scope.toNat ↔ fieldAt n 0 2 = scope ∧ Decode.z n 2 24 = true := by
  have h24 : Decode.z n 2 24 = true ↔ (Decode.z n 2 14 = true ∧ Decode.z n 16 5 = true) ∧ Decode.z n 21 5 = true := by
    rw [← z_append, ← z_append]
  rw [h24, z_a, z_d, bits_eq_low_iff 2 14 rfl scope.isLt, fieldAt_eq_iff]
  tauto
end

/-! ## What the decoder accepts -/

/-- An answer of the decoder to a word is sound: an instruction that it gives is well-formed and has that word. -/
def Sound (w : BitVec 32) (o : Except DecodeError Instr) : Prop := ∀ i, o = .ok i → i.wf = true ∧ encodeWord i = some w

theorem sound_error {w : BitVec 32} {e : DecodeError} : Sound w (.error e) := by rintro i ⟨⟩

theorem sound_chk {w : BitVec 32} {rsv : Bool} {i : Instr} (h : rsv = true → encodeWord i = some w) : Sound w (Decode.chk rsv i) := by
  unfold Decode.chk
  split
  next hr =>
    split
    next hwf => rintro _ ⟨⟩; exact ⟨hwf, h hr⟩
    next => exact sound_error
  next => exact sound_error

theorem sound_need {w : BitVec 32} {α : Type} {o : Option α} {e : DecodeError} {k : α → Except DecodeError Instr}
    (h : ∀ v, o = some v → Sound w (k v)) : Sound w (Decode.need o e k) := by
  cases o with
  | some v => exact h v rfl
  | none => exact sound_error

section
variable {w : BitVec 32}

theorem int_sound (hop : bits w.toNat 26 6 = 0x00) : Sound w (Decode.int w.toNat) := by
  unfold Decode.int
  split
  case h_31 => exact sound_error
  all_goals
    refine sound_chk fun hz => (r_word_iff (by decide) (by decide)).2 ?_
    simp_all

theorem shi_sound (hop : bits w.toNat 26 6 = 0x08) : Sound w (Decode.shi w.toNat) := by
  unfold Decode.shi
  split
  case h_4 => exact sound_error
  all_goals
    rename_i hsel
    exact sound_chk fun hz => (i_word_iff (by decide) (by omega)).2 ⟨hop, rfl, rfl, (shi_iff (by decide)).2 ⟨hsel, rfl, hz⟩⟩

theorem fpu_sound (hop : bits w.toNat 26 6 = 0x0a) : Sound w (Decode.fpu w.toNat) := by
  unfold Decode.fpu
  split
  case h_16 => exact sound_error
  case h_15 hfn =>
    refine sound_need fun t ht => sound_need fun f hf => sound_chk fun _ =>
      (r_word_iff (by decide) (by decide)).2 ⟨hop, hfn, rfl, rfl, fmtSat_iff.2 ⟨hf, rfl⟩, cvtSrc_iff.1 ht⟩
  all_goals
    refine sound_need fun f hf => sound_chk fun hz => (r_word_iff (by decide) (by decide)).2 ?_
    simp_all [fpFmt_iff]

theorem amo_sound (hop : bits w.toNat 26 6 = 0x1e) : Sound w (Decode.amo w.toNat) := by
  unfold Decode.amo
  split
  case h_13 => exact sound_error
  all_goals
    refine sound_need fun u hu => sound_chk fun hz => (am_word_iff (by decide)).2 ?_
    simp_all

theorem sys_sound (hop : bits w.toNat 26 6 = 0x30) : Sound w (Decode.sys w.toNat) := by
  unfold Decode.sys
  split
  case h_13 => exact sound_error
  all_goals
    refine sound_chk fun hz => (s_word_iff (by decide) (by decide) (by omega)).2 ?_
    simp_all [k_iff, csr_iff, -BitVec.toNat_ofNat]

theorem task_sound (hop : bits w.toNat 26 6 = 0x31) : Sound w (Decode.task w.toNat) := by
  have := bitVal_lt (bitAt w.toNat 0)
  unfold Decode.task
  split
  case h_10 => exact sound_error
  all_goals
    refine sound_chk fun hz => (s_word_iff (by decide) (by decide) (by omega)).2 ?_
    simp_all [k_iff, kBit_iff]

theorem sync_sound (hop : bits w.toNat 26 6 = 0x32) : Sound w (Decode.sync w.toNat) := by
  unfold Decode.sync
  split
  case h_8 => exact sound_error
  all_goals
    refine sound_chk fun hz => (s_word_iff (by decide) (by decide) (by omega)).2 ?_
    simp_all [k_iff, sc_iff]

theorem engine_sound (hop : bits w.toNat 26 6 = 0x33) : Sound w (Decode.engine w.toNat) := by
  unfold Decode.engine
  split
  case h_8 => exact sound_error
  all_goals
    refine sound_chk fun hz => (s_word_iff (by decide) (by decide) (by omega)).2 ?_
    simp_all [k_iff]

theorem cflow_sound (hop : bits w.toNat 26 6 = 0x34) : Sound w (Decode.cflow w.toNat) := by
  unfold Decode.cflow
  split
  case h_10 => exact sound_error
  all_goals
    refine sound_chk fun hz => (s_word_iff (by decide) (by decide) (by omega)).2 ?_
    simp_all [k_iff]

theorem group_sound (hop : bits w.toNat 26 6 = 0x35) : Sound w (Decode.group w.toNat) := by
  unfold Decode.group
  split
  case h_6 => exact sound_error
  all_goals
    refine sound_chk fun hz => (s_word_iff (by decide) (by decide) (by omega)).2 ?_
    simp_all [k_iff]

theorem route_sound (hop : bits w.toNat 26 6 = 0x36) : Sound w (Decode.route w.toNat) := by
  have := bitVal_lt (bitAt w.toNat 0)
  unfold Decode.route
  split
  case h_4 => exact sound_error
  all_goals
    refine sound_chk fun hz => (s_word_iff (by decide) (by decide) (by omega)).2 ?_
    simp_all [kBit_iff]

theorem kv_sound (hop : bits w.toNat 26 6 = 0x37) : Sound w (Decode.kv w.toNat) := by
  unfold Decode.kv
  split
  case h_6 => exact sound_error
  all_goals
    refine sound_chk fun hz => (s_word_iff (by decide) (by decide) (by omega)).2 ?_
    simp_all

theorem vmlogic_sound (hop : bits w.toNat 26 6 = 0x38) (hfn : bits w.toNat 0 4 = 3) : Sound w (Decode.vmlogic w.toNat) := by
  unfold Decode.vmlogic
  split
  case h_9 => exact sound_error
  all_goals
    refine sound_chk fun hz => (v_word_iff (by decide) (by decide) (by decide)).2 ?_
    simp_all [d_narrow_iff, a_narrow3_iff, b_narrow_iff, m_iff]

theorem vctl_sound (hop : bits w.toNat 26 6 = 0x38) : Sound w (Decode.vctl w.toNat) := by
  unfold Decode.vctl
  split
  case h_7 => exact sound_error
  case h_4 hfn => exact vmlogic_sound hop hfn
  case h_6 =>
    refine sound_need fun f hf => sound_chk fun hz => (v_word_iff (by decide) (fc_lt f) (by decide)).2 ?_
    simp_all [vFmt_iff]
  all_goals
    refine sound_chk fun hz => (v_word_iff (by decide) (by decide) (by decide)).2 ?_
    simp_all [a_narrow3_iff]

theorem vls_sound (hop : bits w.toNat 26 6 = 0x39) : Sound w (Decode.vls w.toNat) := by
  unfold Decode.vls
  split
  case h_10 => exact sound_error
  all_goals
    refine sound_need fun f hf => sound_chk fun hz => (v_word_iff (by decide) (fc_lt f) (by decide)).2 ?_
    simp_all [vFmt_iff, a_narrow4_iff]

theorem varith_sound (hop : bits w.toNat 26 6 = 0x3a) : Sound w (Decode.varith w.toNat) := by
  unfold Decode.varith
  split
  case h_17 => exact sound_error
  all_goals
    refine sound_need fun f hf => sound_chk fun hz => (v_word_iff (by decide) (fc_lt f) (by decide)).2 ?_
    simp_all [vFmt_iff, d_narrow_iff]

theorem vsfu_sound (hop : bits w.toNat 26 6 = 0x3b) : Sound w (Decode.vsfu w.toNat) := by
  unfold Decode.vsfu
  split
  case h_6 => exact sound_error
  all_goals
    refine sound_need fun f hf => sound_chk fun hz => (v_word_iff (by decide) (fc_lt f) (by decide)).2 ?_
    simp_all [vFmt_iff]

theorem vcvt_sound (hop : bits w.toNat 26 6 = 0x3c) : Sound w (Decode.vcvt w.toNat) := by
  unfold Decode.vcvt
  split
  case h_5 => exact sound_error
  case h_1 hfn =>
    refine sound_need fun t ht => sound_need fun f hf => sound_chk fun _ =>
      (v_word_iff (by decide) (fc_lt f) (by decide)).2 ⟨hop, hfn, rfl, rfl, fmtSat_iff.2 ⟨ht, rfl⟩, rfl, vFmt_iff.1 hf⟩
  all_goals
    refine sound_need fun f hf => sound_chk fun hz => (v_word_iff (by decide) (fc_lt f) (by decide)).2 ?_
    simp_all [vFmt_iff]

theorem vred_sound (hop : bits w.toNat 26 6 = 0x3d) : Sound w (Decode.vred w.toNat) := by
  unfold Decode.vred
  split
  case h_10 => exact sound_error
  case h_8 | h_9 =>
    refine sound_chk fun hz => (v_word_iff (by decide) (by decide) (by decide)).2 ?_
    simp_all
  all_goals
    refine sound_need fun f hf => sound_chk fun hz => (v_word_iff (by decide) (fc_lt f) (by decide)).2 ?_
    simp_all [vFmt_iff]

/-- The decoder is sound: every word that it accepts is the word of the instruction that it reads. -/
theorem word_sound : Sound w (Decode.word w.toNat) := by
  unfold Decode.word
  split
  case h_52 => exact sound_error
  case h_1 hop => exact int_sound hop
  case h_11 hop => exact shi_sound hop
  case h_12 hop => exact fpu_sound hop
  case h_26 hop => exact amo_sound hop
  case h_38 hop => exact sys_sound hop
  case h_39 hop => exact task_sound hop
  case h_40 hop => exact sync_sound hop
  case h_41 hop => exact engine_sound hop
  case h_42 hop => exact cflow_sound hop
  case h_43 hop => exact group_sound hop
  case h_44 hop => exact route_sound hop
  case h_45 hop => exact kv_sound hop
  case h_46 hop => exact vctl_sound hop
  case h_47 hop => exact vls_sound hop
  case h_48 hop => exact varith_sound hop
  case h_49 hop => exact vsfu_sound hop
  case h_50 hop => exact vcvt_sound hop
  case h_51 hop => exact vred_sound hop
  case h_27 hop =>
    exact sound_chk fun hz => (i_word_iff (by decide) (by omega)).2 ⟨hop, fence_iff.2 ⟨rfl, hz⟩⟩
  case h_34 | h_35 =>
    refine sound_chk fun hz => (j_word_iff (by decide)).2 ?_
    simp_all
  case h_13 | h_14 | h_15 | h_16 | h_17 | h_18 | h_19 | h_20 | h_21 | h_22 | h_23 | h_24 | h_25 =>
    refine sound_chk fun _ => (mm_word_iff (by decide)).2 ?_
    simp_all
  case h_28 | h_29 | h_30 | h_31 | h_32 | h_33 =>
    refine sound_chk fun _ => (br_word_iff (by decide)).2 ?_
    simp_all
  all_goals
    refine sound_chk fun hz => (i_word_iff (by decide) (by omega)).2 ?_
    simp_all [imm_iff]

end

/-! ## What the decoder reads from an instruction's word

The major opcode selects the group (R64). -/

theorem word_int {n : Nat} (hop : bits n 26 6 = 0x00) : Decode.word n = Decode.int n := by simp only [Decode.word, hop]
theorem word_shi {n : Nat} (hop : bits n 26 6 = 0x08) : Decode.word n = Decode.shi n := by simp only [Decode.word, hop]
theorem word_fpu {n : Nat} (hop : bits n 26 6 = 0x0a) : Decode.word n = Decode.fpu n := by simp only [Decode.word, hop]
theorem word_amo {n : Nat} (hop : bits n 26 6 = 0x1e) : Decode.word n = Decode.amo n := by simp only [Decode.word, hop]
theorem word_sys {n : Nat} (hop : bits n 26 6 = 0x30) : Decode.word n = Decode.sys n := by simp only [Decode.word, hop]
theorem word_task {n : Nat} (hop : bits n 26 6 = 0x31) : Decode.word n = Decode.task n := by simp only [Decode.word, hop]
theorem word_sync {n : Nat} (hop : bits n 26 6 = 0x32) : Decode.word n = Decode.sync n := by simp only [Decode.word, hop]
theorem word_engine {n : Nat} (hop : bits n 26 6 = 0x33) : Decode.word n = Decode.engine n := by simp only [Decode.word, hop]
theorem word_cflow {n : Nat} (hop : bits n 26 6 = 0x34) : Decode.word n = Decode.cflow n := by simp only [Decode.word, hop]
theorem word_group {n : Nat} (hop : bits n 26 6 = 0x35) : Decode.word n = Decode.group n := by simp only [Decode.word, hop]
theorem word_route {n : Nat} (hop : bits n 26 6 = 0x36) : Decode.word n = Decode.route n := by simp only [Decode.word, hop]
theorem word_kv {n : Nat} (hop : bits n 26 6 = 0x37) : Decode.word n = Decode.kv n := by simp only [Decode.word, hop]
theorem word_vctl {n : Nat} (hop : bits n 26 6 = 0x38) : Decode.word n = Decode.vctl n := by simp only [Decode.word, hop]
theorem word_vls {n : Nat} (hop : bits n 26 6 = 0x39) : Decode.word n = Decode.vls n := by simp only [Decode.word, hop]
theorem word_varith {n : Nat} (hop : bits n 26 6 = 0x3a) : Decode.word n = Decode.varith n := by simp only [Decode.word, hop]
theorem word_vsfu {n : Nat} (hop : bits n 26 6 = 0x3b) : Decode.word n = Decode.vsfu n := by simp only [Decode.word, hop]
theorem word_vcvt {n : Nat} (hop : bits n 26 6 = 0x3c) : Decode.word n = Decode.vcvt n := by simp only [Decode.word, hop]
theorem word_vred {n : Nat} (hop : bits n 26 6 = 0x3d) : Decode.word n = Decode.vred n := by simp only [Decode.word, hop]

/-- An instruction's word decodes to it, but for the limits of its fields: field by field, the word holds what the encoder has put there. -/
theorem word_encode {w : BitVec 32} {i : Instr} (h : encodeWord i = some w) : Decode.word w.toNat = Decode.chk true i := by
  cases i with
  -- the R format: INT (R65)
  | add _ _ _ | sub _ _ _ | and _ _ _ | or _ _ _ | xor _ _ _ | andn _ _ _ | sll _ _ _ | srl _ _ _ | sra _ _ _ | slt _ _ _ | sltu _ _ _
  | min _ _ _ | max _ _ _ | minu _ _ _ | maxu _ _ _ | mul _ _ _ | mulh _ _ _ | mulhu _ _ _ | div _ _ _ | divu _ _ _ | rem _ _ _
  | remu _ _ _ | cmovz _ _ _ | cmovnz _ _ _ | clz _ _ | ctz _ _ | popc _ _ | lea _ _ _ _ | exts _ _ _ | extz _ _ _ =>
    obtain ⟨hop, hfn, hd, ha, hb, hsh⟩ := (r_word_iff (by decide) (by decide)).1 h
    simp [word_int hop, Decode.int, hfn, Decode.chk, hd, ha, hb, hsh]
  -- the R format: FPU (R67, R68)
  | fadd _ _ _ _ | fsub _ _ _ _ | fmul _ _ _ _ | ffma _ _ _ _ | fdiv _ _ _ _ | fmin _ _ _ _ | fmax _ _ _ _ | fcmpeq _ _ _ _
  | fcmplt _ _ _ _ | fcmple _ _ _ _ | fsqrt _ _ _ | fclass _ _ _ | fneg _ _ _ | fabs _ _ _ =>
    obtain ⟨hop, hfn, hd, ha, hb, hsh⟩ := (r_word_iff (by decide) (by decide)).1 h
    simp [word_fpu hop, Decode.fpu, hfn, Decode.need, fpFmt_iff.2 hsh, Decode.chk, hd, ha, hb]
  | fcvt _ _ _ _ _ =>
    obtain ⟨hop, hfn, hd, ha, hb, hsh⟩ := (r_word_iff (by decide) (by decide)).1 h
    obtain ⟨hdst, hsat⟩ := fmtSat_iff.1 hb
    simp [word_fpu hop, Decode.fpu, hfn, Decode.need, cvtSrc_iff.2 hsh, hdst, hsat, hd, ha]
  -- the I format (R66)
  | addi _ _ _ | andi _ _ _ | ori _ _ _ | xori _ _ _ | slti _ _ _ | sltiu _ _ _ | orih _ _ _ | orit _ _ _ | jalr _ _ _ | lui _ _
  | jr _ _ =>
    obtain ⟨hop, hd, ha, hv⟩ := (i_word_iff (by decide) (by omega)).1 h
    simp [Decode.word, hop, Decode.chk, hd, ha, imm_iff.1 hv]
  | slli _ _ _ | srli _ _ _ | srai _ _ _ =>
    obtain ⟨hop, hd, ha, hv⟩ := (i_word_iff (by decide) (by omega)).1 h
    obtain ⟨hsel, hamt, hz⟩ := (shi_iff (by decide)).1 hv
    simp [word_shi hop, Decode.shi, hsel, hz, hd, ha, hamt]
  | fence _ =>
    obtain ⟨hop, hf⟩ := (i_word_iff (by decide) (by omega)).1 h
    obtain ⟨hscope, hz⟩ := fence_iff.1 hf
    simp [Decode.word, hop, hz, hscope]
  -- the M, A, B and J formats (R69 to R71)
  | ldb _ _ _ _ | ldbu _ _ _ _ | ldh _ _ _ _ | ldhu _ _ _ _ | ldw _ _ _ _ | ldwu _ _ _ _ | ldd _ _ _ _ | stb _ _ _ _ | sth _ _ _ _
  | stw _ _ _ _ | std _ _ _ _ | ldm _ _ _ _ | stm _ _ _ _ =>
    obtain ⟨hop, hd, hbf, hx, hdisp⟩ := (mm_word_iff (by decide)).1 h
    simp [Decode.word, hop, hd, hbf, hx, hdisp]
  | amoAdd _ _ _ _ _ | amoAnd _ _ _ _ _ | amoOr _ _ _ _ _ | amoXor _ _ _ _ _ | amoMax _ _ _ _ _ | amoMin _ _ _ _ _ | amoMaxu _ _ _ _ _
  | amoMinu _ _ _ _ _ | amoSwap _ _ _ _ _ | amoCas _ _ _ _ _ | amoLoad _ _ _ _ | amoStore _ _ _ _ =>
    obtain ⟨hop, haop, hd, hbf, hx, hb, hu⟩ := (am_word_iff (by decide)).1 h
    simp [word_amo hop, Decode.amo, haop, Decode.need, hu, Decode.chk, hd, hbf, hx, hb]
  | beq _ _ _ _ | bne _ _ _ _ | blt _ _ _ _ | bge _ _ _ _ | bltu _ _ _ _ | bgeu _ _ _ _ =>
    obtain ⟨hop, ha, hb, hn, hdisp⟩ := (br_word_iff (by decide)).1 h
    simp [Decode.word, hop, ha, hb, hn, hdisp]
  | j _ | jal _ =>
    obtain ⟨hop, hz, hdisp⟩ := (j_word_iff (by decide)).1 h
    simp [Decode.word, hop, hz, hdisp]
  -- the S format (R72): a value, or nothing, in k
  | trap _ | tlbinv _ _ _ | bfld _ _ | bfst _ _ | eret | iflush | nop | halt =>
    obtain ⟨hop, hsub, hd, ha, hb, hk⟩ := (s_word_iff (by decide) (by decide) (by omega)).1 h
    simp [word_sys hop, Decode.sys, hsub, Decode.chk, hd, ha, hb, hk, k_eq]
  | send _ _ _ _ | sendm _ _ _ _ | tend | chcfg _ _ | chmask _ | chunmask _ | tsset _ | launch _ _ _ =>
    obtain ⟨hop, hsub, hd, ha, hb, hk⟩ := (s_word_iff (by decide) (by decide) (by omega)).1 h
    simp [word_task hop, Decode.task, hsub, Decode.chk, hd, ha, hb, hk, k_eq]
  | barv _ _ | barcfg _ _ =>
    obtain ⟨hop, hsub, hd, ha, hb, hk⟩ := (s_word_iff (by decide) (by decide) (by omega)).1 h
    simp [word_sync hop, Decode.sync, hsub, Decode.chk, hd, ha, hb, hk, k_eq]
  | enq _ _ _ | jobst _ _ | jobarm _ _ | osclaim _ _ | osfree _ _ | jobresume _ _ | jobcancel _ _ =>
    obtain ⟨hop, hsub, hd, ha, hb, hk⟩ := (s_word_iff (by decide) (by decide) (by omega)).1 h
    simp [word_engine hop, Decode.engine, hsub, Decode.chk, hd, ha, hb, hk, k_eq]
  | cfopen _ _ | cfnext _ _ | cfexpect _ _ | cfpost _ _ | cfread _ _ | cfseal _ _ | exitmark _ _ | cfstat _ _ _ | confx _ _ _ =>
    obtain ⟨hop, hsub, hd, ha, hb, hk⟩ := (s_word_iff (by decide) (by decide) (by omega)).1 h
    simp [word_cflow hop, Decode.cflow, hsub, Decode.chk, hd, ha, hb, hk, k_eq]
  | gstore _ _ _ | gcnt _ _ _ | grdy _ _ | gpull _ _ | gcfg _ _ =>
    obtain ⟨hop, hsub, hd, ha, hb, hk⟩ := (s_word_iff (by decide) (by decide) (by omega)).1 h
    simp [word_group hop, Decode.group, hsub, Decode.chk, hd, ha, hb, hk, k_eq]
  | hsift _ _ _ =>
    obtain ⟨hop, hsub, hd, ha, hb, hk⟩ := (s_word_iff (by decide) (by decide) (by omega)).1 h
    simp [word_route hop, Decode.route, hsub, Decode.chk, hd, ha, hb, hk]
  | kvfork _ _ | kvput _ _ | kvpub _ _ | kvstat _ _ | kvfree _ _ =>
    obtain ⟨hop, hsub, hd, ha, hb, hk⟩ := (s_word_iff (by decide) (by decide) (by omega)).1 h
    simp [word_kv hop, Decode.kv, hsub, Decode.chk, hd, ha, hb, hk]
  -- the S format: a CSR, a counter, a Boolean
  | csrrd _ _ | csrwr _ _ _ | csrset _ _ _ | csrclr _ _ _ =>
    obtain ⟨hop, hsub, hd, ha, hn⟩ := (s_word_iff (by decide) (by decide) (by omega)).1 h
    simp [word_sys hop, Decode.sys, hsub, Decode.chk, hd, ha, csr_iff.1 hn]
  | scread _ _ | scinc _ _ | scmode _ _ | scarm _ _ _ | scexpect _ _ _ =>
    obtain ⟨hop, hsub, hd, ha, hn⟩ := (s_word_iff (by decide) (by decide) (by omega)).1 h
    obtain ⟨hsc, hz⟩ := sc_iff.1 hn
    simp [word_sync hop, Decode.sync, hsub, Decode.chk, hd, ha, hsc, hz]
  | tabort _ =>
    obtain ⟨hop, hsub, hd, ha, hb, hk⟩ := (s_word_iff (by decide) (by decide) ((bitVal_lt _).trans (by decide))).1 h
    obtain ⟨hv, hz⟩ := kBit_iff.1 hk
    simp [word_task hop, Decode.task, hsub, Decode.chk, hd, ha, hb, hv, hz]
  | htopk _ _ _ _ | rcupd _ _ _ =>
    obtain ⟨hop, hsub, hd, ha, hb, hk⟩ := (s_word_iff (by decide) (by decide) ((bitVal_lt _).trans (by decide))).1 h
    obtain ⟨hv, hz⟩ := kBit_iff.1 hk
    simp [word_route hop, Decode.route, hsub, Decode.chk, hd, ha, hb, hv, hz]
  -- the V format (R74)
  | vclaim _ _ _ | vsync _ | vfree =>
    obtain ⟨hop, hfn, hd, ha, hb, hm, hf⟩ := (v_word_iff (by decide) (by decide) (by decide)).1 h
    simp [word_vctl hop, Decode.vctl, hfn, Decode.chk, hd, ha, hb, hm, hf]
  | vmlogicAnd _ _ _ | vmlogicOr _ _ _ | vmlogicXor _ _ _ | vmlogicAndn _ _ _ =>
    obtain ⟨hop, hfn, hd, ha, hb, hm, hf⟩ := (v_word_iff (by decide) (by decide) (by decide)).1 h
    obtain ⟨hmd, hzd⟩ := d_narrow_iff.1 hd
    obtain ⟨hma, hza⟩ := a_narrow3_iff.1 ha
    obtain ⟨hmb, hzb⟩ := b_narrow_iff.1 hb
    simp [word_vctl hop, Decode.vctl, hfn, Decode.vmlogic, (m_iff (by decide)).1 hm, Decode.chk, hf, hmd, hzd, hma, hza, hmb, hzb]
  | vmlogicNot _ _ | vmlogicMov _ _ =>
    obtain ⟨hop, hfn, hd, ha, hb, hm, hf⟩ := (v_word_iff (by decide) (by decide) (by decide)).1 h
    obtain ⟨hmd, hzd⟩ := d_narrow_iff.1 hd
    obtain ⟨hma, hza⟩ := a_narrow3_iff.1 ha
    simp [word_vctl hop, Decode.vctl, hfn, Decode.vmlogic, (m_iff (by decide)).1 hm, Decode.chk, hb, hf, hmd, hzd, hma, hza]
  | vmlogicSet _ | vmlogicClr _ =>
    obtain ⟨hop, hfn, hd, ha, hb, hm, hf⟩ := (v_word_iff (by decide) (by decide) (by decide)).1 h
    obtain ⟨hmd, hzd⟩ := d_narrow_iff.1 hd
    simp [word_vctl hop, Decode.vctl, hfn, Decode.vmlogic, (m_iff (by decide)).1 hm, Decode.chk, ha, hb, hf, hmd, hzd]
  | vmpop _ _ =>
    obtain ⟨hop, hfn, hd, ha, hb, hm, hf⟩ := (v_word_iff (by decide) (by decide) (by decide)).1 h
    obtain ⟨hma, hza⟩ := a_narrow3_iff.1 ha
    simp [word_vctl hop, Decode.vctl, hfn, Decode.chk, hd, hb, hm, hf, hma, hza]
  | viota _ _ _ _ _ =>
    obtain ⟨hop, hfn, hd, ha, hb, hm, hf⟩ := (v_word_iff (by decide) (fc_lt _) (by decide)).1 h
    simp [word_vctl hop, Decode.vctl, hfn, Decode.need, vFmt_iff.2 hf, Decode.chk, hd, ha, hb, hm]
  | vld _ _ _ _ _ | vst _ _ _ _ _ | vlds _ _ _ _ _ | vsts _ _ _ _ _ | vldx _ _ _ _ _ | vstx _ _ _ _ _ =>
    obtain ⟨hop, hfn, hd, ha, hb, hm, hf⟩ := (v_word_iff (by decide) (fc_lt _) (by decide)).1 h
    obtain ⟨hbf, hza⟩ := a_narrow4_iff.1 ha
    simp [word_vls hop, Decode.vls, hfn, Decode.need, vFmt_iff.2 hf, Decode.chk, hd, hb, hm, hbf, hza]
  | vbcast _ _ _ _ | vextr _ _ _ _ | vins _ _ _ _ =>
    obtain ⟨hop, hfn, hd, ha, hb, hm, hf⟩ := (v_word_iff (by decide) (fc_lt _) (by decide)).1 h
    simp [word_vls hop, Decode.vls, hfn, Decode.need, vFmt_iff.2 hf, Decode.chk, hd, ha, hb, hm]
  | vadd _ _ _ _ _ | vsub _ _ _ _ _ | vmul _ _ _ _ _ | vfma _ _ _ _ _ | vmin _ _ _ _ _ | vmax _ _ _ _ _ | vand _ _ _ _ _
  | vor _ _ _ _ _ | vxor _ _ _ _ _ | vshl _ _ _ _ _ | vshr _ _ _ _ _ | vsel _ _ _ _ _ | vabs _ _ _ _ | vneg _ _ _ _ =>
    obtain ⟨hop, hfn, hd, ha, hb, hm, hf⟩ := (v_word_iff (by decide) (fc_lt _) (by decide)).1 h
    simp [word_varith hop, Decode.varith, hfn, Decode.need, vFmt_iff.2 hf, Decode.chk, hd, ha, hb, hm]
  | vcmpeq _ _ _ _ _ | vcmplt _ _ _ _ _ =>
    obtain ⟨hop, hfn, hd, ha, hb, hm, hf⟩ := (v_word_iff (by decide) (fc_lt _) (by decide)).1 h
    obtain ⟨hmd, hzd⟩ := d_narrow_iff.1 hd
    simp [word_varith hop, Decode.varith, hfn, Decode.need, vFmt_iff.2 hf, Decode.chk, ha, hb, hm, hmd, hzd]
  | vexp2 _ _ _ _ | vlog2 _ _ _ _ | vrcp _ _ _ _ | vrsqrt _ _ _ _ | vsqrt _ _ _ _ =>
    obtain ⟨hop, hfn, hd, ha, hb, hm, hf⟩ := (v_word_iff (by decide) (fc_lt _) (by decide)).1 h
    simp [word_vsfu hop, Decode.vsfu, hfn, Decode.need, vFmt_iff.2 hf, Decode.chk, hd, ha, hb, hm]
  | vcvt _ _ _ _ _ _ =>
    obtain ⟨hop, hfn, hd, ha, hb, hm, hf⟩ := (v_word_iff (by decide) (fc_lt _) (by decide)).1 h
    obtain ⟨hsrc, hsat⟩ := fmtSat_iff.1 hb
    simp [word_vcvt hop, Decode.vcvt, hfn, Decode.need, vFmt_iff.2 hf, Decode.chk, hd, ha, hm, hsrc, hsat]
  | vqnt _ _ _ _ _ | vdqnt _ _ _ _ _ | vtern _ _ _ _ _ =>
    obtain ⟨hop, hfn, hd, ha, hb, hm, hf⟩ := (v_word_iff (by decide) (fc_lt _) (by decide)).1 h
    simp [word_vcvt hop, Decode.vcvt, hfn, Decode.need, vFmt_iff.2 hf, Decode.chk, hd, ha, hb, hm]
  | vredsum _ _ _ _ | vredmax _ _ _ _ | vredmin _ _ _ _ | vredamax _ _ _ _ | vscan _ _ _ _ | vperm _ _ _ _ _ | vslide _ _ _ _ _ =>
    obtain ⟨hop, hfn, hd, ha, hb, hm, hf⟩ := (v_word_iff (by decide) (fc_lt _) (by decide)).1 h
    simp [word_vred hop, Decode.vred, hfn, Decode.need, vFmt_iff.2 hf, Decode.chk, hd, ha, hb, hm]
  | abound _ _ _ _ | audchk _ _ _ =>
    obtain ⟨hop, hfn, hd, ha, hb, hm, hf⟩ := (v_word_iff (by decide) (by decide) (by decide)).1 h
    simp [word_vred hop, Decode.vred, hfn, Decode.chk, hd, ha, hb, hm, hf]
  -- engine commands and events have no word
  | _ => cases h

/-- An element word decodes to the well-formed instruction whose word it is, and to nothing else. -/
theorem decodeWord_eq_ok_iff (i : Instr) (w : BitVec 32) : decodeWord w = .ok i ↔ i.wf = true ∧ encodeWord i = some w := by
  constructor
  · exact word_sound i
  · rintro ⟨hwf, h⟩
    simp [decodeWord, word_encode h, Decode.chk, hwf]

/-! ## Numbers put together from fields, lowest first -/

section
variable {x y k lo len : Nat}

theorem bits_eq_zero (hx : x < 2 ^ lo) : bits x lo len = 0 := by simp [bits, Nat.div_eq_of_lt hx]

theorem bits_zero_eq (hx : x < 2 ^ len) : bits x 0 len = x := by simp [bits, Nat.mod_eq_of_lt hx]

/-- A slice of a slice. -/
theorem bits_bits {n p q : Nat} (h : lo + len ≤ q) : bits (bits n p q) lo len = bits n (p + lo) len := by
  obtain ⟨j, rfl⟩ := Nat.exists_eq_add_of_le h
  rw [Nat.add_assoc, bits_append n p lo, bits, Nat.add_mul_div_left _ _ (Nat.two_pow_pos lo), Nat.div_eq_of_lt (bits_lt ..), Nat.zero_add,
    bits_append, Nat.add_mul_mod_self_left, Nat.mod_eq_of_lt (bits_lt ..)]

/-- A field does not reach the bits below it. -/
theorem bits_below (h : lo + len ≤ k) : bits (x + y * 2 ^ k) lo len = bits x lo len := by
  obtain ⟨j, rfl⟩ := Nat.exists_eq_add_of_le h
  have : y * 2 ^ (lo + len + j) = 2 ^ lo * (2 ^ len * (2 ^ j * y)) := by rw [pow_add, pow_add]; ring
  rw [this, bits, bits, Nat.add_mul_div_left _ _ (Nat.two_pow_pos lo), Nat.add_mul_mod_self_left]

/-- A field stands at its place. -/
theorem bits_at (hx : x < 2 ^ k) (hy : y < 2 ^ len) : bits (x + y * 2 ^ k) k len = y := by
  rw [bits, Nat.add_mul_div_right _ _ (Nat.two_pow_pos k), Nat.div_eq_of_lt hx, Nat.zero_add, Nat.mod_eq_of_lt hy]
end


theorem bitAt_eq_beq (n i : Nat) : bitAt n i = (bits n i 1 == 1) := rfl

theorem bitVal_beq_one (v : Bool) : (bitVal v == 1) = v := by cases v <;> rfl

/-! ## The common header (R78) -/

theorem elim_lt {α : Type} {o : Option α} {f : α → Nat} {k : Nat} (h : ∀ v, f v < 2 ^ k) : o.elim 0 f < 2 ^ k := by
  cases o with
  | none => exact Nat.two_pow_pos k
  | some v => exact h v

/-- The common header above the opcode, lowest field first, with 0 where it has no counter, increment or channel. -/
def hdrFields (h : CmdHdr) : Nat :=
  h.prio.toNat + bitVal h.wait.isSome * 2 ^ 3 + bitVal h.sig.isSome * 2 ^ 4 + bitVal h.done.isSome * 2 ^ 5
    + h.wait.elim 0 (·.1.toNat) * 2 ^ 8 + h.wait.elim 0 (·.2.toNat) * 2 ^ 16 + h.sig.elim 0 (·.1.toNat) * 2 ^ 48
    + h.sig.elim 0 (·.2.toNat) * 2 ^ 56 + h.done.elim 0 (·.toNat) * 2 ^ 64

theorem hdr_eq (h : CmdHdr) (opc : Nat) : Encode.hdr h opc = opc + hdrFields h * 2 ^ 8 := by
  obtain ⟨prio, _ | ⟨c, t⟩, _ | ⟨e, i⟩, _ | x⟩ := h
  all_goals
    simp only [Encode.hdr, hdrFields, bitVal, Option.isSome, Option.elim, if_true, Bool.false_eq_true, if_false]
    omega

/-- Nine numbers at the places of the header's fields above the opcode (R78), and what stands at each place. -/
theorem header_slices {p w s d c t e i x : Nat} (hp : p < 2 ^ 3) (hw : w < 2) (hs : s < 2) (hd : d < 2) (hc : c < 2 ^ 8) (ht : t < 2 ^ 32)
    (he : e < 2 ^ 8) (hi : i < 2 ^ 8) (hx : x < 2 ^ 6) {F : Nat}
    (hF : F = p + w * 2 ^ 3 + s * 2 ^ 4 + d * 2 ^ 5 + c * 2 ^ 8 + t * 2 ^ 16 + e * 2 ^ 48 + i * 2 ^ 56 + x * 2 ^ 64) :
    F < 2 ^ 70 ∧ bits F 0 3 = p ∧ bits F 3 1 = w ∧ bits F 4 1 = s ∧ bits F 5 1 = d ∧ bits F 6 2 = 0 ∧ bits F 8 8 = c ∧ bits F 16 32 = t ∧
    bits F 48 8 = e ∧ bits F 56 8 = i ∧ bits F 64 6 = x ∧ bits F 70 2 = 0 := by
  subst hF
  simp (disch := omega) only [bits_below, bits_at, bits_eq_zero, bits_zero_eq, -Nat.reducePow, and_true]
  omega

theorem hdrFields_lt (h : CmdHdr) : hdrFields h < 2 ^ 70 :=
  (header_slices h.prio.isLt (bitVal_lt _) (bitVal_lt _) (bitVal_lt _) (elim_lt fun v => v.1.isLt) (elim_lt fun v => v.2.isLt)
    (elim_lt fun v => v.1.isLt) (elim_lt fun v => v.2.isLt) (elim_lt fun v => v.isLt) rfl).1

/-- A pair of fields, read back where its bit of the header is set. -/
theorem pair_readBack {p q : Nat} (o : Option (BitVec p × BitVec q)) :
    (if o.isSome = true then some (BitVec.ofNat p (o.elim 0 (·.1.toNat)), BitVec.ofNat q (o.elim 0 (·.2.toNat))) else none) = o := by
  cases o <;> simp

/-- A field, read back where its bit of the header is set. -/
theorem field_readBack {p : Nat} (o : Option (BitVec p)) :
    (if o.isSome = true then some (BitVec.ofNat p (o.elim 0 (·.toNat))) else none) = o := by
  cases o <;> simp

/-- The header, read back from above the opcode and below bit 80: R80's checks of it hold, and every field is the one encoded. -/
theorem hdr_decode {n : Nat} {h : CmdHdr} (hn : bits n 8 72 = hdrFields h) : Decode.hdr n = some h := by
  obtain ⟨-, hF⟩ := header_slices h.prio.isLt (bitVal_lt _) (bitVal_lt _) (bitVal_lt _) (elim_lt fun v => v.1.isLt)
    (elim_lt fun v => v.2.isLt) (elim_lt fun v => v.1.isLt) (elim_lt fun v => v.2.isLt) (elim_lt fun v => v.isLt) hn
  simp (disch := decide) only [bits_bits, Nat.reduceAdd] at hF
  obtain ⟨hprio, hwait, hsig, hdone, h14, hwc, hwt, hsc, hsi, hdc, h78⟩ := hF
  have h16 : bits n 16 40 = bits n 16 8 + 2 ^ 8 * bits n 24 32 := bits_append n 16 8 32
  simp only [Decode.hdr, fieldAt_eq_ofNat, bitAt_eq_beq, bitVal_beq_one, hprio, hwait, hsig, hdone, h14, h16, hwc, hwt, hsc, hsi, hdc, h78,
    pair_readBack, field_readBack]
  rw [if_neg (by decide), if_neg, if_neg, if_neg]
  · simp
  all_goals
    simp +contextual

/-! ## Commands (R79) -/

/-- A command word decodes where the header's place holds the header and the body decodes. -/
theorem decodeCmd_of_body {h : CmdHdr} {i : Instr} {N : Nat} (hN : N < 2 ^ 256) (hh : bits N 8 72 = hdrFields h)
    (hb : Decode.cmdBody N h = some i) : decodeCmd (BitVec.ofNat 256 N) = some i := by
  rw [decodeCmd, BitVec.toNat_ofNat, Nat.mod_eq_of_lt hN, hdr_decode hh, Option.bind_some, hb]

theorem chkCmd_wf {i : Instr} (hwf : i.wf = true) : Decode.chkCmd true i = some i := by simp [Decode.chkCmd, hwf]

theorem bitVal_eq_toNat (v : Bool) : bitVal v = (BitVec.ofBool v).toNat := by cases v <;> rfl
theorem ofBool_toNat_beq_one (v : Bool) : ((BitVec.ofBool v).toNat == 1) = v := by cases v <;> rfl
theorem fmtOfCode_fmtCode (f : Fmt) : fmtOfCode (fmtCode f) = some f := fmtOfCode_eq_some_iff.2 rfl

theorem decodeCmd_encode {w : BitVec 256} {i : Instr} (hwf : i.wf = true) (hw : encodeCmd i = some w) : decodeCmd w = some i := by
  cases i with
  | mfill h _ _ _ | mwload h _ _ | mstream h _ _ _ _ _ _ _ _ | mzero h _ _ _ | mstore h _ _ _ _ _ _ _ _ _ | mloadacc h _ _ _ _ _
  | msave h _ _ _ _ _ | mrestore h _ | cpy h _ _ _ _ | cpym h _ _ _ _ _ _ _ _ _ | cpyg h _ _ _ _ | cpys h _ _ _ _ | cpypg h _ _ _ _
  | cpyfill h _ _ | cpymsg h _ _ _ | kvgather h _ _ _ _ _ | bfill h _ _ _ _ | bfcancel h _ | rcsnap h _ _ | rcxchg h _ _ _ | rcpeel h _
  | rcfetch h _ | rcround h _ _ | gallred h _ _ _ _ _ _ | gallgath h _ _ _ _ _ _ | gbcast h _ _ _ _ _ _ _ =>
    have hl := hdrFields_lt h
    obtain rfl := Option.some.inj hw
    simp only [hdr_eq, bitVal_eq_toNat, Encode.fc, -Nat.reducePow]
    refine decodeCmd_of_body (h := h) (by omega) ?_ ?_
    · simp (disch := omega) only [bits_below, bits_at, -Nat.reducePow]
    · simp (disch := omega) only [Decode.cmdBody, Decode.z, Decode.fmtAt, fieldAt_eq_ofNat, bitAt_eq_beq, bits_below, bits_at, bits_zero_eq,
        bits_eq_zero, BitVec.ofNat_toNat, BitVec.setWidth_eq, fmtOfCode_fmtCode, ofBool_toNat_beq_one, Option.bind_some, beq_self_eq_true,
        Bool.and_self, chkCmd_wf hwf, -Nat.reducePow]
  | _ => cases hw

/-! ## Words that the decoder refuses -/

/-- R64, R76: an unassigned word traps ILLOP, EVAL holding the word. -/
theorem execUnassignedOpcode_eq (w : BitVec 32) (s : State) :
    execUnassignedOpcode w s = .next (takeTrap s cILLOP (w.setWidth 64)) := by
  rw [execUnassignedOpcode, perform_trap (M_trap cILLOP (w.setWidth 64) s), keepMarks_self]
  rfl

theorem exec_unassignedOpcode (w : BitVec 32) (s : State) : exec (.unassignedOpcode w) s = execUnassignedOpcode w s := rfl

theorem execWord_of_refused {w : BitVec 32} {e : DecodeError} (h : decodeWord w = .error e) (s : State) :
    execWord w s = execUnassignedOpcode w s := by
  rw [execWord, h]

theorem execWord_of_urgent_port {w : BitVec 32} {i : Instr} {s : State} (h : decodeWord w = .ok i) (hp : namesPort w = true)
    (hu : isUrgent (curElem s) = true) : execWord w s = .next (stopState s (.trap cILLOP (w.setWidth 64) s.marks)) := by
  rw [execWord, h]
  simp [hp, hu]

/-! ## The obligations -/

/-- Settles O1: the decoder is sound, and it reads every well-formed instruction from its word. -/
theorem decodeEncodeWord : Obligations.DecodeEncodeWord := decodeWord_eq_ok_iff

/-- Settles O2: the header and then every field of a command is read off the sum that the encoder forms. -/
theorem decodeEncodeCommand : Obligations.DecodeEncodeCommand := fun _ _ => decodeCmd_encode

/-- Settles O3: each word is that of the well-formed instruction named, so that it decodes to it by decodeWord_eq_ok_iff. -/
theorem decodeSampleWords : Obligations.DecodeSampleWords := by
  unfold Obligations.DecodeSampleWords
  simp only [decodeWord_eq_ok_iff]
  decide

/-- Settles O5: both ways to the trap are ILLOP's, which keeps nothing of the instruction and notes no machine check. -/
theorem refusedWordsTrap : Obligations.RefusedWordsTrap := by
  intro s w
  refine ⟨fun e h => ?_, fun i h hp hu => ?_, fun e _ => ?_⟩
  · rw [execWord_of_refused h, execUnassignedOpcode_eq]
  · rw [execWord_of_urgent_port h hp hu, stopState, keepMarks_self]
    rfl
  · rw [exec_unassignedOpcode, execUnassignedOpcode_eq]

end Sys2Proof.Encodings

/-! PROOF. The scalar instructions of chapter 05: the turns that execute them, and the INT, immediate and FPU groups (O4, O9, O10, O11, O13).
An instruction's form (op2, op1, fop2, fop1, opIf) is run once, for operands that can be read and written; each instruction is then its form
with its function, and what is left is that the function is the one the spec names. -/

namespace Sys2Proof.Scalar
open Sys2Proof.Machine

/-! ## Completing and trapping -/

/-- An instruction that moves on when its act completes. -/
theorem does_of_perform {i : Instr} {act : M Unit} {s t : State} (hi : exec i s = perform act s) (h : act s = .ok ((), t)) : Does i s t :=
  hi.trans (perform_ok h)

/-! ## What reading a source leaves (R9, R11) -/

section
variable {s : State} {r : Reg}

/-- A workspace register is read without a trace. -/
theorem after1_of_workspace (h : r.toNat ≤ 27) : s.after1 r = s := by simp [State.after1, State.fetchReg, h]

theorem src1_of_workspace (h : r.toNat ≤ 27) : s.src1 r = getW (curElem s) r := by simp [State.src1, State.fetchReg, h]

/-- Reading a source changes the FIFO of a port and the words that the run has taken, and nothing else of the element. -/
theorem curElem_after1 (s : State) (r : Reg) : ∃ f u, curElem (s.after1 r) = { curElem s with fifo := f, run := u } := by
  unfold State.after1 State.fetchReg
  dsimp only
  split
  · exact ⟨_, _, rfl⟩
  · split
    · exact ⟨_, _, rfl⟩
    · rw [curElem_modCur]; exact ⟨_, _, rfl⟩

@[simp] theorem after1_csr (s : State) (r : Reg) : (curElem (s.after1 r)).csr = (curElem s).csr := by
  obtain ⟨f, u, h⟩ := curElem_after1 s r; rw [h]

@[simp] theorem after1_seq (s : State) (r : Reg) : (curElem (s.after1 r)).seq = (curElem s).seq := by
  obtain ⟨f, u, h⟩ := curElem_after1 s r; rw [h]

@[simp] theorem after1_lsBad (s : State) (r : Reg) : (curElem (s.after1 r)).lsBad = (curElem s).lsBad := by
  obtain ⟨f, u, h⟩ := curElem_after1 s r; rw [h]

@[simp] theorem after2_csr (s : State) (a b : Reg) : (curElem (s.after2 a b)).csr = (curElem s).csr := by simp [State.after2]
@[simp] theorem after2_seq (s : State) (a b : Reg) : (curElem (s.after2 a b)).seq = (curElem s).seq := by simp [State.after2]

theorem canRead2_iff {a b : Reg} : s.canRead2 a b = true ↔ s.canRead a = true ∧ (s.after1 a).canRead b = true := by
  simp [State.canRead2]
end

/-! ## Operand forms -/

section
variable {f : Dword → Dword → Dword} {g : Dword → Dword}

/-- An instruction of the form op2 computes its function. -/
theorem computes2_of_op2 {i : Reg → Reg → Reg → Instr} {f' : Dword → Dword → Dword}
    (hi : ∀ d a b s, exec (i d a b) s = perform (op2 (instrWord (i d a b)) d a b f') s) (hf : ∀ x y, f' x y = f x y) : Computes2 i f := by
  intro s d a b hr hw
  rw [← hf]
  exact does_of_perform (hi d a b s) (op2_ok _ d a b f' s hr hw)

/-- An instruction of the form op1 computes its function. -/
theorem computes1_of_op1 {i : Reg → Reg → Instr} {g' : Dword → Dword}
    (hi : ∀ d a s, exec (i d a) s = perform (op1 (instrWord (i d a)) d a g') s) (hg : ∀ x, g' x = g x) : Computes1 i g := by
  intro s d a hr hw
  rw [← hg]
  exact does_of_perform (hi d a s) (op1_ok _ d a g' s hr hw)
end

/-- An instruction of the form fop2 computes its operation in the rounding mode in force. -/
theorem computesFp2_of_fop2 {i : Reg → Reg → Reg → FpFmt → Instr} {op : Fmt → Nat → Nat → Nat → Nat × Nat}
    (hi : ∀ d a b f s, exec (i d a b f) s = perform (fop2 (instrWord (i d a b f)) d a b (fpFmt f) (op (fpFmt f))) s) : ComputesFp2 i op := by
  intro s d a b f hr hw
  have h := fop2_ok (instrWord (i d a b f)) d a b (fpFmt f) (op (fpFmt f)) s hr hw
  rw [after2_csr] at h
  exact does_of_perform (hi d a b f s) h

/-- The form opIf: both sources are read, and w[d] is written where the condition on the second holds (R111). -/
theorem opIf_ok (w : Dword) (d a b : Reg) (c : Dword → Bool) (s : State) (hr : s.canRead2 a b = true) :
    (c (s.src2 a b) = true → (s.after2 a b).canWrite d = true → opIf w d a b c s = .ok ((), (s.after2 a b).putReg d (s.src1 a))) ∧
    (c (s.src2 a b) = false → opIf w d a b c s = .ok ((), s.after2 a b)) := by
  obtain ⟨ha, hb⟩ := canRead2_iff.1 hr
  have h : opIf w d a b c s = (if c (s.src2 a b) then writeReg w d (s.src1 a) else pure ()) (s.after2 a b) := by
    rw [opIf, M_bind_ok (readReg_ok w s a ha), M_bind_ok (readReg_ok w _ b hb)]
    rfl
  constructor
  · intro hc hw
    rw [h, if_pos hc, writeReg_ok w _ d _ hw]
  · intro hc
    rw [h, hc]
    rfl

/-! ## Words and immediates -/

theorem ite_slt {α : Type} (x y : Dword) (u v : α) : (if x.slt y then u else v) = if x.toInt < y.toInt then u else v := by simp [BitVec.slt]
theorem ite_ult {α : Type} (x y : Dword) (u v : α) : (if x.ult y then u else v) = if x.toNat < y.toNat then u else v := by simp [BitVec.ult]

theorem toInt_simm (k : BitVec 16) : (simm k).toInt = k.toInt := BitVec.toInt_signExtend_of_le (by decide)

/-- A shifted immediate is sign-extended from its own top bit (R112). -/
theorem simm_shiftLeft_16 (k : BitVec 16) : simm k <<< 16 = (k ++ (0 : BitVec 16)).signExtend 64 := by
  ext i hi
  simp only [simm, BitVec.getElem_shiftLeft, BitVec.getElem_signExtend, BitVec.getElem_append, BitVec.msb_append]
  grind

/-- The low bits of a dword, moved to its top and back. -/
theorem sextBits_eq (x : Dword) (sh : BitVec 5) : sextBits x sh.toNat = (x.setWidth (sh.toNat + 1)).signExtend 64 := by
  have hsh := sh.isLt
  apply BitVec.eq_of_getLsbD_eq
  intro i hi
  rw [sextBits, Nat.mod_eq_of_lt (by omega), BitVec.getLsbD_sshiftRight, BitVec.getLsbD_signExtend]
  simp only [BitVec.msb_eq_getLsbD_last, BitVec.getLsbD_shiftLeft, BitVec.getLsbD_setWidth]
  by_cases h : i < sh.toNat + 1
  · simp [h, hi, show 63 - sh.toNat + i < 64 by omega]
  · simp [h, hi, show ¬ 63 - sh.toNat + i < 64 by omega, show 63 - (63 - sh.toNat) = sh.toNat by omega,
      show ¬ 64 ≤ i by omega, show ¬ 63 < 63 - sh.toNat by omega]
theorem zextBits_eq (x : Dword) (sh : BitVec 5) : zextBits x sh.toNat = (x.setWidth (sh.toNat + 1)).setWidth 64 := by
  rw [← BitVec.toNat_inj, zextBits, dw, BitVec.toNat_ofNat, BitVec.toNat_setWidth, BitVec.toNat_setWidth]

theorem clz64_eq (x : Dword) : dw (clz64 x) = if x = 0 then 64 else BitVec.ofNat 64 (63 - x.toNat.log2) := by
  unfold clz64 bitLen
  by_cases h : x = 0
  · subst h; rfl
  · have hn : x.toNat ≠ 0 := fun e => h (BitVec.eq_of_toNat_eq e)
    rw [if_neg (by simpa using hn), if_neg h, dw]
    congr 1
    omega

theorem popCount_eq (v n : Nat) : popCount v n = countIf (fun i => v.testBit i) (List.range n) := by
  induction n with
  | zero => rfl
  | succ n ih =>
    rw [popCount, ih, countIf, countIf, List.range_succ, List.filter_append, List.length_append]
    cases h : v.testBit n <;> simp [h, bnat]

/-! ## Division (R110) -/

theorem divQ_signed_eq_sdiv {x y : Dword} (hy : y ≠ 0) (h : ¬ (x = 0x8000000000000000 ∧ y = BitVec.allOnes 64)) :
    divQ true x y = x.sdiv y := by
  have hxy : x ≠ BitVec.intMin 64 ∨ y ≠ -1#64 := by
    by_contra hc
    push Not at hc
    exact h ⟨hc.1, hc.2⟩
  rw [divQ, if_neg (by simpa using hy), if_pos rfl, if_neg (by simpa using h), ← BitVec.toInt_sdiv_of_ne_or_ne _ _ hxy, BitVec.ofInt_toInt]

theorem divR_signed_eq_srem {x y : Dword} (hy : y ≠ 0) (h : ¬ (x = 0x8000000000000000 ∧ y = BitVec.allOnes 64)) :
    divR true x y = x.srem y := by
  rw [divR, if_neg (by simpa using hy), if_pos rfl, if_neg (by simpa using h), divQ_signed_eq_sdiv hy h, ← BitVec.toInt_inj]
  have hq : x.toInt - x.toInt.tdiv y.toInt * y.toInt = (x.srem y).toInt := by
    rw [BitVec.toInt_srem, Int.tmod_def, Int.mul_comm]
  rw [BitVec.toInt_sub, BitVec.toInt_mul, BitVec.toInt_sdiv, Int.bmod_mul_bmod, Int.sub_bmod_bmod, hq, BitVec.toInt_bmod_cancel]

theorem divisionResults : Computes2 .div (divQ true) ∧ Computes2 .divu (divQ false) ∧ Computes2 .rem (divR true) ∧ Computes2 .remu (divR false) :=
  ⟨computes2_of_op2 (fun _ _ _ _ => rfl) fun _ _ => rfl, computes2_of_op2 (fun _ _ _ _ => rfl) fun _ _ => rfl,
   computes2_of_op2 (fun _ _ _ _ => rfl) fun _ _ => rfl, computes2_of_op2 (fun _ _ _ _ => rfl) fun _ _ => rfl⟩

/-- Settles O9: away from the corners the model's quotient and remainder are the library's sdiv and srem, udiv and umod. -/
theorem divisionCorners : Obligations.DivisionCorners := by
  refine ⟨divisionResults, fun x y => ⟨?_, ?_, fun hy h => ?_, fun hy => ?_⟩⟩
  · rintro rfl
    exact ⟨rfl, rfl, rfl, rfl⟩
  · rintro rfl rfl
    exact ⟨rfl, rfl⟩
  · have hxy : x ≠ BitVec.intMin 64 ∨ y ≠ -1#64 := not_and_or.1 h
    rw [divQ_signed_eq_sdiv hy h, divR_signed_eq_srem hy h]
    exact ⟨BitVec.toInt_sdiv_of_ne_or_ne x y hxy, BitVec.toInt_srem x y⟩
  · simp only [divQ, divR, beq_iff_eq, hy, if_false, Bool.false_eq_true, dw]
    rw [← BitVec.udiv_def, ← BitVec.umod_def]
    exact ⟨BitVec.toNat_udiv, BitVec.toNat_umod⟩

/-! ## The immediate group (R112) -/

/-- Settles O10: each immediate is the form op1 with its function; LUI's shifted immediate is sign-extended. -/
theorem immediateGroup : Obligations.ImmediateGroup := by
  refine ⟨fun k => ?addi, fun k => ?andi, fun k => ?ori, fun k => ?xori, fun k => ?slti, fun k => ?sltiu, fun k => ?orih, fun k => ?orit,
    fun k => ?slli, fun k => ?srli, fun k => ?srai, fun s d k hw => ?lui⟩
  case slti => exact computes1_of_op1 (fun _ _ _ => rfl) fun x => by rw [boolW, ite_slt, toInt_simm]
  case sltiu => exact computes1_of_op1 (fun _ _ _ => rfl) fun x => ite_ult ..
  case lui =>
    rw [← simm_shiftLeft_16]
    exact does_of_perform rfl (writeReg_ok _ s d _ hw)
  all_goals exact computes1_of_op1 (fun _ _ _ => rfl) fun _ => rfl

/-! ## The INT group (R109, R111) -/

theorem sub_eq_ofInt (x y : Dword) : x - y = BitVec.ofInt 64 ((x.toNat : Int) - y.toNat) := by
  rw [Int.sub_eq_add_neg, BitVec.ofInt_add, BitVec.ofInt_neg, BitVec.ofInt_natCast, BitVec.ofInt_natCast, BitVec.ofNat_toNat,
    BitVec.ofNat_toNat, BitVec.setWidth_eq, BitVec.setWidth_eq, BitVec.sub_eq_add_neg]

theorem add_shiftLeft_eq (x y : Dword) (sh : BitVec 5) : x + y <<< sh.toNat = BitVec.ofNat 64 (x.toNat + y.toNat * 2 ^ sh.toNat) := by
  rw [← BitVec.toNat_inj, BitVec.toNat_add, BitVec.toNat_shiftLeft, BitVec.toNat_ofNat, Nat.shiftLeft_eq, Nat.add_mod_mod]

theorem mulHigh_toNat (x y : Dword) : mulHigh x.toNat y.toNat = BitVec.ofNat 64 (x.toNat * y.toNat / 2 ^ 64) := by
  rw [mulHigh, ← BitVec.ofInt_natCast]
  norm_cast

theorem twoSourceResults : TwoSourceResults := by
  refine ⟨?add, ?sub, ?and, ?or, ?xor, ?andn, ?sll, ?srl, ?sra, ?slt, ?sltu, ?min, ?max, ?minu, ?maxu, ?mul, ?mulh, ?mulhu,
    divisionResults.1, divisionResults.2.1, divisionResults.2.2.1, divisionResults.2.2.2, fun sh => ?lea⟩
  case add => exact computes2_of_op2 (fun _ _ _ _ => rfl) BitVec.add_def
  case sub => exact computes2_of_op2 (fun _ _ _ _ => rfl) sub_eq_ofInt
  case slt => exact computes2_of_op2 (fun _ _ _ _ => rfl) fun x y => ite_slt ..
  case sltu => exact computes2_of_op2 (fun _ _ _ _ => rfl) fun x y => ite_ult ..
  case min => exact computes2_of_op2 (fun _ _ _ _ => rfl) fun x y => ite_slt ..
  case max => exact computes2_of_op2 (fun _ _ _ _ => rfl) fun x y => ite_slt ..
  case minu => exact computes2_of_op2 (fun _ _ _ _ => rfl) fun x y => ite_ult ..
  case maxu => exact computes2_of_op2 (fun _ _ _ _ => rfl) fun x y => ite_ult ..
  case mul => exact computes2_of_op2 (fun _ _ _ _ => rfl) fun x y => BitVec.mul_def
  case mulh => exact computes2_of_op2 (fun _ _ _ _ => rfl) fun x y => rfl
  case mulhu => exact computes2_of_op2 (fun _ _ _ _ => rfl) mulHigh_toNat
  case lea => exact computes2_of_op2 (fun _ _ _ _ => rfl) fun x y => add_shiftLeft_eq x y sh
  all_goals exact computes2_of_op2 (fun _ _ _ _ => rfl) fun _ _ => rfl

theorem oneSourceResults : OneSourceResults := by
  refine ⟨?clz, ?ctz, ?popc, fun sh => ?exts, fun sh => ?extz⟩
  case clz => exact computes1_of_op1 (fun _ _ _ => rfl) clz64_eq
  case ctz => exact computes1_of_op1 (fun _ _ _ => rfl) fun _ => rfl
  case popc => exact computes1_of_op1 (fun _ _ _ => rfl) fun x => by rw [popCount_eq]; rfl
  case exts => exact computes1_of_op1 (fun _ _ _ => rfl) fun x => sextBits_eq x sh
  case extz => exact computes1_of_op1 (fun _ _ _ => rfl) fun x => zextBits_eq x sh

theorem conditionalMoves : ConditionalMoves := by
  intro s d a b hr
  obtain ⟨hz, hzn⟩ := opIf_ok (instrWord (.cmovz d a b)) d a b (fun y => y == 0) s hr
  obtain ⟨hn, hnz⟩ := opIf_ok (instrWord (.cmovnz d a b)) d a b (fun y => y != 0) s hr
  simp only [beq_iff_eq, bne_iff_ne, beq_eq_false_iff_ne, bne_eq_false_iff_eq] at hz hzn hn hnz
  exact ⟨fun h hw => does_of_perform rfl (hz h hw), fun h => does_of_perform rfl (hzn h), fun h hw => does_of_perform rfl (hn h hw),
    fun h => does_of_perform rfl (hnz h)⟩

/-- Settles O11: two sources, one source, and the conditional moves. -/
theorem intGroup : Obligations.IntGroup := ⟨twoSourceResults, oneSourceResults, conditionalMoves⟩

/-! ## The FPU group (R113 to R116) -/

/-- FFMA reads w[d] after w[a] and w[b]. -/
theorem ffmaOp_ok (w : Dword) (d a b : Reg) (f : Fmt) (s : State) (hr : s.canRead2 a b = true) (hd : (s.after2 a b).canRead d = true)
    (hw : ((s.after2 a b).after1 d).canWrite d = true) :
    let r := fpFma f (curElem s).csr.fprm.toNat (fpSrc f (s.src1 a)) (fpSrc f (s.src2 a b)) (fpSrc f ((s.after2 a b).src1 d))
    ffmaOp w d a b f s = .ok ((), ((s.after2 a b).after1 d).putFp d (dw r.1) r.2) := by
  obtain ⟨ha, hb⟩ := canRead2_iff.1 hr
  intro r
  rw [ffmaOp, M_bind_ok (readReg_ok w s a ha), M_bind_ok (readReg_ok w _ b hb), ← State.src2, ← State.after2,
    M_bind_ok (readReg_ok w _ d hd), M_bind_ok (roundMode_ok _)]
  simp only [after1_csr, after2_csr]
  rw [M_bind_ok (writeReg_ok w _ d _ hw), raise_ok]
  rfl

theorem fcvtOp_ok (w : Dword) (d a : Reg) (src dst : Fmt) (sat : Bool) (s : State) (hr : s.canRead a = true)
    (hw : (s.after1 a).canWrite d = true) :
    let r := fpConvert src dst (curElem s).csr.fprm.toNat sat (fpSrc src (s.src1 a))
    fcvtOp w d a src dst sat s = .ok ((), (s.after1 a).putFp d (cvtResult dst r.1) r.2) := by
  intro r
  rw [fcvtOp, M_bind_ok (readReg_ok w s a hr), M_bind_ok (roundMode_ok _)]
  simp only [after1_csr]
  rw [M_bind_ok (writeReg_ok w _ d _ hw), raise_ok]
  rfl

/-- Settles O13: the forms fop2, fop1 and op1, and the two operations of their own forms, FFMA and FCVT. -/
theorem fpuResults : Obligations.FpuResults := by
  refine ⟨?fadd, ?fsub, ?fmul, ?fdiv, ?fmin, ?fmax, ?fcmpeq, ?fcmplt, ?fcmple, ?ffma, fun s d a f hr hw => ?one, ?fcvt⟩
  case ffma => exact fun s d a b f hr hd hw => does_of_perform rfl (ffmaOp_ok _ d a b _ s hr hd hw)
  case one =>
    have hsqrt := fop1_ok (instrWord (.fsqrt d a f)) d a (fpFmt f) (fun rm x => fpSqrt (fpFmt f) rm x) s hr hw
    rw [after1_csr] at hsqrt
    have hclass : Computes1 (fun d a => .fclass d a f) (fun x => dw (fpClass (fpFmt f) (fpSrc (fpFmt f) x))) :=
      computes1_of_op1 (fun _ _ _ => rfl) fun _ => rfl
    have hneg : Computes1 (fun d a => .fneg d a f) (fun x => dw (fpFlip (fpFmt f) (fpSrc (fpFmt f) x))) :=
      computes1_of_op1 (fun _ _ _ => rfl) fun _ => rfl
    have habs : Computes1 (fun d a => .fabs d a f) (fun x => dw (fpAbsBits (fpFmt f) (fpSrc (fpFmt f) x))) :=
      computes1_of_op1 (fun _ _ _ => rfl) fun _ => rfl
    exact ⟨does_of_perform rfl hsqrt, hclass s d a hr hw, hneg s d a hr hw, habs s d a hr hw⟩
  case fcvt =>
    intro s d a src dst sat hr hw
    have h := fcvtOp_ok (instrWord (.fcvt d a src dst sat)) d a (cvtFmt src) dst sat s hr hw
    simp only [cvtResult, beq_iff_eq] at h
    exact does_of_perform rfl h
  all_goals exact computesFp2_of_fop2 fun _ _ _ _ _ => rfl

/-! ## Turns (R124, R126, R277, R333) -/

theorem execWord_of_decodes {w : BitVec 32} {i : Instr} {s : State} (h : decodeWord w = .ok i) (hp : (namesPort w && isUrgent (curElem s)) = false) :
    execWord w s = exec i s := by
  rw [execWord, h]
  simp [hp]

theorem elementStep_of_annulled {s : State} (h : (curElem s).seq.ap = true) : elementStep s = .next (skip s) := by
  rw [elementStep, if_pos h]

theorem elementStep_of_fetch {s t : State} {w : BitVec 32} (h : (curElem s).seq.ap = false) (hf : fetch s = .ok (w, t)) :
    elementStep s = execWord w t := by
  rw [elementStep, h, hf]
  rfl

/-- An element that can move and has no asynchronous machine check due takes a step. -/
theorem elementTurn_steps {s : State} {e : Nat} (hm : canMove s e = true) (hl : s.hostLost = none) (hd : dueCheck (elem s e) = none) :
    elementTurn e s = elementStep { s with cur := e } := by
  simp [elementTurn, hm, hl, hd]

theorem engineTurn_of_command {s : State} {q : QueueId} {fill : Bool} {j : Job} {i : Instr} (he : (queue s q).edge = none)
    (hj : chooseJob s q fill = some j) (hi : decodeCmd j.cmd = some i) : engineTurn q fill s = exec i (takeJob s q fill j) := by
  simp [engineTurn, he, hj, hi]

/-- A planned turn is the one that a step takes (log 2). -/
theorem step_of_agenda {s : State} {u : Turn} {l : List Turn} (h : s.agenda = u :: l) :
    step s = takeTurn u { s with agenda := l, tick := s.tick + 1, marks := [] } := by
  rw [step, nextTurn, h]

theorem elementStepRunsDecoded : ElementStepRunsDecoded := by
  intro s e l w i t ha hm hl s1 hd
  have hstep : step s = elementStep s1 := (step_of_agenda ha).trans (elementTurn_steps hm hl hd)
  exact ⟨fun hp => hstep.trans (elementStep_of_annulled hp),
    fun hp hf hw hu => by rw [hstep, elementStep_of_fetch hp hf, execWord_of_decodes hw hu]⟩

theorem engineStepRunsDecoded : EngineStepRunsDecoded := by
  intro s q fill l j i ha s1 he hj hi
  exact (step_of_agenda ha).trans (engineTurn_of_command he hj hi)

/-- Settles O4: the planned turn is an element's or an engine's, and its instruction is the one decoded. -/
theorem stepRunsDecoded : Obligations.StepRunsDecoded := ⟨elementStepRunsDecoded, engineStepRunsDecoded⟩

end Sys2Proof.Scalar

/-! PROOF. Rules about the state's operations, each proved once: what an act of the running element leaves unchanged elsewhere, and what logging,
storing, writing a register, tracking and buffering leave in the element. -/

namespace Sys2Proof.Scalar
open Sys2Proof.Machine

/-! ## Acts of the running element alone -/

/-- Of an element that is changed, only what it was counts. -/
theorem modCur_congr {s : State} {f g : Elem → Elem} (h : f (curElem s) = g (curElem s)) : modCur s f = modCur s g := by
  have h' : f (elem s s.cur) = g (elem s s.cur) := h
  unfold modCur modElem
  rw [h']

/-- From s to t nothing has changed but the running element. -/
def OnlyCur (s t : State) : Prop := { t with elems := s.elems } = s ∧ ∀ e, e ≠ s.cur → elem t e = elem s e

namespace OnlyCur
variable {s t u : State}

theorem refl (s : State) : OnlyCur s s := ⟨rfl, fun _ _ => rfl⟩

theorem modCur (s : State) (f : Elem → Elem) : OnlyCur s (modCur s f) := ⟨rfl, fun _ h => elem_modElem_other s _ _ f h⟩

theorem cur (h : OnlyCur s t) : t.cur = s.cur := by rw [← h.1]

theorem mem (h : OnlyCur s t) : t.mem = s.mem := by rw [← h.1]

theorem trans (h : OnlyCur s t) (k : OnlyCur t u) : OnlyCur s u := by
  refine ⟨?_, fun e he => ?_⟩
  · calc { u with elems := s.elems } = { ({ u with elems := t.elems } : State) with elems := s.elems } := rfl
      _ = { t with elems := s.elems } := by rw [k.1]
      _ = s := h.1
  · rw [k.2 e (h.cur ▸ he), h.2 e he]

theorem after_modCur (h : OnlyCur s t) (f : Elem → Elem) : OnlyCur s (Machine.modCur t f) := h.trans (modCur t f)
end OnlyCur

/-! ## Logging (R8) -/

theorem tput_length_le {α : Type} (t : Tbl α) (a : Nat) (x : α) : (tput t a x).length ≤ t.length + 1 := by
  induction t with
  | nil => simp [tput]
  | cons p t ih =>
    simp only [tput]
    split
    · simp
    · split <;> simp [ih]

/-- An element whose running run has the old value of a dword in its log. -/
def logElem (x : Elem) (d : Nat) : Elem :=
  match x.run with
  | some r => if (tfind r.undo d).isSome then x else { x with run := some { r with undo := tput r.undo d (startDword x r d) } }
  | none => x

theorem curElem_logged (s : State) (d : Nat) : curElem (s.logged d) = logElem (curElem s) d := by
  unfold State.logged logElem
  cases (curElem s).run with
  | none => rfl
  | some r =>
    dsimp only
    split
    · rfl
    · rw [curElem_modCur]

theorem onlyCur_logged (s : State) (d : Nat) : OnlyCur s (s.logged d) := by
  unfold State.logged
  split
  · split
    · exact .refl s
    · exact .modCur s _
  · exact .refl s

/-- Logging changes the log of the running run, and nothing else of the element. -/
theorem logElem_eq (x : Elem) (d : Nat) : logElem x d = { x with run := (logElem x d).run } := by
  unfold logElem
  split
  · split <;> rfl
  · rfl

@[simp] theorem logElem_ls (x : Elem) (d : Nat) : (logElem x d).ls = x.ls := by rw [logElem_eq]
@[simp] theorem logElem_lsBad (x : Elem) (d : Nat) : (logElem x d).lsBad = x.lsBad := by rw [logElem_eq]

theorem logElem_run {x : Elem} {d : Nat} {u v : Run} (hu : x.run = some u) (hv : (logElem x d).run = some v) : { v with undo := u.undo } = u := by
  unfold logElem at hv
  simp only [hu] at hv
  split at hv
  · rw [hu] at hv
    cases hv; rfl
  · cases hv; rfl

/-- The running run's log has room for n more dwords. -/
def HasRoom (x : Elem) (n : Nat) : Prop := ∃ r, x.run = some r ∧ r.undo.length + n ≤ undoCap

theorem canLog_of_hasRoom {s : State} {n : Nat} (h : HasRoom (curElem s) (n + 1)) (d : Nat) : s.canLog d = true := by
  obtain ⟨r, hr, hn⟩ := h
  have : r.undo.length < undoCap := by omega
  simp [State.canLog, hr, this]

theorem hasRoom_logElem {x : Elem} {n : Nat} (h : HasRoom x (n + 1)) (d : Nat) : HasRoom (logElem x d) n := by
  obtain ⟨r, hr, hn⟩ := h
  have := tput_length_le r.undo d (startDword x r d)
  unfold logElem
  simp only [hr]
  split
  · exact ⟨r, hr, by omega⟩
  · exact ⟨_, rfl, by simp only; omega⟩

/-! ## Local store (R7, R315) -/

/-- A write of local store changes its bytes and its poison, and nothing else of the element. -/
theorem lsWrite_eq (x : Elem) (off n v : Nat) :
    lsWrite x off n v = { x with ls := (lsWrite x off n v).ls, lsBad := (lsWrite x off n v).lsBad, lsTodo := (lsWrite x off n v).lsTodo } := by
  unfold lsWrite
  split
  · rfl
  · split <;> rfl

theorem memGet_memPutNat_outside (m : Mem) {a off n : Nat} (v : Nat) (h : a < off ∨ off + n ≤ a) :
    memGet (memPutNat m off n v) a = memGet m a := by
  rcases h with h | h
  · exact memGet_memWrite_before _ _ _ _ h
  · exact memGet_memWrite_after _ _ _ _ (by rwa [leBytes_length])

theorem memGet_lsWrite_outside (x : Elem) {a off n : Nat} (v : Nat) (h : a < off ∨ off + n ≤ a) :
    memGet (lsWrite x off n v).ls a = memGet x.ls a := by
  unfold lsWrite
  split
  next hn =>
    obtain rfl : n = 8 := by simpa using hn
    exact memGet_memPutNat_outside _ _ h
  next =>
    split
    · rfl
    · exact memGet_memPutNat_outside _ _ h

theorem lsWrite_dword_ls (x : Elem) (off v : Nat) : (lsWrite x off 8 v).ls = memPutNat x.ls off 8 v := rfl

/-- A write poisons nothing, and clears no poison but that of its own dword. -/
theorem lsBad_lsWrite (x : Elem) (off n v : Nat) : (lsWrite x off n v).lsBad = x.lsBad ∨
    (lsWrite x off n v).lsBad = x.lsBad.filter (· != off / 8) := by
  unfold lsWrite
  split
  · exact .inr rfl
  · split <;> exact .inl rfl

theorem mem_lsBad_of_lsWrite {x : Elem} {off n v d : Nat} (h : d ∈ (lsWrite x off n v).lsBad) : d ∈ x.lsBad := by
  rcases lsBad_lsWrite x off n v with e | e
  · exact e ▸ h
  · exact List.mem_of_mem_filter (e ▸ h)

theorem contains_lsBad_lsWrite (x : Elem) (off n v : Nat) {d : Nat} (h : d ≠ off / 8) :
    (lsWrite x off n v).lsBad.contains d = x.lsBad.contains d := by
  rcases lsBad_lsWrite x off n v with e | e
  · rw [e]
  · rw [e, Bool.eq_iff_iff]
    simp [h]

theorem wf_lsWrite {x : Elem} (off n v : Nat) (h : Memory.wf x.ls = true) : Memory.wf (lsWrite x off n v).ls = true := by
  unfold lsWrite
  split
  · exact wf_memPutNat _ _ _ h
  · split
    · exact h
    · exact wf_memPutNat _ _ _ h

/-- The element after a store of the running element's: the dword logged, then the bytes written. -/
def putElem (x : Elem) (off n v : Nat) : Elem := lsWrite (logElem x (off / 8)) off n v

theorem curElem_putLs (s : State) (off n v : Nat) : curElem (s.putLs off n v) = putElem (curElem s) off n v := by
  rw [State.putLs, curElem_modCur, curElem_logged]
  rfl

theorem onlyCur_putLs (s : State) (off n v : Nat) : OnlyCur s (s.putLs off n v) := (onlyCur_logged s _).after_modCur _

theorem putElem_run (x : Elem) (off n v : Nat) : (putElem x off n v).run = (logElem x (off / 8)).run := lsWrite_run ..

/-- A store changes the bytes of local store, their poison and the log, and nothing else of the element. -/
theorem putElem_eq (x : Elem) (off n v : Nat) : putElem x off n v =
    { x with ls := (putElem x off n v).ls, lsBad := (putElem x off n v).lsBad, lsTodo := (putElem x off n v).lsTodo,
             run := (putElem x off n v).run } := by
  have h := lsWrite_eq (logElem x (off / 8)) off n v
  rw [← putElem, logElem_eq x] at h
  rw [putElem_run]
  exact h

@[simp] theorem putElem_seq (x : Elem) (off n v : Nat) : (putElem x off n v).seq = x.seq := by rw [putElem_eq]

theorem memGet_putElem_outside (x : Elem) {a off n : Nat} (v : Nat) (h : a < off ∨ off + n ≤ a) :
    memGet (putElem x off n v).ls a = memGet x.ls a := by
  rw [putElem, memGet_lsWrite_outside _ v h, logElem_ls]

theorem memDword_putElem_apart (x : Elem) {c off : Nat} (v : Nat) (h : c + 8 ≤ off ∨ off + 8 ≤ c) :
    memDword (putElem x off 8 v).ls c = memDword x.ls c := by
  rw [putElem, lsWrite_dword_ls, memDword_memPutNat_apart _ _ _ _ h, logElem_ls]

theorem memDword_putElem_same {x : Elem} (off : Nat) (v : Dword) (h : Memory.wf x.ls = true) : memDword (putElem x off 8 v.toNat).ls off = v := by
  rw [putElem, lsWrite_dword_ls, memDword_memPutNat_same _ _ (by rwa [logElem_ls])]

theorem wf_putElem {x : Elem} (off n v : Nat) (h : Memory.wf x.ls = true) : Memory.wf (putElem x off n v).ls = true :=
  wf_lsWrite _ _ _ (by rwa [logElem_ls])

theorem mem_lsBad_of_putElem {x : Elem} {off n v d : Nat} (h : d ∈ (putElem x off n v).lsBad) : d ∈ x.lsBad := by
  simpa using mem_lsBad_of_lsWrite h

theorem hasRoom_putElem {x : Elem} {k : Nat} (h : HasRoom x (k + 1)) (off n v : Nat) : HasRoom (putElem x off n v) k := by
  obtain ⟨r, hr, hk⟩ := hasRoom_logElem h (off / 8)
  exact ⟨r, (putElem_run x off n v).trans hr, hk⟩

/-! ## Registers (R9, R10) -/

theorem not_beq_zero {r : Reg} (h : 1 ≤ r.toNat) : ¬ (r == 0) = true := by
  rw [beq_iff_eq]
  rintro rfl
  exact absurd h (by decide)

/-- A workspace register but w0 is a dword of local store. -/
theorem putReg_of_workspace {s : State} {r : Reg} (v : Dword) (h1 : 1 ≤ r.toNat) (h : r.toNat ≤ 27) :
    s.putReg r v = s.putLs (wOff (curElem s) r.toNat) 8 v.toNat := by
  rw [State.putReg, if_neg (not_beq_zero h1), if_pos h]

theorem canWrite_of_workspace {s : State} {r : Reg} (h1 : 1 ≤ r.toNat) (h : r.toNat ≤ 27) :
    s.canWrite r = s.canLog (wOff (curElem s) r.toNat / 8) := by
  rw [State.canWrite, if_neg (not_beq_zero h1), if_pos h]

theorem getW_of_pos (x : Elem) {r : Reg} (h1 : 1 ≤ r.toNat) : getW x r = memDword x.ls (wOff x r.toNat) := by
  rw [getW, if_neg (not_beq_zero h1)]

/-- Writing a register leaves of the element all but local store, its poison, the run and the credits of a port. -/
theorem curElem_putReg (s : State) (r : Reg) (v : Dword) :
    ∃ l b t u c, curElem (s.putReg r v) = { curElem s with ls := l, lsBad := b, lsTodo := t, run := u, credit := c } := by
  unfold State.putReg
  dsimp only
  split
  · exact ⟨_, _, _, _, _, rfl⟩
  · split
    · rw [curElem_putLs, putElem_eq]; exact ⟨_, _, _, _, _, rfl⟩
    · rw [curElem_modCur, State.queued, curElem_modCur]; exact ⟨_, _, _, _, _, rfl⟩

@[simp] theorem putReg_seq (s : State) (r : Reg) (v : Dword) : (curElem (s.putReg r v)).seq = (curElem s).seq := by
  obtain ⟨l, b, t, u, c, h⟩ := curElem_putReg s r v; rw [h]

/-- What a source reads depends on local store, its poison and the workspace pointer. -/
theorem canRead_of_workspace {s : State} {r : Reg} (h : r.toNat ≤ 27) :
    s.canRead r = true ↔ r = 0 ∨ wOff (curElem s) r.toNat / 8 ∉ (curElem s).lsBad := by
  simp [State.canRead, h]

end Sys2Proof.Scalar

/-! PROOF. Rules about accesses (R117, R118, R278), each proved once: how an address is checked and where it leads, what a translation leaves
unchanged, what an access brings or stores once its address has been found, and how a checked address traps. -/

namespace Sys2Proof.Scalar
open Sys2Proof.Machine

/-! ## Writes of physical memory leave the elements alone -/

/-- From s to t no element has changed, nor whose turn it is, nor memory as the last edge left it. -/
def SameElems (s t : State) : Prop := t.cur = s.cur ∧ t.elems = s.elems ∧ t.memEdge = s.memEdge

namespace SameElems
variable {s t u : State}

theorem refl (s : State) : SameElems s s := ⟨rfl, rfl, rfl⟩

theorem trans (h : SameElems s t) (k : SameElems t u) : SameElems s u := ⟨k.1.trans h.1, k.2.1.trans h.2.1, k.2.2.trans h.2.2⟩

theorem elem (h : SameElems s t) (e : Nat) : Machine.elem t e = Machine.elem s e := by rw [Machine.elem, h.2.1]; rfl

/-- A fold keeps the elements where each of its steps does. -/
theorem foldl {α β : Type} {f : β → State} {g : β → α → β} (hg : ∀ b a, SameElems (f b) (f (g b a))) (l : List α) (b : β) :
    SameElems (f b) (f (l.foldl g b)) := by
  induction l generalizing b with
  | nil => exact refl _
  | cons a l ih => exact (hg b a).trans (ih (g b a))
end SameElems

theorem sameElems_writePlain (s : State) (codec : Nat) (ups : Tbl Byte) : SameElems s (writePlain s codec ups).1 := by
  unfold writePlain writeRaw storeCb
  split
  · exact .refl s
  · dsimp only
    repeat' split
    all_goals exact ⟨rfl, rfl, rfl⟩

theorem sameElems_writeOut (s : State) (lid : BitVec 32) (pa : Nat) (ups : Tbl Byte) : SameElems s (writeOut s lid pa ups) := by
  unfold writeOut
  split <;> exact ⟨rfl, rfl, rfl⟩

theorem sameElems_writeCb (s : State) (lid : BitVec 32) (codec : Nat) (ups : Tbl Byte) : SameElems s (writeCb s lid codec ups).1 := by
  unfold writeCb
  split
  · exact .refl s
  · split
    · exact .refl s
    · split
      · exact sameElems_writeOut ..
      · exact sameElems_writePlain ..

theorem sameElems_physWrite (s : State) (pa : Nat) (l : List Byte) (codec : Nat) : SameElems s (physWrite s pa l codec).1 := by
  unfold physWrite applyWrites applyWritesIn
  refine SameElems.foldl (f := Prod.fst) (fun r g => ?_) _ (s, [])
  exact sameElems_writeCb r.1 0 g.1 g.2

theorem sameElems_countDrops (s : State) (i : Nat) (l : List WErr) : SameElems s (countDrops s i l) := by
  refine SameElems.foldl (f := id) (fun t e => ?_) l s
  dsimp only [id]
  split <;> exact ⟨rfl, rfl, rfl⟩

theorem sameElems_physPutDword (s : State) (pa : Nat) (v : Dword) : SameElems s (physPutDword s pa v) :=
  (sameElems_physWrite ..).trans (sameElems_countDrops ..)

/-! ## Translations (R300 to R305) -/

theorem sameElems_ptrKeep (s : State) (d : Nat) (ps : List PtrEnt) : SameElems s (ptrKeep s d ps) := by
  unfold ptrKeep
  split <;> exact ⟨rfl, rfl, rfl⟩

theorem sameElems_markPte {s : State} {l : Leaf} {walked : Bool} {k : AccKind} {m : State × Leaf} (h : markPte s l walked k = .ok m) :
    SameElems s m.1 := by
  unfold markPte at h
  extract_lets a d need at h
  split at h
  · cases h; exact .refl s
  · split at h
    · cases h
    · cases h; exact sameElems_physPutDword ..

/-- An element's translation changes its own TLB, and nothing else of an element. -/
theorem translate_elem {s t : State} {e asid va mode : Nat} {k : AccKind} {r : Xlat} (h : translate s (.element e) asid va mode k = .ok (r, t)) :
    t.cur = s.cur ∧ ∃ l, elem t e = { elem s e with tlb := l } := by
  unfold Machine.translate at h
  split at h
  · cases h
  · split at h
    · cases h
    · split at h
      · cases h
      · split at h
        · cases h
        next m hm =>
          obtain ⟨hc, he⟩ : m.1.cur = s.cur ∧ elem m.1 e = elem s e :=
            let hs := (sameElems_ptrKeep s _ _).trans (sameElems_markPte hm)
            ⟨hs.1, hs.elem e⟩
          cases h
          split
          · exact ⟨hc, _, by simp only [tlbInstall, elem_modClus, elem_modElem_same, he]; rfl⟩
          · exact ⟨hc, _, he⟩

/-! ## Addresses (R117) -/

theorem bfPriv_ok (w : Dword) {s : State} {bf : Nat} (h : ¬ (bf = 0 ∧ modeOf (curElem s) = 0)) : bfPriv w bf s = .ok ((), s) := by
  rw [bfPriv, M_bind_ok (getE_ok s), if_neg (by simpa using h)]
  rfl

theorem bfPriv_trap (w : Dword) {s : State} {bf : Nat} (h : bf = 0 ∧ modeOf (curElem s) = 0) :
    bfPriv w bf s = .error (.trap cPRIV w s.marks) := by
  rw [bfPriv, M_bind_ok (getE_ok s), if_pos (by simpa using h)]
  rfl

section
variable (w : Dword) {s : State} {k : AccKind} {bf off sz : Nat}

/-- Where the mode allows it, an address is checked as its bound says. -/
theorem checkAt_eq (h : ¬ (bf = 0 ∧ modeOf (curElem s) = 0)) : checkAt w k bf off sz s =
    (match boundOff (bfReg (curElem s) bf) (bf == 0) off sz with
      | none => trap cBOUNDS (dw (recBase (bfReg (curElem s) bf) + off))
      | some (_, false) => pure .zero
      | some (o, true) =>
        let va := (recBase (bfReg (curElem s) bf) + o) % 2 ^ 64
        if 2 ^ 55 ≤ va then trap cPROT (dw va)
        else if va % sz != 0 then trap cALIGN (dw va)
        else if inLs va then do
          let off' ← lsCheck va sz
          pure (.loc off')
        else xlatAcc k (asidOf s (curElem s) (recAsid (bfReg (curElem s) bf))) va (recUntr (bfReg (curElem s) bf)) : M Acc) s := by
  have hp : ¬ (bf == 0 && modeOf (curElem s) == 0) = true := by simpa using h
  rw [checkAt, M_bind_ok (M_get s)]
  exact congrFun (if_neg hp) s

/-- The bound of an access under ZERO leads nowhere. -/
theorem checkAt_zero (h : s.zeroAt bf off sz = true) : checkAt w k bf off sz s = .ok (.zero, s) := by
  simp only [State.zeroAt, Bool.and_eq_true, Bool.not_eq_true', beq_iff_eq] at h
  obtain ⟨hp, hb⟩ := h
  rw [checkAt_eq w (by simpa [modeOf] using hp), hb]
  rfl

theorem not_priv_of_zeroAt (h : s.zeroAt bf off sz = true) : ¬ (bf = 0 ∧ modeOf (curElem s) = 0) := by
  simp only [State.zeroAt, Bool.and_eq_true, Bool.not_eq_true'] at h
  simpa using h.1

/-- The checks that need no translation have passed. -/
theorem accessVa_eq_some_iff {va : Nat} : s.accessVa bf off sz = some va ↔ ¬ (bf = 0 ∧ modeOf (curElem s) = 0) ∧
    ∃ o, boundOff (bfReg (curElem s) bf) (bf == 0) off sz = some (o, true) ∧ va = (recBase (bfReg (curElem s) bf) + o) % 2 ^ 64 ∧
      va < 2 ^ 55 ∧ va % sz = 0 := by
  unfold State.accessVa
  dsimp only
  split
  next hp => simp [hp]
  next hp =>
    split
    next o hb =>
      have he : ∀ o', boundOff (bfReg (curElem s) bf) (bf == 0) off sz = some (o', true) ↔ o' = o := by
        intro o'
        rw [hb]
        simp [eq_comm]
      simp only [he, exists_eq_left, hp, not_false_eq_true, true_and]
      split
      next hbad =>
        simp only [reduceCtorEq, false_iff]
        rintro ⟨rfl, hlt, hal⟩
        rcases hbad with h | h
        · exact Nat.not_le.2 hlt h
        · exact h hal
      next hok =>
        rw [not_or, not_not, not_le] at hok
        rw [Option.some.injEq]
        exact ⟨fun h => ⟨h.symm, h ▸ hok⟩, fun h => h.1.symm⟩
    next hb =>
      simp only [reduceCtorEq, false_iff, not_and, not_exists]
      exact fun _ o ho => absurd ho (hb o)

/-- An address that has passed the checks lies in local store or is translated. -/
theorem checkAt_of_accessVa {va : Nat} (h : s.accessVa bf off sz = some va) : checkAt w k bf off sz s =
    (if inLs va then do
        let off' ← lsCheck va sz
        pure (.loc off')
      else xlatAcc k (asidOf s (curElem s) (recAsid (bfReg (curElem s) bf))) va (recUntr (bfReg (curElem s) bf)) : M Acc) s := by
  obtain ⟨hp, o, hb, rfl, hlt, hal⟩ := accessVa_eq_some_iff.1 h
  rw [checkAt_eq w hp, hb]
  dsimp only
  rw [if_neg (Nat.not_le.2 hlt), if_neg (by rw [hal]; decide)]

/-- An address in local store, within its usable banks. -/
theorem accessVa_of_localAt {o : Nat} (h : s.localAt bf off sz = some o) :
    ∃ va, s.accessVa bf off sz = some va ∧ inLs va = true ∧ va - lsBase + sz ≤ lsSize (curElem s) ∧ va - lsBase = o := by
  unfold State.localAt at h
  split at h
  next va hva =>
    split at h
    next hin => exact ⟨va, hva, hin.1, hin.2, Option.some.inj h⟩
    next => cases h
  next => cases h

theorem lsCheck_ok {va n : Nat} (h : va - lsBase + n ≤ lsSize (curElem s)) : lsCheck va n s = .ok (va - lsBase, s) := by
  rw [lsCheck, M_bind_ok (getE_ok s), if_neg (Nat.not_lt.2 h)]
  rfl

theorem checkAt_local {o : Nat} (h : s.localAt bf off sz = some o) : checkAt w k bf off sz s = .ok (.loc o, s) := by
  obtain ⟨va, hva, hin, hsz, rfl⟩ := accessVa_of_localAt h
  rw [checkAt_of_accessVa w hva, if_pos hin, M_bind_ok (lsCheck_ok hsz)]
  rfl

theorem not_priv_of_accessVa {va : Nat} (h : s.accessVa bf off sz = some va) : ¬ (bf = 0 ∧ modeOf (curElem s) = 0) :=
  (accessVa_eq_some_iff.1 h).1

/-- An access outside local store that has been translated, within the usable banks. -/
theorem mappedAt_eq_some_iff {r : Xlat} {t : State} : s.mappedAt k bf off sz = some (r, t) ↔
    ∃ va r', s.accessVa bf off sz = some va ∧ inLs va = false ∧
      translate s (.element s.cur) (asidOf s (curElem s) (recAsid (bfReg (curElem s) bf))) va (modeOf (curElem s)) k = .ok (r', t) ∧
      r'.beyond = false ∧ r = { r' with untr := recUntr (bfReg (curElem s) bf) || r'.untr } := by
  unfold State.mappedAt
  dsimp only
  constructor
  · intro h
    split at h
    next va hva =>
      split at h
      next => cases h
      next hin =>
        split at h
        next r' u ht =>
          split at h
          next => cases h
          next hb =>
            obtain ⟨rfl, rfl⟩ := Prod.mk.inj (Option.some.inj h)
            exact ⟨va, r', hva, by simpa using hin, ht, by simpa using hb, rfl⟩
        next => cases h
    next => cases h
  · rintro ⟨va, r', hva, hin, ht, hb, rfl⟩
    simp [hva, hin, ht, hb]

theorem checkAt_mapped {r : Xlat} {t : State} (h : s.mappedAt k bf off sz = some (r, t)) :
    ∃ va, s.accessVa bf off sz = some va ∧ checkAt w k bf off sz s = .ok (.phys r.pa va r.codec r.untr, t) := by
  obtain ⟨va, r', hva, hin, ht, hb, rfl⟩ := mappedAt_eq_some_iff.1 h
  refine ⟨va, hva, ?_⟩
  rw [checkAt_of_accessVa w hva, if_neg (by rw [hin]; decide), xlatAcc, M_bind_ok (M_get s)]
  simp only [ht]
  rw [M_bind_ok (M_set s t), hb]
  rfl

theorem mappedAt_elem {r : Xlat} {t : State} (h : s.mappedAt k bf off sz = some (r, t)) :
    t.cur = s.cur ∧ ∃ l, curElem t = { curElem s with tlb := l } := by
  obtain ⟨va, r', hva, hin, ht, hb, rfl⟩ := mappedAt_eq_some_iff.1 h
  obtain ⟨hc, l, hl⟩ := translate_elem ht
  exact ⟨hc, l, by rw [curElem, hc, hl]; rfl⟩

theorem not_priv_of_localAt {o : Nat} (h : s.localAt bf off sz = some o) : ¬ (bf = 0 ∧ modeOf (curElem s) = 0) := by
  obtain ⟨va, hva, -⟩ := accessVa_of_localAt h
  exact not_priv_of_accessVa hva

theorem not_priv_of_mappedAt {r : Xlat} {t : State} (h : s.mappedAt k bf off sz = some (r, t)) : ¬ (bf = 0 ∧ modeOf (curElem s) = 0) := by
  obtain ⟨va, r', hva, -⟩ := mappedAt_eq_some_iff.1 h
  exact not_priv_of_accessVa hva

end

/-! ## Addresses that trap (R117, R298, R302, R304) -/

section
variable (w : Dword) {s : State} {k : AccKind} {bf off sz : Nat} (hp : ¬ (bf = 0 ∧ modeOf (curElem s) = 0))
include hp

theorem checkAt_bounds (h : boundOff (bfReg (curElem s) bf) (bf == 0) off sz = none) :
    checkAt w k bf off sz s = .error (.trap cBOUNDS (dw (recBase (bfReg (curElem s) bf) + off)) s.marks) := by
  rw [checkAt_eq w hp, h]
  rfl

variable {o va : Nat} (hb : boundOff (bfReg (curElem s) bf) (bf == 0) off sz = some (o, true))
  (hva : (recBase (bfReg (curElem s) bf) + o) % 2 ^ 64 = va)
include hb hva

theorem checkAt_prot (h : 2 ^ 55 ≤ va) : checkAt w k bf off sz s = .error (.trap cPROT (dw va) s.marks) := by
  rw [checkAt_eq w hp, hb]
  dsimp only
  rw [hva, if_pos h]
  rfl

theorem checkAt_align (hlt : va < 2 ^ 55) (h : va % sz ≠ 0) : checkAt w k bf off sz s = .error (.trap cALIGN (dw va) s.marks) := by
  rw [checkAt_eq w hp, hb]
  dsimp only
  rw [hva, if_neg (Nat.not_le.2 hlt), if_pos (bne_iff_ne.2 h)]
  rfl

theorem accessVa_of_bound (hlt : va < 2 ^ 55) (hal : va % sz = 0) : s.accessVa bf off sz = some va :=
  accessVa_eq_some_iff.2 ⟨hp, o, hb, hva.symm, hlt, hal⟩

theorem checkAt_beyond_ls (hlt : va < 2 ^ 55) (hal : va % sz = 0) (hge : lsBase ≤ va) (h : lsSize (curElem s) < va - lsBase + sz) :
    checkAt w k bf off sz s = .error (.trap cBOUNDS (dw va) s.marks) := by
  have hc : lsCheck va sz s = .error (.trap cBOUNDS (dw va) s.marks) := by
    rw [lsCheck, M_bind_ok (getE_ok s), if_pos h]
    rfl
  rw [checkAt_of_accessVa w (accessVa_of_bound hp hb hva hlt hal), if_pos (show inLs va = true from decide_eq_true ⟨hge, hlt⟩), M_bind_error hc]

/-- Below the window an address is translated. -/
theorem checkAt_xlat (hal : va % sz = 0) (hlt : va < lsBase) : checkAt w k bf off sz s =
    xlatAcc k (asidOf s (curElem s) (recAsid (bfReg (curElem s) bf))) va (recUntr (bfReg (curElem s) bf)) s := by
  have h55 : va < 2 ^ 55 := hlt.trans (by decide)
  rw [checkAt_of_accessVa w (accessVa_of_bound hp hb hva h55 hal), if_neg]
  simp [inLs, Nat.not_le.2 hlt]
end

section
variable {s : State} {k : AccKind} {asid va : Nat} {untr : Bool}

theorem xlatAcc_error {e : XErr} (h : translate s (.element s.cur) asid va (modeOf (curElem s)) k = .error e) :
    xlatAcc k asid va untr s = .error (.trap (xCause k e) (dw va) (xMarks s (idieOf (dieOf s.cur)) e ++ s.marks)) := by
  rw [xlatAcc, M_bind_ok (M_get s)]
  simp only [h]
  rfl

theorem xlatAcc_beyond {r : Xlat} {u : State} (h : translate s (.element s.cur) asid va (modeOf (curElem s)) k = .ok (r, u))
    (hb : r.beyond = true) : xlatAcc k asid va untr s = .error (.trap cBOUNDS (dw va) u.marks) := by
  rw [xlatAcc, M_bind_ok (M_get s)]
  simp only [h]
  rw [M_bind_ok (M_set s u), if_pos hb]
  rfl
end

/-! ## What an access brings (R118, R278) -/

section
variable {s : State} {pa sz : Nat} {untr : Bool}

theorem track_ok {line : Nat} (h : s.canTrack line false = true) : track line s = .ok ((), s.tracked line false) := by
  unfold track State.tracked
  rw [M_bind_ok (M_get s)]
  simp only [State.canTrack, Bool.false_or] at h ⊢
  cases hr : (curElem s).run with
  | none => rfl
  | some r =>
    simp only [hr, Bool.or_eq_true, decide_eq_true_eq] at h
    by_cases hc : r.rs.contains line = true
    · simp only [hc, if_true]
      rfl
    · simp only [hc, if_false, h.resolve_left hc, if_true, Bool.false_eq_true]
      rfl

/-- An untracked read enters nothing in the read set. -/
theorem tracked_untracked (s : State) (line : Nat) : s.tracked line true = s := by
  unfold State.tracked
  split <;> simp

/-- An untracked read brings what the run sees. -/
theorem readTracked_untracked (va : Nat) {l : List Byte} (h : s.seen pa sz = some l) : readTracked pa va sz true s = .ok (l, s) := by
  rw [readTracked, if_pos rfl]
  beta_reduce
  rw [M_bind_ok (M_get s)]
  unfold State.seen at h
  dsimp only at h ⊢
  split at h
  next hc =>
    rw [if_pos hc, ← Option.some.inj h]
    rfl
  next hc =>
    rw [if_neg hc]
    obtain ⟨m, hm, rfl⟩ := Option.map_eq_some_iff.1 h
    rw [hm]
    rfl

theorem readTracked_ok (va : Nat) {l : List Byte} (h : s.canTrack (pa / 64) untr = true) (hl : (s.tracked (pa / 64) untr).seen pa sz = some l) :
    readTracked pa va sz untr s = .ok (l, s.tracked (pa / 64) untr) := by
  rw [← readTracked_untracked va hl]
  cases untr with
  | true => rw [tracked_untracked]
  | false =>
    conv_lhs => rw [readTracked, if_neg Bool.false_ne_true, M_bind_ok (track_ok h)]
    rfl

theorem writeBuffer_ok {codec : Nat} {l : List Byte} (h : s.canBuffer pa = true) : writeBuffer pa codec l s = .ok ((), s.buffered pa codec l) := by
  rw [writeBuffer, M_bind_ok (M_get s), State.buffered]
  unfold State.canBuffer at h
  cases hr : (curElem s).run with
  | none => simp [hr] at h
  | some r =>
    simp only [hr] at h ⊢
    rw [if_pos h, modE_ok, modCur_congr]
    simp [hr]
end

/-- A load of sz bytes brings l and leaves t: its address is checked, and the bytes there are read. -/
def Brings (w : Dword) (k : AccKind) (bf off sz : Nat) (s : State) (l : List Byte) (t : State) : Prop :=
  ∃ a u, checkAt w k bf off sz s = .ok (a, u) ∧ loadAcc a sz u = .ok (l, t)

/-- A store of the low sz bytes of a register leaves t: its address is checked, and the register's bytes go there. -/
def Puts (w : Dword) (d : Reg) (bf off sz : Nat) (s t : State) : Prop :=
  ∃ a u, checkAt w .store bf off sz s = .ok (a, u) ∧ storeReg w d a sz u = .ok ((), t)

section
variable (w : Dword) {s : State} {k : AccKind} {bf off sz : Nat}

theorem brings_local {o : Nat} (h : s.localAt bf off sz = some o) (hp : lsPoisoned (curElem s) o sz = false) :
    Brings w k bf off sz s (memRead (curElem s).ls o sz) s := by
  refine ⟨_, _, checkAt_local w h, ?_⟩
  rw [loadAcc, lsLoad, M_bind_ok (getE_ok s), hp]
  rfl

theorem brings_mapped {r : Xlat} {t : State} {l : List Byte} (h : s.mappedAt k bf off sz = some (r, t))
    (hk : t.canTrack (r.pa / 64) r.untr = true) (hl : (t.tracked (r.pa / 64) r.untr).seen r.pa sz = some l) :
    Brings w k bf off sz s l (t.tracked (r.pa / 64) r.untr) := by
  obtain ⟨va, -, hc⟩ := checkAt_mapped w h
  exact ⟨_, _, hc, readTracked_ok va hk hl⟩

theorem brings_zero (h : s.zeroAt bf off sz = true) : Brings w k bf off sz s (List.replicate sz (0 : Byte)) s :=
  ⟨_, _, checkAt_zero w h, rfl⟩

theorem leNat_replicate_zero (n : Nat) : leNat (List.replicate n (0 : Byte)) = 0 := by
  induction n with
  | zero => rfl
  | succ n ih => rw [List.replicate_succ, leNat, ih]; rfl

variable {d : Reg}

theorem puts_local {o : Nat} (h : s.localAt bf off sz = some o) (hr : s.canRead d = true)
    (hb : sz = 8 ∨ (curElem s).lsBad.contains (o / 8) = false) (hl : (s.after1 d).canLog (o / 8) = true) :
    Puts w d bf off sz s ((s.after1 d).putLs o sz ((s.src1 d).toNat % 2 ^ (8 * sz))) := by
  refine ⟨_, _, checkAt_local w h, ?_⟩
  rw [storeReg, M_bind_ok (readReg_ok w s d hr), storeAcc, leBytes_length, leNat_leBytes]
  exact lsStore_ok _ _ _ _ hl (by rwa [after1_lsBad])

theorem puts_mapped {r : Xlat} {t : State} (h : s.mappedAt .store bf off sz = some (r, t)) (hr : t.canRead d = true)
    (hb : (t.after1 d).canBuffer r.pa = true) :
    Puts w d bf off sz s ((t.after1 d).buffered r.pa r.codec (leBytes sz (t.src1 d).toNat)) := by
  obtain ⟨va, -, hc⟩ := checkAt_mapped w h
  refine ⟨_, _, hc, ?_⟩
  rw [storeReg, M_bind_ok (readReg_ok w t d hr)]
  exact writeBuffer_ok hb

theorem puts_zero_workspace (h : s.zeroAt bf off sz = true) (hd : d.toNat ≤ 27) : Puts w d bf off sz s s := by
  refine ⟨_, _, checkAt_zero w h, ?_⟩
  rw [storeReg, if_pos hd]
  rfl

theorem puts_zero_port (h : s.zeroAt bf off sz = true) (hd : 28 ≤ d.toNat) (hr : s.canRead d = true) : Puts w d bf off sz s (s.after1 d) := by
  refine ⟨_, _, checkAt_zero w h, ?_⟩
  rw [storeReg, if_neg (by omega), M_bind_ok (takePort_ok w s d (by omega) hr)]
  rfl
end

end Sys2Proof.Scalar

/-! PROOF. Branches and jumps (O22): each one sets the sequencing state as a function of what it was, by R124. -/

namespace Sys2Proof.Scalar
open Sys2Proof.Machine

/-- The sequencing state is set from the one that it is known to be. -/
theorem setSeq_ok (f : Seq → Seq) (s : State) {q : Seq} (h : (curElem s).seq = q) :
    setSeq f s = .ok ((), modCur s (fun x => { x with seq := f q, afterEret := false })) := by
  rw [setSeq, modE_ok, modCur_congr]
  rw [h]

/-! ## Branches (R125) -/

/-- A branch goes by its condition to one of the sequencing states of R124. -/
theorem branchOp_ok (w : Dword) {s : State} {a b : Reg} (n : Bool) (disp : BitVec 15) (c : Dword → Dword → Bool) (hr : s.canRead2 a b = true) :
    let q := (curElem s).seq
    let r := if c (s.src1 a) (s.src2 a b) then seqTaken q (relTarget q.p (disp.signExtend 55)) else if n then seqAnnul q else seqNext q
    branchOp w a b n disp c s = .ok ((), modCur (s.after2 a b) (fun x => { x with seq := r, afterEret := false })) := by
  obtain ⟨ha, hb⟩ := canRead2_iff.1 hr
  intro q r
  have hq : (curElem (s.after2 a b)).seq = q := after2_seq s a b
  rw [branchOp, M_bind_ok (readReg_ok w s a ha), M_bind_ok (readReg_ok w _ b hb), ← State.src2, ← State.after2, M_bind_ok (getE_ok _), hq]
  dsimp only [r]
  split
  · exact setSeq_ok _ _ hq
  · split
    · exact setSeq_ok _ _ hq
    · exact setSeq_ok _ _ hq

/-- An instruction of the form branchOp branches on its condition. -/
theorem branches_of_branchOp {i : Reg → Reg → Bool → BitVec 15 → Instr} {c : Dword → Dword → Bool} {p : Dword → Dword → Prop}
    (hi : ∀ a b n disp s, exec (i a b n disp) s = performAs (branchOp (instrWord (i a b n disp)) a b n disp c) s)
    (hc : ∀ x y, c x y = true ↔ p x y) : Branches i p := by
  intro s a b n disp hr q goes
  have h := (hi a b n disp s).trans (performAs_ok (branchOp_ok (instrWord (i a b n disp)) n disp c hr))
  refine ⟨fun hp => ?taken, fun hp hn => ?on, fun hp hn => ?annulled⟩
  case taken => rw [h, if_pos ((hc _ _).2 hp)]; rfl
  case on => rw [h, if_neg (mt (hc _ _).1 hp), hn]; rfl
  case annulled => rw [h, if_neg (mt (hc _ _).1 hp), hn]; rfl

theorem conditionalBranches : ConditionalBranches := by
  refine ⟨?beq, ?bne, ?blt, ?bge, ?bltu, ?bgeu⟩
  all_goals refine branches_of_branchOp (fun _ _ _ _ _ => rfl) fun x y => ?_
  case beq => exact beq_iff_eq
  case bne => exact bne_iff_ne
  case blt => simp [BitVec.slt]
  case bge => simp [BitVec.slt]
  case bltu => simp [BitVec.ult]
  case bgeu => simp [BitVec.ult]

/-! ## Jumps (R126) -/

section
variable (w : Dword) {s : State} {a : Reg} (k : BitVec 16) (h27 : a.toNat ≤ 27) (hr : s.canRead a = true)
include h27 hr

/-- The target of JR and JALR, from a workspace register. -/
theorem regTarget_eq : regTarget w a k s =
    (if (s.src1 a + simm k).toNat % 4 != 0 then trap cALIGN (s.src1 a + simm k) else pure (s.src1 a + simm k) : M Dword) s := by
  rw [regTarget, M_bind_ok (readReg_ok w s a hr), after1_of_workspace h27]

theorem regTarget_ok (ht : (s.src1 a + simm k).toNat % 4 = 0) : regTarget w a k s = .ok (s.src1 a + simm k, s) := by
  rw [regTarget_eq w k h27 hr, if_neg (by rw [ht]; decide)]
  rfl

theorem regTarget_trap (ht : (s.src1 a + simm k).toNat % 4 ≠ 0) :
    regTarget w a k s = .error (.trap cALIGN (s.src1 a + simm k) s.marks) := by
  rw [regTarget_eq w k h27 hr, if_pos (bne_iff_ne.2 ht)]
  rfl
end

/-- A link is written before the jump, and leaves the sequencing state as it was. -/
theorem link_ok (w : Dword) {s : State} {d : Reg} (v : Dword) (t : Addr) (hw : s.canWrite d = true) :
    (do writeReg w d v; setSeq (fun q => seqTaken q t) : M Unit) s =
      .ok ((), modCur (s.putReg d v) (fun x => { x with seq := seqTaken (curElem s).seq t, afterEret := false })) := by
  rw [M_bind_ok (writeReg_ok w s d v hw)]
  exact setSeq_ok _ _ (putReg_seq s d v)

/-- An instruction that traps, having done nothing that a trap keeps. -/
theorem traps_of_performAs {i : Instr} {act : M Unit} {s : State} {c : Nat} {ev : Dword} (hi : exec i s = performAs act s)
    (h : act s = .error (.trap c ev s.marks)) : Traps i s c ev := by
  rw [Traps, hi, performAs_trap h, keepMarks_self]

theorem jumps : Jumps := by
  intro s d a disp k h27 hr q goes link target
  refine ⟨?j, fun hw => ?jal, fun ht => ⟨?jr, fun _ hw => ?jalr⟩, fun ht => ⟨?jrTraps, ?jalrTraps⟩⟩
  case j => exact performAs_ok (setSeq_ok (fun q => seqTaken q (relTarget q.p (disp.signExtend 55))) s rfl)
  case jal => exact performAs_ok ((M_bind_ok (getE_ok s)).trans (link_ok _ _ _ hw))
  case jr => exact performAs_ok ((M_bind_ok (regTarget_ok _ k h27 hr ht)).trans (setSeq_ok _ s rfl))
  case jalr => exact performAs_ok ((M_bind_ok (regTarget_ok _ k h27 hr ht)).trans ((M_bind_ok (getE_ok s)).trans (link_ok _ _ _ hw)))
  case jrTraps => exact traps_of_performAs rfl (M_bind_error (regTarget_trap _ k h27 hr ht))
  case jalrTraps => exact traps_of_performAs rfl (M_bind_error (regTarget_trap _ k h27 hr ht))

/-- Settles O22: the conditional branches, and the jumps with their links and targets. -/
theorem branchesAndJumps : Obligations.BranchesAndJumps := ⟨conditionalBranches, jumps⟩

end Sys2Proof.Scalar

/-! PROOF. The single loads and stores (O15, O16, O17): both have the form of an access, which checks its address and goes on with the place
it has found; so they trap alike, and a load or store completes as its three places say. -/

namespace Sys2Proof.Scalar
open Sys2Proof.Machine

/-! ## The form of an access (R117) -/

/-- What a single load and a single store have in common: the checks, and an act at the place that they find. -/
def accessOp (w : Dword) (k : AccKind) (bf : BitVec 4) (x : Reg) (disp : BitVec 12) (sz : Nat) (rest : Acc → M Unit) : M Unit := do
  bfPriv w bf.toNat
  let base ← readReg w x
  let a ← checkAt w k bf.toNat (memOff base disp sz) sz
  rest a

theorem loadOp_eq (w : Dword) (d : Reg) (bf : BitVec 4) (x : Reg) (disp : BitVec 12) (sz : Nat) (ext : Nat → Dword) :
    loadOp w d bf x disp sz ext = accessOp w .load bf x disp sz (fun a => do let l ← loadAcc a sz; writeReg w d (ext (leNat l))) := rfl

theorem storeOp_eq (w : Dword) (d : Reg) (bf : BitVec 4) (x : Reg) (disp : BitVec 12) (sz : Nat) :
    storeOp w d bf x disp sz = accessOp w .store bf x disp sz (fun a => storeReg w d a sz) := rfl

/-- Every single load and store is an access of its kind and size. -/
theorem exec_singleAccess {p : (Reg → BitVec 4 → Reg → BitVec 12 → Instr) × Nat × AccKind} (hp : p ∈ singleAccesses) (d : Reg) (bf : BitVec 4)
    (x : Reg) (disp : BitVec 12) :
    ∃ rest, ∀ s, exec (p.1 d bf x disp) s = perform (accessOp (instrWord (p.1 d bf x disp)) p.2.2 bf x disp p.2.1 rest) s := by
  simp only [singleAccesses, List.mem_cons, List.not_mem_nil, or_false] at hp
  rcases hp with rfl | rfl | rfl | rfl | rfl | rfl | rfl | rfl | rfl | rfl | rfl
  all_goals exact ⟨_, fun _ => rfl⟩

section
variable (w : Dword) {s : State} {k : AccKind} {bf : BitVec 4} {x : Reg} {disp : BitVec 12} {sz : Nat} {rest : Acc → M Unit}

theorem accessOp_priv (h : bf.toNat = 0 ∧ modeOf (curElem s) = 0) : accessOp w k bf x disp sz rest s = .error (.trap cPRIV w s.marks) := by
  rw [accessOp, M_bind_error (bfPriv_trap w h)]

/-- Once the address register has been read, the access is its check, and the act at the place found. -/
theorem accessOp_eq (hm : ¬ (bf.toNat = 0 ∧ modeOf (curElem s) = 0)) (hx : s.canRead x = true) :
    accessOp w k bf x disp sz rest s = (checkAt w k bf.toNat (memOff (s.src1 x) disp sz) sz >>= rest) (s.after1 x) := by
  rw [accessOp, M_bind_ok (bfPriv_ok w hm), M_bind_ok (readReg_ok w s x hx)]
end

/-! ## Completing (R118, R278) -/

section
variable (w : Dword) {s t : State} {d : Reg} {bf : BitVec 4} {x : Reg} {disp : BitVec 12} {sz : Nat}

/-- The mode that the checks ask for is not changed by reading the address register. -/
theorem not_priv_after1 (h : ¬ (bf.toNat = 0 ∧ modeOf (curElem (s.after1 x)) = 0)) : ¬ (bf.toNat = 0 ∧ modeOf (curElem s) = 0) := by
  rwa [modeOf, after1_csr] at h

theorem loadOp_ok {ext : Nat → Dword} {l : List Byte} (hx : s.canRead x = true) (hm : ¬ (bf.toNat = 0 ∧ modeOf (curElem (s.after1 x)) = 0))
    (hb : Brings w .load bf.toNat (memOff (s.src1 x) disp sz) sz (s.after1 x) l t) (hw : t.canWrite d = true) :
    loadOp w d bf x disp sz ext s = .ok ((), t.putReg d (ext (leNat l))) := by
  obtain ⟨a, u, hc, hl⟩ := hb
  rw [loadOp_eq, accessOp_eq w (not_priv_after1 hm) hx, M_bind_ok hc, M_bind_ok hl, writeReg_ok w t d _ hw]

theorem storeOp_ok (hx : s.canRead x = true) (hm : ¬ (bf.toNat = 0 ∧ modeOf (curElem (s.after1 x)) = 0))
    (hb : Puts w d bf.toNat (memOff (s.src1 x) disp sz) sz (s.after1 x) t) : storeOp w d bf x disp sz s = .ok ((), t) := by
  obtain ⟨a, u, hc, hl⟩ := hb
  rw [storeOp_eq, accessOp_eq w (not_priv_after1 hm) hx, M_bind_ok hc, hl]
end

theorem loads_of_loadOp {i : Reg → BitVec 4 → Reg → BitVec 12 → Instr} {sz : Nat} {ext : Nat → Dword}
    (hi : ∀ d bf x disp s, exec (i d bf x disp) s = perform (loadOp (instrWord (i d bf x disp)) d bf x disp sz ext) s) (h0 : ext 0 = 0) :
    Loads i sz ext := by
  intro s d bf x disp hx u off
  refine ⟨fun o ho hp hw => ?loc, fun r t l ht hk hl hw => ?mapped, fun hz hw => ?zero⟩
  case loc => exact does_of_perform (hi ..) (loadOp_ok _ hx (not_priv_of_localAt ho) (brings_local _ ho hp) hw)
  case mapped => exact does_of_perform (hi ..) (loadOp_ok _ hx (not_priv_of_mappedAt ht) (brings_mapped _ ht hk hl) hw)
  case zero =>
    have h := loadOp_ok (ext := ext) (instrWord (i d bf x disp)) hx (not_priv_of_zeroAt hz) (brings_zero _ hz) hw
    rw [leNat_replicate_zero, h0] at h
    exact does_of_perform (hi ..) h

theorem stores_of_storeOp {i : Reg → BitVec 4 → Reg → BitVec 12 → Instr} {sz : Nat}
    (hi : ∀ d bf x disp s, exec (i d bf x disp) s = perform (storeOp (instrWord (i d bf x disp)) d bf x disp sz) s) : Stores i sz := by
  intro s d bf x disp hx u off
  refine ⟨fun o ho hr hb hl => ?loc, fun r t ht hr hb => ?mapped, fun hz => ⟨fun hd => ?workspace, fun hd hr => ?port⟩⟩
  case loc => exact does_of_perform (hi ..) (storeOp_ok _ hx (not_priv_of_localAt ho) (puts_local _ ho hr hb hl))
  case mapped => exact does_of_perform (hi ..) (storeOp_ok _ hx (not_priv_of_mappedAt ht) (puts_mapped _ ht hr hb))
  case workspace => exact does_of_perform (hi ..) (storeOp_ok _ hx (not_priv_of_zeroAt hz) (puts_zero_workspace _ hz hd))
  case port => exact does_of_perform (hi ..) (storeOp_ok _ hx (not_priv_of_zeroAt hz) (puts_zero_port _ hz hd hr))

theorem singleLoads : SingleLoads := by
  refine ⟨?ldb, ?ldbu, ?ldh, ?ldhu, ?ldw, ?ldwu, ?ldd⟩
  all_goals exact loads_of_loadOp (fun _ _ _ _ _ => rfl) rfl

theorem singleStores : SingleStores := by
  refine ⟨?stb, ?sth, ?stw, ?std⟩
  all_goals exact stores_of_storeOp (fun _ _ _ _ _ => rfl)

/-- Settles O15: a load brings its bytes from one of three places, and a store puts them there. -/
theorem singleAccesses : Obligations.SingleAccesses := ⟨singleLoads, singleStores⟩

/-! ## Traps (R117, R367) -/

theorem traps_of_perform {i : Instr} {act : M Unit} {s : State} {c : Nat} {ev : Dword} (hi : exec i s = perform act s)
    (h : act s = .error (.trap c ev s.marks)) : Traps i s c ev := by
  rw [Traps, hi, perform_trap h, keepMarks_self]

/-- Settles O16: each check of an address traps before anything has been done, but for a translation's marks. -/
theorem accessTraps : Obligations.AccessTraps := by
  intro p hp s d bf x disp i sz off rec'
  obtain ⟨rest, hi⟩ := exec_singleAccess hp d bf x disp
  have hbf : (bf.toNat == 0) = (bf == 0) := by rw [Bool.eq_iff_iff, beq_iff_eq, beq_iff_eq, ← BitVec.toNat_inj]; rfl
  have hbf' : bf.toNat = 0 ↔ bf = 0 := by rw [← BitVec.toNat_inj]; rfl
  refine ⟨fun h hm => traps_of_perform (hi s) (accessOp_priv _ ⟨hbf'.2 h, hm⟩), fun h27 hx hpriv => ?_⟩
  have hm : ¬ (bf.toNat = 0 ∧ modeOf (curElem s) = 0) := fun h => hpriv ⟨hbf'.1 h.1, h.2⟩
  have hstop {e : Stop} (hc : checkAt (instrWord i) p.2.2 bf.toNat off sz s = .error e) :
      accessOp (instrWord i) p.2.2 bf x disp sz rest s = .error e := by
    rw [accessOp_eq _ hm hx, after1_of_workspace h27, M_bind_error hc]
  rw [← hbf]
  refine ⟨fun hb => traps_of_perform (hi s) (hstop (checkAt_bounds _ hm hb)), ?_⟩
  intro o hb va
  refine ⟨fun h => ?prot, fun hlt h => ?align, fun hlt hal hge h => ?beyondLs, fun hal hlt => ⟨?fault, ?beyond⟩⟩
  case prot => exact traps_of_perform (hi s) (hstop (checkAt_prot _ hm hb rfl h))
  case align => exact traps_of_perform (hi s) (hstop (checkAt_align _ hm hb rfl hlt h))
  case beyondLs => exact traps_of_perform (hi s) (hstop (checkAt_beyond_ls _ hm hb rfl hlt hal hge h))
  case fault =>
    intro e he
    exact (hi s).trans (perform_trap (hstop ((checkAt_xlat _ hm hb rfl hal hlt).trans (xlatAcc_error he))))
  case beyond =>
    intro r u hr hbey
    exact (hi s).trans (perform_trap (hstop ((checkAt_xlat _ hm hb rfl hal hlt).trans (xlatAcc_beyond hr hbey))))

/-! ## What a store leaves unchanged (R21, R118) -/

theorem tfind_tput_other {α : Type} (t : Tbl α) {a b : Nat} (x : α) (h : b ≠ a) : tfind (tput t a x) b = tfind t b := by
  have hab : (a == b) = false := beq_eq_false_iff_ne.2 h.symm
  induction t with
  | nil => simp [tput, tfind, hab]
  | cons p t ih =>
    obtain ⟨k, v⟩ := p
    rw [tput]
    split
    · rw [tfind, hab]
      rfl
    · split
      next hk =>
        obtain rfl := beq_iff_eq.1 hk
        simp only [tfind, hab]
        rfl
      next => simp only [tfind, ih]

/-- Buffered bytes stand at their own addresses. -/
theorem tfind_buffered_outside {codec : Nat} (l : List Byte) {pa a : Nat} (t : Tbl (Byte × Nat)) (h : a < pa ∨ pa + l.length ≤ a) :
    tfind (((span pa l.length).zip l).foldl (fun t x => tput t x.1 (x.2, codec)) t) a = tfind t a := by
  induction l generalizing pa t with
  | nil => rfl
  | cons b l ih =>
    rw [List.length_cons] at h
    rw [List.length_cons, span, List.zip_cons_cons, List.foldl_cons, ih _ (by omega), tfind_tput_other _ _ (by omega)]

theorem contains_lsBad_putElem (x : Elem) {off n v d : Nat} (h : d ≠ off / 8) : (putElem x off n v).lsBad.contains d = x.lsBad.contains d := by
  rw [putElem, contains_lsBad_lsWrite _ _ _ _ h, logElem_lsBad]

theorem onlyCur_buffered (s : State) (pa codec : Nat) (l : List Byte) : OnlyCur s (s.buffered pa codec l) := .modCur s _

theorem onlyCur_advance {s t : State} (h : OnlyCur s t) : OnlyCur s (advance t) := h.after_modCur _

/-- An instruction that completes answers the state that it is said to leave. -/
theorem eq_advance_of_does {i : Instr} {s t u : State} (h : Does i s u) (ht : exec i s = .next t) : t = advance u := by
  rw [Does, ht] at h
  exact Host.Outcome.next.inj h

/-- A store into local store changes the bytes that it computes the place of, their poison and the undo log. -/
theorem frame_putLs (s : State) (o n v : Nat) :
    let t := advance (s.putLs o n v)
    let y := curElem s
    let z := curElem t
    { t with elems := s.elems } = s ∧ (∀ e, e ≠ s.cur → elem t e = elem s e) ∧
    { z with ls := y.ls, lsBad := y.lsBad, lsTodo := y.lsTodo, seq := y.seq, afterEret := y.afterEret, run := y.run } = y ∧ z.seq = seqNext y.seq ∧
    (∀ a : Nat, a < o ∨ o + n ≤ a → memGet z.ls a = memGet y.ls a) ∧
    (∀ d : Nat, d ≠ o / 8 → z.lsBad.contains d = y.lsBad.contains d) ∧
    (∀ u r : Run, y.run = some u → z.run = some r → { r with undo := u.undo } = u) := by
  intro t y z
  have hcur : OnlyCur s t := onlyCur_advance (onlyCur_putLs s o n v)
  have hz : z = { putElem y o n v with seq := seqNext (putElem y o n v).seq, afterEret := false } := by
    show curElem (advance _) = _
    rw [advance, curElem_modCur, curElem_putLs]
  refine ⟨hcur.1, hcur.2, ?_, ?_, fun a ha => ?_, fun d hd => ?_, fun u r hu hr => ?_⟩
  · rw [hz, putElem_eq]
  · rw [hz, putElem_seq]
  · rw [hz]; exact memGet_putElem_outside y v ha
  · rw [hz]; exact contains_lsBad_putElem y hd
  · rw [hz] at hr
    exact logElem_run hu ((putElem_run y o n v).symm.trans hr)

/-- A store elsewhere changes the stored bytes of the write buffer. -/
theorem frame_buffered (s : State) (pa codec : Nat) (l : List Byte) :
    let t := advance (s.buffered pa codec l)
    let y := curElem s
    let z := curElem t
    { t with elems := s.elems } = s ∧ (∀ e, e ≠ s.cur → elem t e = elem s e) ∧
    { z with seq := y.seq, afterEret := y.afterEret, run := y.run } = y ∧ z.seq = seqNext y.seq ∧
    (∀ v w : Run, y.run = some v → z.run = some w →
      { w with wb := v.wb } = v ∧ ∀ a : Nat, a < pa ∨ pa + l.length ≤ a → tfind w.wb a = tfind v.wb a) := by
  intro t y z
  have hcur : OnlyCur s t := onlyCur_advance (onlyCur_buffered s pa codec l)
  have hz : z = { y with seq := seqNext y.seq, afterEret := false, run := y.run.map (fun r =>
      { r with wb := ((span pa l.length).zip l).foldl (fun t x => tput t x.1 (x.2, codec)) r.wb }) } := by
    show curElem (advance _) = _
    rw [advance, curElem_modCur, State.buffered, curElem_modCur]
  refine ⟨hcur.1, hcur.2, by rw [hz], by rw [hz], fun v w hv hw => ?_⟩
  rw [hz] at hw
  simp only [hv, Option.map_some, Option.some.injEq] at hw
  subst hw
  exact ⟨rfl, fun a ha => tfind_buffered_outside l _ ha⟩

theorem stores_of_mem {p : (Reg → BitVec 4 → Reg → BitVec 12 → Instr) × Nat}
    (hp : p ∈ [((.stb : Reg → BitVec 4 → Reg → BitVec 12 → Instr), 1), (.sth, 2), (.stw, 4), (.std, 8)]) : Stores p.1 p.2 := by
  obtain ⟨hb, hh, hw, hd⟩ := singleStores
  simp only [List.mem_cons, List.not_mem_nil, or_false] at hp
  rcases hp with rfl | rfl | rfl | rfl
  · exact hb
  · exact hh
  · exact hw
  · exact hd

/-- Settles O17: by O15 a store leaves the state with its bytes put in local store, with its bytes buffered, or as it was. -/
theorem storeFrame : Obligations.StoreFrame := by
  intro p hp s t d bf x disp hd hx hr ht off z
  obtain ⟨hloc, hmapped, hzero⟩ := stores_of_mem hp s d bf x disp hr
  rw [after1_of_workspace hx] at hloc hmapped hzero
  refine ⟨fun o ho hrd hlog hb => ?loc, fun r u hu hrd hbuf => ?mapped, fun hz => ?zero⟩
  case loc =>
    have h := hloc o ho hrd hb (by rwa [after1_of_workspace hd])
    rw [after1_of_workspace hd] at h
    obtain rfl := eq_advance_of_does h ht
    exact frame_putLs ..
  case mapped =>
    have h := hmapped r u hu hrd (by rwa [after1_of_workspace hd])
    rw [after1_of_workspace hd] at h
    obtain rfl := eq_advance_of_does h ht
    have hf := frame_buffered u r.pa r.codec (leBytes p.2 (u.src1 d).toNat)
    rw [leBytes_length, (mappedAt_elem hu).1] at hf
    exact hf
  case zero => exact eq_advance_of_does ((hzero hz).1 hd) ht

end Sys2Proof.Scalar

/-! PROOF. LDM and STM (O18). Their loop is followed from its first dword to the one where it ends, waits for its next execution or traps; a run of
dwords in local store is a state of its own, of which the two instructions' results are read off. -/

namespace Sys2Proof.Scalar
open Sys2Proof.Machine

/-! ## The loop of R119 -/

section
variable {line : Nat → State → Option Nat} {one : Nat → M Unit} {n i : Nat} {last : Option Nat} {s t : State}

/-- A transfer goes on to the i-th dword unless it lies on another line than one before it (R277). -/
def SameLine (last l : Option Nat) : Prop := ∀ a b, last = some a → l = some b → a = b

theorem multiLoop_succ (h : SameLine last (line i s)) : multiLoop line one (n + 1) i last s =
    (match one i s with
      | .ok (_, t) => do set t; multiLoop line one n (i + 1) (if (line i s).isSome then line i s else last)
      | .error (.trap c ev m) => throw (.trapIn (modCur (keepMarks s m) (fun x => setEprog x i)) c ev)
      | .error (.full m) => throw (.wait (modCur (keepMarks s m) (fun x => { setVdone x i with stall := .full })))
      | .error e => throw e : M Unit) s := by
  have hc : ¬ (last.isSome && (line i s).isSome && last != line i s) = true := by
    cases hl : last <;> cases hi : line i s
    case some.some a b => simp [h a b hl hi]
    all_goals simp
  rw [multiLoop, M_bind_ok (M_get s)]
  exact congrFun (if_neg hc) s

theorem multiLoop_ok (h : SameLine last (line i s)) (h1 : one i s = .ok ((), t)) : multiLoop line one (n + 1) i last s =
    multiLoop line one n (i + 1) (if (line i s).isSome then line i s else last) t := by
  rw [multiLoop_succ h, h1]
  exact M_bind_ok (M_set s t)

theorem multiLoop_trap {c : Nat} {ev : Dword} {m : List Kept} (h : SameLine last (line i s)) (h1 : one i s = .error (.trap c ev m)) :
    multiLoop line one (n + 1) i last s = .error (.trapIn (modCur (keepMarks s m) (fun x => setEprog x i)) c ev) := by
  rw [multiLoop_succ h, h1]
  rfl

/-- Another line is left to the instruction's next execution. -/
theorem multiLoop_wait {a b : Nat} (hl : last = some a) (hi : line i s = some b) (hab : a ≠ b) :
    multiLoop line one (n + 1) i last s = .error (.wait (modCur s (fun x => setVdone x i))) := by
  rw [multiLoop, M_bind_ok (M_get s)]
  dsimp only
  rw [hl, hi, if_pos (by simpa using hab)]
  rfl

end

/-- The line behind a transfer of the dwords from st to k: that of every one of them that has one. -/
def LastLine (l : Nat → Option Nat) (st k : Nat) (last : Option Nat) : Prop :=
  (∀ a, last = some a → ∃ m, st ≤ m ∧ m < k ∧ l m = some a) ∧ ∀ m a, st ≤ m → m < k → l m = some a → last = some a

/-- The dwords from st to k lie on one line. -/
def OneLine (l : Nat → Option Nat) (st k : Nat) : Prop :=
  ∀ m n a b, st ≤ m → m < k → st ≤ n → n < k → l m = some a → l n = some b → a = b

section
variable {line : Nat → State → Option Nat} {one : Nat → M Unit} {u : Nat → State} {st k N : Nat}

/-- The loop reaches its k-th dword, with the line behind it. -/
theorem multiLoop_reaches (hst : st ≤ k) (hk : k ≤ N) (hone : ∀ n, st ≤ n → n < k → one n (u n) = .ok ((), u (n + 1)))
    (hline : OneLine (fun n => line n (u n)) st k) :
    ∃ last, LastLine (fun n => line n (u n)) st k last ∧
      multiLoop line one (N - st) st none (u st) = multiLoop line one (N - k) k last (u k) := by
  induction k, hst using Nat.le_induction with
  | base => exact ⟨none, ⟨nofun, fun m a h1 h2 => absurd h2 (by omega)⟩, rfl⟩
  | succ k hst ih =>
    obtain ⟨last, ⟨hfrom, hall⟩, he⟩ := ih (by omega) (fun n h1 h2 => hone n h1 (by omega))
      (fun m n a b h1 h2 h3 h4 => hline m n a b h1 (by omega) h3 (by omega))
    have hsame : SameLine last (line k (u k)) := by
      intro a b ha hb
      obtain ⟨m, h1, h2, hm⟩ := hfrom a ha
      exact hline m k a b h1 (by omega) hst (by omega) hm hb
    have hNk : N - k = N - (k + 1) + 1 := by omega
    refine ⟨_, ⟨fun a ha => ?_, fun m a h1 h2 hm => ?_⟩, he.trans (hNk ▸ multiLoop_ok hsame (hone k hst (by omega)))⟩
    · split at ha
      · exact ⟨k, hst, by omega, ha⟩
      · obtain ⟨m, h1, h2, hm⟩ := hfrom a ha
        exact ⟨m, h1, by omega, hm⟩
    · rcases Nat.lt_succ_iff_lt_or_eq.1 h2 with h2 | rfl
      · split
        next hs =>
          obtain ⟨b, hb⟩ := Option.isSome_iff_exists.1 hs
          rw [hb, hsame a b (hall m a h1 h2 hm) hb]
        next => exact hall m a h1 h2 hm
      · simp only at hm
        rw [hm]
        rfl
end

/-- LDM and STM start where their last execution left off, at EPROG, or at the first dword. -/
theorem multiOp_eq (cnt : Reg) (line : Nat → State → Option Nat) (one : Nat → M Unit) (s : State) : multiOp cnt line one s =
    (multiLoop line one (cnt.toNat - s.firstDword) s.firstDword none >>= fun _ => modE (fun y => setEprog (setVdone y 0) 0)) s := by
  rw [multiOp, M_bind_ok (getE_ok s)]
  simp only [State.firstDword, bne_iff_ne]

section
variable {line : Nat → State → Option Nat} {one : Nat → M Unit} {u : Nat → State} {k : Nat} {cnt : Reg} {s : State}
  (hst : s.firstDword ≤ k) (hs : u s.firstDword = s) (hone : ∀ n, s.firstDword ≤ n → n < k → one n (u n) = .ok ((), u (n + 1)))
  (hline : OneLine (fun n => line n (u n)) s.firstDword k)
include hst hs hone hline

theorem multiOp_done (hk : k = cnt.toNat) : multiOp cnt line one s = .ok ((), modCur (u k) (fun y => setEprog (setVdone y 0) 0)) := by
  subst hk
  obtain ⟨last, -, he⟩ := multiLoop_reaches hst le_rfl hone hline
  rw [hs, Nat.sub_self] at he
  rw [multiOp_eq, M_bind_ok (he.trans (M_pure _ _)), modE_ok]

theorem multiOp_waits (hk : k < cnt.toNat) {m a b : Nat} (hm : s.firstDword ≤ m) (hmk : m < k) (ha : line m (u m) = some a)
    (hb : line k (u k) = some b) (hab : a ≠ b) : multiOp cnt line one s = .error (.wait (modCur (u k) (fun y => setVdone y k))) := by
  obtain ⟨last, ⟨-, hall⟩, he⟩ := multiLoop_reaches hst hk.le hone hline
  rw [hs, show cnt.toNat - k = cnt.toNat - (k + 1) + 1 by omega, multiLoop_wait (hall m a hm hmk ha) hb hab] at he
  rw [multiOp_eq, M_bind_error he]

theorem multiOp_traps (hk : k < cnt.toNat) (hl : line k (u k) = none) {c : Nat} {ev : Dword} {m : List Kept}
    (ht : one k (u k) = .error (.trap c ev m)) :
    multiOp cnt line one s = .error (.trapIn (modCur (keepMarks (u k) m) (fun x => setEprog x k)) c ev) := by
  obtain ⟨last, -, he⟩ := multiLoop_reaches hst hk.le hone hline
  have hsame : SameLine last (line k (u k)) := fun a b _ hb => by rw [hl] at hb; cases hb
  rw [hs, show cnt.toNat - k = cnt.toNat - (k + 1) + 1 by omega, multiLoop_trap hsame ht] at he
  rw [multiOp_eq, M_bind_error he]
end


/-! ## The dwords of LDM and STM -/

section
variable {s t : State} {k : AccKind} {bf off sz : Nat} (w : Dword)

theorem checkAt_priv (h : bf = 0 ∧ modeOf (curElem s) = 0) : checkAt w k bf off sz s = .error (.trap cPRIV w s.marks) := by
  rw [checkAt, M_bind_ok (M_get s)]
  dsimp only
  rw [if_pos (by simpa using h)]
  rfl

/-- A translation that succeeds within the usable banks leads to its physical address, and to nothing else. -/
theorem xlatAcc_ok {asid va : Nat} {untr : Bool} {a : Acc} (h : xlatAcc k asid va untr s = .ok (a, t)) :
    ∃ r, translate s (.element s.cur) asid va (modeOf (curElem s)) k = .ok (r, t) ∧ r.beyond = false ∧
      a = .phys r.pa va r.codec (untr || r.untr) := by
  cases hx : translate s (.element s.cur) asid va (modeOf (curElem s)) k with
  | error e => rw [xlatAcc_error hx] at h; cases h
  | ok p =>
    obtain ⟨r, v⟩ := p
    cases hb : r.beyond with
    | true => rw [xlatAcc_beyond hx hb] at h; cases h
    | false =>
      rw [xlatAcc, M_bind_ok (M_get s)] at h
      simp only [hx] at h
      rw [M_bind_ok (M_set s v), hb] at h
      cases h
      exact ⟨r, rfl, hb, rfl⟩

/-- An address that leads to physical memory has been translated. -/
theorem mappedAt_of_checkAt {pa va codec : Nat} {untr : Bool} (h : checkAt w k bf off sz s = .ok (.phys pa va codec untr, t)) :
    ∃ r, s.mappedAt k bf off sz = some (r, t) ∧ r.pa = pa := by
  by_cases hp : bf = 0 ∧ modeOf (curElem s) = 0
  · rw [checkAt_priv w hp] at h; cases h
  rcases hb : boundOff (bfReg (curElem s) bf) (bf == 0) off sz with _ | ⟨o, _ | _⟩
  · rw [checkAt_bounds w hp hb] at h; cases h
  · rw [checkAt_eq w hp, hb] at h; cases h
  rcases Nat.lt_or_ge ((recBase (bfReg (curElem s) bf) + o) % 2 ^ 64) (2 ^ 55) with hlt | hge
  swap
  · rw [checkAt_prot w hp hb rfl hge] at h; cases h
  by_cases hal : ((recBase (bfReg (curElem s) bf) + o) % 2 ^ 64) % sz = 0
  swap
  · rw [checkAt_align w hp hb rfl hlt hal] at h; cases h
  have hva := accessVa_of_bound hp hb rfl hlt hal
  rw [checkAt_of_accessVa w hva] at h
  cases hin : inLs ((recBase (bfReg (curElem s) bf) + o) % 2 ^ 64) with
  | true =>
    rw [hin, if_pos rfl] at h
    rcases hl : lsCheck ((recBase (bfReg (curElem s) bf) + o) % 2 ^ 64) sz s with e | ⟨o', u⟩
    · rw [M_bind_error hl] at h; cases h
    · rw [M_bind_ok hl] at h; cases h
  | false =>
    rw [hin, if_neg Bool.false_ne_true] at h
    obtain ⟨r, ht, hbey, ha⟩ := xlatAcc_ok h
    cases ha
    exact ⟨_, mappedAt_eq_some_iff.2 ⟨_, r, hva, hin, ht, hbey, rfl⟩, rfl⟩

/-- The line of an LDM's dword is that of its translation (R277). -/
theorem multiLine_eq (bf : BitVec 4) (disp : BitVec 12) (i : Nat) (s : State) :
    multiLine w bf disp i s = s.lineAt bf.toNat (multiOff disp i) 8 := by
  rw [State.lineAt]
  cases hm : s.mappedAt .load bf.toNat (multiOff disp i) 8 with
  | some p =>
    obtain ⟨va, -, hc⟩ := checkAt_mapped w hm
    rw [multiLine, hc]
    rfl
  | none =>
    unfold multiLine
    split
    next hc =>
      obtain ⟨r, hr, -⟩ := mappedAt_of_checkAt w hc
      rw [hm] at hr
      cases hr
    next => rfl
end

/-- The act of LDM and STM at one dword: its address is checked, and the dword moved. -/
def multiAct (w : Dword) (k : AccKind) (bf : BitVec 4) (disp : BitVec 12) (rest : Nat → Acc → M Unit) (i : Nat) : M Unit := do
  let a ← checkAt w k bf.toNat (multiOff disp i) 8
  rest i a

/-- LDM moves a dword into a register. -/
def loadDword (w : Dword) (d : Reg) (i : Nat) (a : Acc) : M Unit := do
  let l ← loadAcc a 8
  writeReg w (regPlus d i) (dw (leNat l))

/-- STM moves a register's dword. -/
def storeDword (w : Dword) (d : Reg) (i : Nat) (a : Acc) : M Unit := storeReg w (regPlus d i) a 8

section
variable (d : Reg) (bf : BitVec 4) (cnt : Reg) (disp : BitVec 12) (s : State)

theorem exec_ldm : exec (.ldm d bf cnt disp) s = perform (multiOp cnt (multiLine (instrWord (.ldm d bf cnt disp)) bf disp)
    (multiAct (instrWord (.ldm d bf cnt disp)) .load bf disp (loadDword (instrWord (.ldm d bf cnt disp)) d))) s := rfl

theorem exec_stm : exec (.stm d bf cnt disp) s = perform (multiOp cnt (fun _ _ => none)
    (multiAct (instrWord (.stm d bf cnt disp)) .store bf disp (storeDword (instrWord (.stm d bf cnt disp)) d))) s := rfl
end

section
variable {s t : State} {bf : BitVec 4} {disp : BitVec 12} {d : Reg} {n : Nat} (w : Dword)

theorem multiAct_load (h : s.loadsDword t bf.toNat (multiOff disp n) (regPlus d n)) :
    multiAct w .load bf disp (loadDword w d) n s = .ok ((), t) := by
  have of_brings {l : List Byte} {u : State} (hb : Brings w .load bf.toNat (multiOff disp n) 8 s l u)
      (hw : u.canWrite (regPlus d n) = true) :
      multiAct w .load bf disp (loadDword w d) n s = .ok ((), u.putReg (regPlus d n) (dw (leNat l))) := by
    obtain ⟨a, v, hc, hl⟩ := hb
    rw [multiAct, M_bind_ok hc, loadDword, M_bind_ok hl, writeReg_ok w u _ _ hw]
  rcases h with ⟨o, ho, hp, hw, rfl⟩ | ⟨r, u, l, hm, hk, hl, hw, rfl⟩ | ⟨hz, hw, rfl⟩
  · exact of_brings (brings_local w ho hp) hw
  · exact of_brings (brings_mapped w hm hk hl) hw
  · have h := of_brings (brings_zero w hz) hw
    rwa [leNat_replicate_zero] at h

theorem multiAct_store (hn : (regPlus d n).toNat ≤ 27) (h : s.storesDword t bf.toNat (multiOff disp n) (regPlus d n)) :
    multiAct w .store bf disp (storeDword w d) n s = .ok ((), t) := by
  have of_puts {u : State} (hb : Puts w (regPlus d n) bf.toNat (multiOff disp n) 8 s u) :
      multiAct w .store bf disp (storeDword w d) n s = .ok ((), u) := by
    obtain ⟨a, v, hc, hl⟩ := hb
    rw [multiAct, M_bind_ok hc, storeDword, hl]
  rcases h with ⟨o, ho, hr, hl, rfl⟩ | ⟨r, u, hm, hr, hb, rfl⟩ | ⟨hz, rfl⟩
  · have h := of_puts (puts_local w ho hr (.inl rfl) hl)
    rwa [show 2 ^ (8 * 8) = 2 ^ 64 by rfl, Nat.mod_eq_of_lt (BitVec.isLt _)] at h
  · exact of_puts (puts_mapped w hm hr hb)
  · exact of_puts (puts_zero_workspace w hz hn)
end

theorem multiOk_iff {d cnt : Reg} :
    multiOk d cnt = true ↔ 1 ≤ d.toNat ∧ 1 ≤ cnt.toNat ∧ cnt.toNat ≤ 27 ∧ d.toNat + cnt.toNat ≤ 28 := by
  simp [multiOk]

/-- The i-th register of a run. -/
theorem regPlus_toNat {d cnt : Reg} {i : Nat} (h : multiOk d cnt = true) (hi : i < cnt.toNat) : (regPlus d i).toNat = d.toNat + i := by
  obtain ⟨-, -, -, h28⟩ := multiOk_iff.1 h
  rw [regPlus, BitVec.toNat_ofNat, Nat.mod_eq_of_lt (by omega)]

/-- They are workspace registers, and not w0. -/
theorem regPlus_workspace {d cnt : Reg} {i : Nat} (h : multiOk d cnt = true) (hi : i < cnt.toNat) :
    1 ≤ (regPlus d i).toNat ∧ (regPlus d i).toNat ≤ 27 := by
  obtain ⟨h1, -, -, h28⟩ := multiOk_iff.1 h
  rw [regPlus_toNat h hi]
  omega

theorem wOff_add (x : Elem) (a b : Nat) : wOff x (a + b) = wOff x a + 8 * b := by rw [wOff, wOff]; omega

/-- Consecutive registers are consecutive dwords. -/
theorem wOff_regPlus {d cnt : Reg} {i : Nat} (h : multiOk d cnt = true) (hi : i < cnt.toNat) (x : Elem) :
    wOff x (regPlus d i).toNat = wOff x d.toNat + 8 * i := by rw [regPlus_toNat h hi, wOff_add]

/-! ## Traps (R119, R304, R348) -/

theorem noteMcheck_of_ne {s : State} {c : Nat} (ev : Dword) (h : c ≠ cMCHECK) : noteMcheck s c ev = s := by
  rw [noteMcheck, if_neg (by simpa using h)]

section
variable {i : Instr} {cnt : Reg} {line : Nat → State → Option Nat} {rest : Nat → Acc → M Unit} {w : Dword} {ak : AccKind} {bf : BitVec 4}
  {disp : BitVec 12} {u : Nat → State} {k : Nat} {s : State}

/-- A check that fails at the k-th dword leaves the instruction there. -/
theorem multipleTraps_of_multiOp (hi : exec i s = perform (multiOp cnt line (multiAct w ak bf disp rest)) s) (hst : s.firstDword ≤ k)
    (hs : u s.firstDword = s) (hone : ∀ n, s.firstDword ≤ n → n < k → multiAct w ak bf disp rest n (u n) = .ok ((), u (n + 1)))
    (hline : OneLine (fun n => line n (u n)) s.firstDword k) (hk : k < cnt.toNat)
    (hl : ∀ e, checkAt w ak bf.toNat (multiOff disp k) 8 (u k) = .error e → line k (u k) = none) :
    MultipleTraps i s (u k) ak bf (multiOff disp k) k := by
  unfold MultipleTraps
  intro rec' v hpriv
  have hbf : (bf.toNat == 0) = (bf == 0) := by rw [Bool.eq_iff_iff, beq_iff_eq, beq_iff_eq, ← BitVec.toNat_inj]; rfl
  have hp : ¬ (bf.toNat = 0 ∧ modeOf (curElem (u k)) = 0) := fun h => hpriv ⟨by rw [← BitVec.toNat_inj]; exact h.1, h.2⟩
  have htrap {c : Nat} {ev : Dword} {m : List Kept} (hc : checkAt w ak bf.toNat (multiOff disp k) 8 (u k) = .error (.trap c ev m)) :
      exec i s = .next (takeTrap (noteMcheck (v m) c ev) c ev) := by
    have ht : multiAct w ak bf disp rest k (u k) = .error (.trap c ev m) := M_bind_error hc
    rw [hi, perform, multiOp_traps hst hs hone hline hk (hl _ hc) ht]
    rfl
  have hbounds {ev : Dword} {m : List Kept} (hc : checkAt w ak bf.toNat (multiOff disp k) 8 (u k) = .error (.trap cBOUNDS ev m)) :
      exec i s = .next (takeTrap (v m) cBOUNDS ev) := by
    rw [htrap hc, noteMcheck_of_ne _ (by decide)]
  rw [← hbf]
  refine ⟨fun hb => hbounds (checkAt_bounds w hp hb), ?_⟩
  intro o hb va tr hal hlt
  refine ⟨fun e he => ?fault, fun r x hr hbey => ?beyond⟩
  case fault => exact htrap ((checkAt_xlat w hp hb rfl hal hlt).trans (xlatAcc_error he))
  case beyond => exact hbounds ((checkAt_xlat w hp hb rfl hal hlt).trans (xlatAcc_beyond hr hbey))
end

/-! ## Dword by dword -/

theorem loadsByDword : LoadsByDword := by
  intro s d bf cnt disp r u k i line hok hr hst hk hs hloads hlines
  have hone (n : Nat) (h1 : s.firstDword ≤ n) (h2 : n < k) := multiAct_load (instrWord i) (hloads n h1 h2)
  have hline : OneLine (fun n => multiLine (instrWord i) bf disp n (u n)) s.firstDword k := by
    simp only [multiLine_eq]
    exact hlines
  refine ⟨fun hkc => ?done, fun m a b hm hmk hkc ha hb hab => ?waits, fun hkc => ?traps⟩
  case done => exact does_of_perform (exec_ldm ..) (multiOp_done hst hs hone hline hkc)
  case waits =>
    rw [exec_ldm, perform, multiOp_waits hst hs hone hline hkc hm hmk ((multiLine_eq ..).trans ha) ((multiLine_eq ..).trans hb) hab]
    rfl
  case traps =>
    refine multipleTraps_of_multiOp (exec_ldm ..) hst hs hone hline hkc fun e he => ?_
    rw [multiLine, he]

theorem storesByDword : StoresByDword := by
  intro s d bf cnt disp r u k i hok hr hst hk hs hstores
  have hone (n : Nat) (h1 : s.firstDword ≤ n) (h2 : n < k) :
      multiAct (instrWord i) .store bf disp (storeDword (instrWord i) d) n (u n) = .ok ((), u (n + 1)) :=
    multiAct_store _ (regPlus_workspace hok (by omega)).2 (hstores n h1 h2)
  have hline : OneLine (fun _ => none) s.firstDword k := fun m n a b _ _ _ _ h => by cases h
  exact ⟨fun hkc => does_of_perform (exec_stm ..) (multiOp_done hst hs hone hline hkc),
    fun hkc => multipleTraps_of_multiOp (exec_stm ..) hst hs hone hline hkc fun _ _ => rfl⟩


/-! ## A run of dwords in local store -/

/-- The state after n dwords have been stored from a local-store offset on. -/
def putDwords (s : State) (base : Nat) (v : Nat → Dword) : Nat → State
  | 0 => s
  | n + 1 => (putDwords s base v n).putLs (base + 8 * n) 8 (v n).toNat

section
variable (s : State) (base : Nat) (v : Nat → Dword) (n : Nat)

theorem curElem_putDwords_succ :
    curElem (putDwords s base v (n + 1)) = putElem (curElem (putDwords s base v n)) (base + 8 * n) 8 (v n).toNat := by
  rw [putDwords, curElem_putLs]

theorem onlyCur_putDwords : OnlyCur s (putDwords s base v n) := by
  induction n with
  | zero => exact .refl s
  | succ n ih => exact ih.trans (onlyCur_putLs ..)

/-- Stores change local store, its poison and the log. -/
theorem curElem_putDwords : ∃ l b t u, curElem (putDwords s base v n) = { curElem s with ls := l, lsBad := b, lsTodo := t, run := u } := by
  induction n with
  | zero => exact ⟨_, _, _, _, rfl⟩
  | succ n ih =>
    obtain ⟨l, b, t, u, h⟩ := ih
    rw [curElem_putDwords_succ, putElem_eq, h]
    exact ⟨_, _, _, _, rfl⟩

@[simp] theorem putDwords_csr : (curElem (putDwords s base v n)).csr = (curElem s).csr := by
  obtain ⟨l, b, t, u, h⟩ := curElem_putDwords s base v n; rw [h]

@[simp] theorem putDwords_x : (curElem (putDwords s base v n)).x = (curElem s).x := by
  obtain ⟨l, b, t, u, h⟩ := curElem_putDwords s base v n; rw [h]

/-- Where local accesses lie does not depend on what local store holds. -/
theorem localAt_putDwords (bf off sz : Nat) : (putDwords s base v n).localAt bf off sz = s.localAt bf off sz := by
  obtain ⟨l, b, t, u, h⟩ := curElem_putDwords s base v n
  unfold State.localAt State.accessVa
  rw [h]
  rfl

theorem wOff_putDwords (r : Nat) : wOff (curElem (putDwords s base v n)) r = wOff (curElem s) r := by rw [wOff, putDwords_csr, wOff]
end

section
variable {s : State} {base : Nat} {v : Nat → Dword} {n : Nat}

theorem mem_lsBad_of_putDwords {d : Nat} (h : d ∈ (curElem (putDwords s base v n)).lsBad) : d ∈ (curElem s).lsBad := by
  induction n with
  | zero => exact h
  | succ n ih =>
    rw [curElem_putDwords_succ] at h
    exact ih (mem_lsBad_of_putElem h)

theorem wf_putDwords (h : Memory.wf (curElem s).ls = true) : Memory.wf (curElem (putDwords s base v n)).ls = true := by
  induction n with
  | zero => exact h
  | succ n ih =>
    rw [curElem_putDwords_succ]
    exact wf_putElem _ _ _ ih

theorem hasRoom_putDwords {k : Nat} (h : HasRoom (curElem s) (n + k)) : HasRoom (curElem (putDwords s base v n)) k := by
  induction n generalizing k with
  | zero => rwa [Nat.zero_add] at h
  | succ n ih =>
    rw [curElem_putDwords_succ]
    exact hasRoom_putElem (ih (by rwa [Nat.add_right_comm] at h)) _ _ _

/-- With room for the whole run of dwords, the next one can be stored. -/
theorem canLog_putDwords {N : Nat} (h : HasRoom (curElem s) N) (hn : n < N) (d : Nat) : (putDwords s base v n).canLog d = true := by
  refine canLog_of_hasRoom (n := N - n - 1) (hasRoom_putDwords ?_) d
  rwa [show n + (N - n - 1 + 1) = N by omega]

theorem memGet_putDwords_outside {a : Nat} (h : a < base ∨ base + 8 * n ≤ a) :
    memGet (curElem (putDwords s base v n)).ls a = memGet (curElem s).ls a := by
  induction n with
  | zero => rfl
  | succ n ih => rw [curElem_putDwords_succ, memGet_putElem_outside _ _ (by omega), ih (by omega)]

theorem memDword_putDwords_apart {c : Nat} (h : c + 8 ≤ base ∨ base + 8 * n ≤ c) :
    memDword (curElem (putDwords s base v n)).ls c = memDword (curElem s).ls c := by
  induction n with
  | zero => rfl
  | succ n ih => rw [curElem_putDwords_succ, memDword_putElem_apart _ _ (by omega), ih (by omega)]

theorem memDword_putDwords_same (hwf : Memory.wf (curElem s).ls = true) {i : Nat} (h : i < n) :
    memDword (curElem (putDwords s base v n)).ls (base + 8 * i) = v i := by
  induction n with
  | zero => omega
  | succ n ih =>
    rw [curElem_putDwords_succ]
    rcases Nat.lt_succ_iff_lt_or_eq.1 h with h | rfl
    · rw [memDword_putElem_apart _ _ (by omega), ih h]
    · exact memDword_putElem_same _ _ (wf_putDwords hwf)

theorem lsPoisoned_eq_false_iff {x : Elem} {off m : Nat} :
    lsPoisoned x off m = false ↔ ∀ d ∈ x.lsBad, ¬ (off / 8 ≤ d ∧ d ≤ (off + m - 1) / 8) := by
  simp [lsPoisoned]

/-- Stores poison nothing, neither a range nor a part of it. -/
theorem lsPoisoned_putDwords {o m o' m' : Nat} (h : lsPoisoned (curElem s) o m = false) (h1 : o ≤ o') (h2 : o' + m' ≤ o + m) :
    lsPoisoned (curElem (putDwords s base v n)) o' m' = false := by
  rw [lsPoisoned_eq_false_iff] at h ⊢
  intro d hd hin
  have hlo : o / 8 ≤ o' / 8 := Nat.div_le_div_right h1
  have hhi : (o' + m' - 1) / 8 ≤ (o + m - 1) / 8 := Nat.div_le_div_right (by omega)
  exact h d (mem_lsBad_of_putDwords hd) ⟨hlo.trans hin.1, hin.2.trans hhi⟩

theorem canRead_putDwords {r : Reg} (hr : r.toNat ≤ 27) (h : s.canRead r = true) : (putDwords s base v n).canRead r = true := by
  rw [canRead_of_workspace hr] at h ⊢
  rw [wOff_putDwords]
  exact h.imp_right fun h hd => h (mem_lsBad_of_putDwords hd)
end

/-! ## LDM and STM on local store -/

theorem firstDword_zero {s : State} {r : Run} (he : (curElem s).afterEret = false) (hr : (curElem s).run = some r) (hv : r.vdone = 0) :
    s.firstDword = 0 := by
  simp [State.firstDword, vdoneOf, he, hr, hv]

/-- An access to local store is not translated. -/
theorem lineAt_of_localAt {s : State} {bf off sz o : Nat} (h : s.localAt bf off sz = some o) : s.lineAt bf off sz = none := by
  obtain ⟨va, hva, hin, -⟩ := accessVa_of_localAt h
  rw [State.lineAt, State.mappedAt]
  simp [hva, hin]

section
variable {s : State} {d cnt : Reg} {base : Nat} {v : Nat → Dword} {n : Nat}

/-- What is left once all dwords have been moved: their run, with EPROG and the count cleared. -/
theorem multi_end_facts :
    let t := modCur (putDwords s base v n) (fun y => setEprog (setVdone y 0) 0)
    (curElem t).ls = (curElem (putDwords s base v n)).ls ∧ (curElem t).csr = (curElem s).csr ∧
      (curElem t).x = { (curElem s).x with eprog := 0 } ∧ t.mem = s.mem := by
  intro t
  have ht : curElem t = setEprog (setVdone (curElem (putDwords s base v n)) 0) 0 := curElem_modCur ..
  refine ⟨by rw [ht]; rfl, ?_, ?_, ((onlyCur_putDwords s base v n).after_modCur _).mem⟩
  · rw [ht, ← putDwords_csr s base v n]; rfl
  · rw [ht, ← putDwords_x s base v n]; rfl
end

theorem multipleLoads : MultipleLoads := by
  intro s d bf cnt disp o r hok he hr hv hroom hwf hloc hpois hapart
  have hroom' : HasRoom (curElem s) cnt.toNat := ⟨r, hr, hroom⟩
  let v (i : Nat) : Dword := memDword (curElem s).ls (o + 8 * i)
  let u (n : Nat) : State := putDwords s (wOff (curElem s) d.toNat) v n
  rw [wOff_add] at hapart
  have hone (n : Nat) (hn : n < cnt.toNat) : (u n).loadsDword (u (n + 1)) bf.toNat (multiOff disp n) (regPlus d n) := by
    obtain ⟨hpos, h27⟩ := regPlus_workspace hok hn
    refine .inl ⟨o + 8 * n, (localAt_putDwords ..).trans (hloc n hn), lsPoisoned_putDwords hpois (by omega) (by omega), ?_, ?_⟩
    · rw [canWrite_of_workspace hpos h27]
      exact canLog_putDwords hroom' hn _
    · have hval : dw (leNat (memRead (curElem (u n)).ls (o + 8 * n) 8)) = v n := memDword_putDwords_apart (by omega)
      rw [hval, putReg_of_workspace _ hpos h27, wOff_putDwords, wOff_regPlus hok hn]
      rfl
  have hline (n : Nat) (hn : n < cnt.toNat) : (u n).lineAt bf.toNat (multiOff disp n) 8 = none :=
    lineAt_of_localAt ((localAt_putDwords ..).trans (hloc n hn))
  have h0 := firstDword_zero he hr hv
  obtain ⟨hdoes, -⟩ := loadsByDword s d bf cnt disp r u cnt.toNat hok hr (by omega) le_rfl (by rw [h0]; rfl)
    (fun n _ hn => hone n hn) (fun m _ a _ _ hm _ _ ha _ => absurd ((hline m hm).symm.trans ha) nofun)
  obtain ⟨hls, hcsr, hx, hmem⟩ := multi_end_facts (s := s) (base := wOff (curElem s) d.toNat) (v := v) (n := cnt.toNat)
  refine ⟨_, hdoes rfl, fun i hi => ?_, fun a ha => ?_, hcsr, hx, hmem⟩
  · rw [getW_of_pos _ (regPlus_workspace hok hi).1, wOff, hcsr, ← wOff, wOff_regPlus hok hi, hls]
    exact memDword_putDwords_same hwf hi
  · rw [wOff_add] at ha
    rw [hls]
    exact memGet_putDwords_outside ha

theorem multipleStores : MultipleStores := by
  intro s d bf cnt disp o r hok he hr hv hroom hwf hloc hrd hapart
  have hroom' : HasRoom (curElem s) cnt.toNat := ⟨r, hr, hroom⟩
  let v (i : Nat) : Dword := getW (curElem s) (regPlus d i)
  let u (n : Nat) : State := putDwords s o v n
  rw [wOff_add] at hapart
  have hone (n : Nat) (hn : n < cnt.toNat) : (u n).storesDword (u (n + 1)) bf.toNat (multiOff disp n) (regPlus d n) := by
    obtain ⟨hpos, h27⟩ := regPlus_workspace hok hn
    have hval : (u n).src1 (regPlus d n) = v n := by
      rw [src1_of_workspace h27, getW_of_pos _ hpos, wOff_putDwords,
        memDword_putDwords_apart (by rw [wOff_regPlus hok hn]; omega), ← getW_of_pos _ hpos]
    refine .inl ⟨o + 8 * n, (localAt_putDwords ..).trans (hloc n hn), canRead_putDwords h27 (hrd n hn), ?_, ?_⟩
    · rw [after1_of_workspace h27]
      exact canLog_putDwords hroom' hn _
    · rw [after1_of_workspace h27, hval]
      rfl
  have h0 := firstDword_zero he hr hv
  obtain ⟨hdoes, -⟩ := storesByDword s d bf cnt disp r u cnt.toNat hok hr (by omega) le_rfl (by rw [h0]; rfl) (fun n _ hn => hone n hn)
  obtain ⟨hls, hcsr, hx, hmem⟩ := multi_end_facts (s := s) (base := o) (v := v) (n := cnt.toNat)
  refine ⟨_, hdoes rfl, fun i hi => ?_, fun a ha => ?_, hcsr, hx, hmem⟩
  · rw [hls]
    exact memDword_putDwords_same hwf hi
  · rw [hls]
    exact memGet_putDwords_outside ha

/-- Settles O18: the loop is followed to its end, its next line or its trap; on local store its states are runs of stored dwords. -/
theorem multipleAccesses : Obligations.MultipleAccesses := ⟨multipleLoads, multipleStores, loadsByDword, storesByDword⟩

end Sys2Proof.Scalar

/-! PROOF. The atomics and FENCE (O19, O21). An AMO is its check, and an act at the place found: beyond the extent, in local store, or in
memory, there either within the run or in the queue of immediate atomics. -/

namespace Sys2Proof.Scalar
open Sys2Proof.Machine

/-! ## The form of an AMO (R120) -/

/-- How an AMO's address is checked: LOAD only reads. -/
def amoKind (aop : Nat) : AccKind := if aop = 10 then .load else .rmw

theorem amoKind_of_ne {aop : Nat} (h : aop ≠ 10) : amoKind aop = .rmw := if_neg h

/-- What an AMO does at the place that its check has found. -/
def amoRest (w : Dword) (aop : Nat) (d b : Reg) (use : AmoUse) (a : Acc) : M Unit :=
  match a with
  | .zero => writeReg w d 0
  | .loc off =>
    if use != .spec then trap cPROT (lsVa off)
    else do
      let args ← amoArgs w aop d b
      let old := dw (leNat (← lsLoad off 8))
      if aop == aopLoad then pure () else lsStore off 8 (amoNew aop old args.1 args.2).toNat
      writeReg w d old
  | .phys pa va codec untr => do
    let args ← amoArgs w aop d b
    if use == .spec then do
      let old := dw (leNat (← readTracked pa va 8 untr))
      if aop == aopLoad then pure () else writeBuffer pa codec (leBytes 8 (amoNew aop old args.1 args.2).toNat)
      writeReg w d old
    else
      immediate { pa := pa, va := dw va, codec := codec, aop := aop, v := args.1, cmp := args.2, use := use, d := d.toNat, held := false } d

theorem not_beq_aopLoad {aop : Nat} (h : aop ≠ 10) : ¬ (aop == aopLoad) = true := mt beq_iff_eq.1 h

theorem beq_aopCas {aop : Nat} : (aop == aopCas) = true ↔ aop = 9 := beq_iff_eq

section
variable (w : Dword) {s t u : State} {aop : Nat} {d b x : Reg} {bf : BitVec 4} {use : AmoUse}

theorem amoOp_eq (hm : ¬ (bf.toNat = 0 ∧ modeOf (curElem s) = 0)) (h27 : x.toNat ≤ 27) (hx : s.canRead x = true) :
    amoOp w aop d bf x b use s = (checkAt w (amoKind aop) bf.toNat (s.src1 x).toNat 8 >>= amoRest w aop d b use) s := by
  have hk : (if aop == aopLoad then AccKind.load else .rmw) = amoKind aop := by simp only [amoKind, aopLoad, beq_iff_eq]
  rw [amoOp, M_bind_ok (bfPriv_ok w hm), M_bind_ok (readReg_ok w s x hx), after1_of_workspace h27, hk]
  rfl

section
variable (h27 : x.toNat ≤ 27) (hx : s.canRead x = true)
include h27 hx

theorem amoOp_local {o : Nat} (h : s.localAt bf.toNat (s.src1 x).toNat 8 = some o) :
    amoOp w aop d bf x b use s = amoRest w aop d b use (.loc o) s := by
  rw [amoOp_eq w (not_priv_of_localAt h) h27 hx, M_bind_ok (checkAt_local w h)]

theorem amoOp_mapped {r : Xlat} (h : s.mappedAt (amoKind aop) bf.toNat (s.src1 x).toNat 8 = some (r, t)) :
    ∃ va, s.accessVa bf.toNat (s.src1 x).toNat 8 = some va ∧
      amoOp w aop d bf x b use s = amoRest w aop d b use (.phys r.pa va r.codec r.untr) t := by
  obtain ⟨va, hva, hc⟩ := checkAt_mapped w h
  exact ⟨va, hva, by rw [amoOp_eq w (not_priv_of_mappedAt h) h27 hx, M_bind_ok hc]⟩

/-- Beyond the extent under ZERO w[d] is 0, whatever the use. -/
theorem amoOp_zero (h : s.zeroAt bf.toNat (s.src1 x).toNat 8 = true) (hw : s.canWrite d = true) :
    amoOp w aop d bf x b use s = .ok ((), s.putReg d 0) := by
  rw [amoOp_eq w (not_priv_of_zeroAt h) h27 hx, M_bind_ok (checkAt_zero w h)]
  exact writeReg_ok w s d 0 hw
end

/-- The operand of an AMO, and the comparand of CAS. -/
def amoVals (s : State) (aop : Nat) (d b : Reg) : Dword × Dword := (if aop = 10 then 0 else s.src1 b, if aop = 9 then s.src1 d else 0)

/-- The registers that an AMO reads are workspace registers without poison. -/
structure CanArgs (s : State) (aop : Nat) (d b : Reg) : Prop where
  b27 : b.toNat ≤ 27
  d27 : d.toNat ≤ 27
  operand : aop ≠ 10 → s.canRead b = true
  comparand : aop = 9 → s.canRead d = true

theorem amoArgs_ok (h : CanArgs s aop d b) : amoArgs w aop d b s = .ok (amoVals s aop d b, s) := by
  have hb (ha : aop ≠ 10) : readReg w b s = .ok (s.src1 b, s) := by
    rw [readReg_ok w s b (h.operand ha), after1_of_workspace h.b27]
  by_cases ha : aop = 10
  · subst ha
    rfl
  · rw [amoArgs, if_neg (not_beq_aopLoad ha), M_bind_ok (hb ha)]
    dsimp only
    by_cases hc : aop = 9
    · rw [if_pos (beq_aopCas.2 hc), M_bind_ok (readReg_ok w s d (h.comparand hc)), after1_of_workspace h.d27, amoVals, if_neg ha, if_pos hc]
      rfl
    · rw [if_neg (mt beq_aopCas.1 hc), M_bind_ok (M_pure _ _), amoVals, if_neg ha, if_neg hc]
      rfl

/-- A translation changes nothing of what an AMO reads. -/
theorem canRead_of_tlb {r : Reg} {l : List TlbEnt} (h : curElem t = { curElem s with tlb := l }) (h27 : r.toNat ≤ 27) :
    t.canRead r = s.canRead r ∧ t.src1 r = s.src1 r := by
  rw [src1_of_workspace h27, src1_of_workspace h27, Bool.eq_iff_iff, canRead_of_workspace h27, canRead_of_workspace h27, h]
  exact ⟨Iff.rfl, rfl⟩
/-! ## Within the run (R120, R121) -/

theorem lsLoad_dword {o : Nat} (hp : lsPoisoned (curElem s) o 8 = false) : lsLoad o 8 s = .ok (memRead (curElem s).ls o 8, s) := by
  rw [lsLoad, M_bind_ok (getE_ok s), hp]
  rfl

/-- LOAD reads local store as a load does. -/
theorem amoRest_loc_load {o : Nat} (hp : lsPoisoned (curElem s) o 8 = false) (hw : s.canWrite d = true) :
    amoRest w 10 d b .spec (.loc o) s = .ok ((), s.putReg d (memDword (curElem s).ls o)) := by
  have h : amoRest w 10 d b .spec (.loc o) s = (lsLoad o 8 >>= fun l => writeReg w d (dw (leNat l))) s := rfl
  rw [h, M_bind_ok (lsLoad_dword hp), writeReg_ok w s d _ hw]
  rfl

/-- Every other AMO stores the new dword as a store does, and gives the old one. -/
theorem amoRest_loc {o : Nat} (ha : aop ≠ 10) (h : CanArgs s aop d b) (hp : lsPoisoned (curElem s) o 8 = false)
    (hl : s.canLog (o / 8) = true) {old : Dword}
    (ho : old = memDword (curElem s).ls o) {t : State}
    (ht : t = s.putLs o 8 (amoNew aop old (amoVals s aop d b).1 (amoVals s aop d b).2).toNat) (hw : t.canWrite d = true) :
    amoRest w aop d b .spec (.loc o) s = .ok ((), t.putReg d old) := by
  subst ho
  have hput := lsStore_ok s o 8 (amoNew aop (memDword (curElem s).ls o) (amoVals s aop d b).1 (amoVals s aop d b).2).toNat hl (.inl rfl)
  rw [← ht] at hput
  rw [amoRest, if_neg (by decide), M_bind_ok (amoArgs_ok w h), M_bind_ok (lsLoad_dword hp)]
  dsimp only
  rw [if_neg (not_beq_aopLoad ha)]
  exact (M_bind_ok hput).trans (writeReg_ok w t d _ hw)

section
variable {pa va codec : Nat} {untr : Bool} {l : List Byte} (hk : s.canTrack (pa / 64) untr = true)
  (hl : (s.tracked (pa / 64) untr).seen pa 8 = some l)
include hk hl

theorem amoRest_phys_load (hw : (s.tracked (pa / 64) untr).canWrite d = true) :
    amoRest w 10 d b .spec (.phys pa va codec untr) s = .ok ((), (s.tracked (pa / 64) untr).putReg d (dw (leNat l))) := by
  have h : amoRest w 10 d b .spec (.phys pa va codec untr) s = (readTracked pa va 8 untr >>= fun l => writeReg w d (dw (leNat l))) s := rfl
  rw [h, M_bind_ok (readTracked_ok va hk hl), writeReg_ok w _ d _ hw]

theorem amoRest_phys (ha : aop ≠ 10) (h : CanArgs s aop d b) (hb : (s.tracked (pa / 64) untr).canBuffer pa = true)
    (ht : t = (s.tracked (pa / 64) untr).buffered pa codec
      (leBytes 8 (amoNew aop (dw (leNat l)) (amoVals s aop d b).1 (amoVals s aop d b).2).toNat)) (hw : t.canWrite d = true) :
    amoRest w aop d b .spec (.phys pa va codec untr) s = .ok ((), t.putReg d (dw (leNat l))) := by
  have hput := writeBuffer_ok (codec := codec) (l := leBytes 8 (amoNew aop (dw (leNat l)) (amoVals s aop d b).1 (amoVals s aop d b).2).toNat) hb
  rw [← ht] at hput
  rw [amoRest, M_bind_ok (amoArgs_ok w h), if_pos (by decide), M_bind_ok (readTracked_ok va hk hl)]
  dsimp only
  rw [if_neg (not_beq_aopLoad ha)]
  exact (M_bind_ok hput).trans (writeReg_ok w t d _ hw)
end
end

/-! ## The AMOs of R70 -/

/-- The operations of R120, by code. -/
theorem amoNew_of_mem {p : (Reg → BitVec 4 → Reg → Reg → AmoUse → Instr) × Nat × (Dword → Dword → Dword → Dword)} (hp : p ∈ amoTable)
    (old v c : Dword) : amoNew p.2.1 old v c = p.2.2 old v c := by
  simp only [amoTable, List.mem_cons, List.not_mem_nil, or_false] at hp
  rcases hp with rfl | rfl | rfl | rfl | rfl | rfl | rfl | rfl | rfl | rfl
  exacts [rfl, rfl, rfl, rfl, ite_slt .., ite_slt .., ite_ult .., ite_ult .., rfl, if_congr beq_iff_eq rfl rfl]

/-- The comparand counts for CAS alone. -/
theorem amoNew_comparand {aop : Nat} (h : aop ≠ 9) (old v c c' : Dword) : amoNew aop old v c = amoNew aop old v c' := by
  unfold amoNew
  split
  case h_10 => exact absurd rfl h
  all_goals rfl

/-- Every AMO has the form of R120: LOAD has no operand, and STORE no destination. -/
theorem exec_amo {p : (Reg → BitVec 4 → Reg → Reg → AmoUse → Instr) × Nat} (hp : p ∈ immediateTable) (d : Reg) (bf : BitVec 4) (x b : Reg)
    (use : AmoUse) (s : State) : exec (p.1 d bf x b use) s =
      perform (amoOp (instrWord (p.1 d bf x b use)) p.2 (if p.2 = 11 then 0 else d) bf x (if p.2 = 10 then 0 else b) use) s := by
  simp only [immediateTable, amoTable, List.map_cons, List.map_nil, List.cons_append, List.nil_append, List.mem_cons, List.not_mem_nil,
    or_false] at hp
  rcases hp with rfl | rfl | rfl | rfl | rfl | rfl | rfl | rfl | rfl | rfl | rfl | rfl
  all_goals rfl

theorem amo_mem {p : (Reg → BitVec 4 → Reg → Reg → AmoUse → Instr) × Nat × (Dword → Dword → Dword → Dword)} (hp : p ∈ amoTable) :
    (p.1, p.2.1) ∈ immediateTable := List.mem_append_left _ (List.mem_map_of_mem hp)

/-- The AMOs that read a register, write one and store have the codes to 9. -/
theorem amo_code_le {p : (Reg → BitVec 4 → Reg → Reg → AmoUse → Instr) × Nat × (Dword → Dword → Dword → Dword)} (hp : p ∈ amoTable) :
    p.2.1 ≤ 9 := by
  revert p
  simp [amoTable]

theorem canWrite_zero (s : State) : s.canWrite 0 = true := rfl

section
variable {s t : State} {aop : Nat} {d b : Reg}

theorem canArgs_of_canRead (hd : d.toNat ≤ 27) (hb : b.toNat ≤ 27) (hc : aop = 9 → s.canRead d = true) (hr : s.canRead b = true) :
    CanArgs s aop d b := ⟨hb, hd, fun _ => hr, hc⟩

/-- STORE has w0 for its destination. -/
theorem canArgs_store (hb : b.toNat ≤ 27) (hr : s.canRead b = true) : CanArgs s 11 0 b := ⟨hb, by decide, fun _ => hr, nofun⟩

theorem amoVals_of_ne {s : State} (h : aop ≠ 10) : amoVals s aop d b = (s.src1 b, if aop = 9 then s.src1 d else 0) := by
  rw [amoVals, if_neg h]

/-- A translation leaves what an AMO reads, and that it can be read. -/
theorem CanArgs.of_mappedAt (h : CanArgs s aop d b) {k : AccKind} {bf off sz : Nat} {r : Xlat} (hm : s.mappedAt k bf off sz = some (r, t)) :
    CanArgs t aop d b ∧ amoVals t aop d b = amoVals s aop d b := by
  obtain ⟨-, l, hl⟩ := mappedAt_elem hm
  obtain ⟨hcb, hsb⟩ := canRead_of_tlb hl h.b27
  obtain ⟨hcd, hsd⟩ := canRead_of_tlb hl h.d27
  exact ⟨⟨h.b27, h.d27, fun ha => hcb.trans (h.operand ha), fun ha => hcd.trans (h.comparand ha)⟩, by rw [amoVals, amoVals, hsb, hsd]⟩
end

section
variable {p : (Reg → BitVec 4 → Reg → Reg → AmoUse → Instr) × Nat × (Dword → Dword → Dword → Dword)} (hp : p ∈ amoTable) {s t : State}
  {d : Reg} {bf : BitVec 4} {x b : Reg} (h27 : x.toNat ≤ 27) (hx : s.canRead x = true)
include hp

theorem exec_amoTable (d : Reg) (bf : BitVec 4) (x b : Reg) (use : AmoUse) (s : State) :
    exec (p.1 d bf x b use) s = perform (amoOp (instrWord (p.1 d bf x b use)) p.2.1 d bf x b use) s := by
  have hle := amo_code_le hp
  rw [exec_amo (amo_mem hp), if_neg (by simp only; omega), if_neg (by simp only; omega)]

theorem amo_ne_load : p.2.1 ≠ 10 := by
  have := amo_code_le hp
  omega

/-- What it stores is the operation on its old value and what it reads. -/
theorem amoNew_amoVals (s : State) (d b : Reg) (old : Dword) :
    amoNew p.2.1 old (amoVals s p.2.1 d b).1 (amoVals s p.2.1 d b).2 = p.2.2 old (s.src1 b) (s.src1 d) := by
  rw [amoVals_of_ne (amo_ne_load hp), ← amoNew_of_mem hp]
  split
  · rfl
  next hne => exact amoNew_comparand hne ..

include h27 hx

theorem amo_local {o : Nat} (h : CanArgs s p.2.1 d b) (ho : s.localAt bf.toNat (s.src1 x).toNat 8 = some o)
    (hpois : lsPoisoned (curElem s) o 8 = false) (hl : s.canLog (o / 8) = true) (t : State)
    (ht : t = s.putLs o 8 (p.2.2 (memDword (curElem s).ls o) (s.src1 b) (s.src1 d)).toNat) (hw : t.canWrite d = true) :
    Does (p.1 d bf x b .spec) s (t.putReg d (memDword (curElem s).ls o)) := by
  refine does_of_perform (exec_amoTable hp ..) ((amoOp_local _ h27 hx ho).trans (amoRest_loc _ (amo_ne_load hp) h hpois hl rfl ?_ hw))
  rw [amoNew_amoVals hp, ht]

theorem amo_mapped {r : Xlat} {l : List Byte} {u : State} (h : CanArgs s p.2.1 d b)
    (hm : s.mappedAt .rmw bf.toNat (s.src1 x).toNat 8 = some (r, t)) (hk : t.canTrack (r.pa / 64) r.untr = true)
    (hl : (t.tracked (r.pa / 64) r.untr).seen r.pa 8 = some l) (hb : (t.tracked (r.pa / 64) r.untr).canBuffer r.pa = true)
    (hu : u = (t.tracked (r.pa / 64) r.untr).buffered r.pa r.codec (leBytes 8 (p.2.2 (dw (leNat l)) (s.src1 b) (s.src1 d)).toNat))
    (hw : u.canWrite d = true) : Does (p.1 d bf x b .spec) s (u.putReg d (dw (leNat l))) := by
  have hne := amo_ne_load hp
  rw [← amoKind_of_ne hne] at hm
  obtain ⟨va, -, hop⟩ := amoOp_mapped (instrWord (p.1 d bf x b .spec)) (d := d) (b := b) (use := .spec) h27 hx hm
  obtain ⟨ht, hv⟩ := h.of_mappedAt hm
  refine does_of_perform (exec_amoTable hp ..) (hop.trans (amoRest_phys _ hk hl hne ht hb ?_ hw))
  rw [hv, amoNew_amoVals hp, hu]

theorem amo_zero (hz : s.zeroAt bf.toNat (s.src1 x).toNat 8 = true) (hw : s.canWrite d = true) (use : AmoUse) :
    Does (p.1 d bf x b use) s (s.putReg d 0) := does_of_perform (exec_amoTable hp ..) (amoOp_zero _ h27 hx hz hw)
end

section
variable {s t : State} {d : Reg} {bf : BitVec 4} {x b : Reg} (h27 : x.toNat ≤ 27) (hx : s.canRead x = true)
include h27 hx

theorem amoLoad_local {o : Nat} (ho : s.localAt bf.toNat (s.src1 x).toNat 8 = some o) (hp : lsPoisoned (curElem s) o 8 = false)
    (hw : s.canWrite d = true) : Does (.amoLoad d bf x .spec) s (s.putReg d (memDword (curElem s).ls o)) :=
  does_of_perform rfl ((amoOp_local _ h27 hx ho).trans (amoRest_loc_load _ hp hw))

theorem amoLoad_mapped {r : Xlat} {l : List Byte} (hm : s.mappedAt .load bf.toNat (s.src1 x).toNat 8 = some (r, t))
    (hk : t.canTrack (r.pa / 64) r.untr = true) (hl : (t.tracked (r.pa / 64) r.untr).seen r.pa 8 = some l)
    (hw : (t.tracked (r.pa / 64) r.untr).canWrite d = true) :
    Does (.amoLoad d bf x .spec) s ((t.tracked (r.pa / 64) r.untr).putReg d (dw (leNat l))) := by
  obtain ⟨va, -, hop⟩ := amoOp_mapped (instrWord (.amoLoad d bf x .spec)) (aop := 10) (d := d) (b := 0) (use := .spec) h27 hx hm
  exact does_of_perform rfl (hop.trans (amoRest_phys_load _ hk hl hw))

theorem amoLoad_zero (hz : s.zeroAt bf.toNat (s.src1 x).toNat 8 = true) (hw : s.canWrite d = true) (use : AmoUse) :
    Does (.amoLoad d bf x use) s (s.putReg d 0) := does_of_perform rfl (amoOp_zero _ h27 hx hz hw)

theorem amoStore_local {o : Nat} (hb : b.toNat ≤ 27) (hr : s.canRead b = true) (ho : s.localAt bf.toNat (s.src1 x).toNat 8 = some o)
    (hp : lsPoisoned (curElem s) o 8 = false) (hl : s.canLog (o / 8) = true) :
    Does (.amoStore bf x b .spec) s (s.putLs o 8 (s.src1 b).toNat) :=
  does_of_perform rfl ((amoOp_local _ h27 hx ho).trans
    (amoRest_loc _ (by decide) (canArgs_store hb hr) hp hl rfl rfl (canWrite_zero _)))

theorem amoStore_mapped {r : Xlat} {l : List Byte} (hb : b.toNat ≤ 27) (hr : s.canRead b = true)
    (hm : s.mappedAt .rmw bf.toNat (s.src1 x).toNat 8 = some (r, t)) (hk : t.canTrack (r.pa / 64) r.untr = true)
    (hl : (t.tracked (r.pa / 64) r.untr).seen r.pa 8 = some l) (hbuf : (t.tracked (r.pa / 64) r.untr).canBuffer r.pa = true) :
    Does (.amoStore bf x b .spec) s ((t.tracked (r.pa / 64) r.untr).buffered r.pa r.codec (leBytes 8 (s.src1 b).toNat)) := by
  obtain ⟨va, -, hop⟩ := amoOp_mapped (instrWord (.amoStore bf x b .spec)) (aop := 11) (d := 0) (b := b) (use := .spec) h27 hx hm
  obtain ⟨ht, hv⟩ := (canArgs_store hb hr).of_mappedAt hm
  refine does_of_perform rfl (hop.trans (amoRest_phys _ hk hl (by decide) ht hbuf ?_ (canWrite_zero _)))
  rw [hv]
  rfl

theorem amoStore_zero (hz : s.zeroAt bf.toNat (s.src1 x).toNat 8 = true) (use : AmoUse) : Does (.amoStore bf x b use) s s :=
  does_of_perform rfl (amoOp_zero _ h27 hx hz (canWrite_zero s))
end

/-- Settles O19: an AMO is followed to each of its three places, where it reads as a load and writes as a store. -/
theorem speculativeAtomics : Obligations.SpeculativeAtomics := by
  refine ⟨?table, ?loc, ?mapped, ?zero⟩
  case table =>
    intro p hp s d bf x b hd h27 hb hc hx hr
    have hargs := canArgs_of_canRead hd hb hc hr
    refine ⟨?_, ?_, fun hz hw use => amo_zero hp h27 hx hz hw use⟩
    · intro o ho hpois hl old t hw
      exact amo_local hp h27 hx hargs ho hpois hl t rfl hw
    · intro r t l hm hk hl hbuf u hw
      exact amo_mapped hp h27 hx hargs hm hk hl hbuf rfl hw
  case loc =>
    intro s d bf x b o hd h27 hb hx hr ho hp
    exact ⟨amoLoad_local h27 hx ho hp, amoStore_local h27 hx hb hr ho hp⟩
  case mapped =>
    intro s t d bf x b r l hd h27 hb hx hr u hk hl
    exact ⟨fun hm hw => amoLoad_mapped h27 hx hm hk hl hw, fun hm hbuf => amoStore_mapped h27 hx hb hr hm hk hl hbuf⟩
  case zero =>
    intro s d bf x b use h27 hx hz
    exact ⟨fun hw => amoLoad_zero h27 hx hz hw use, amoStore_zero h27 hx hz use⟩

/-! ## Immediate atomics and FENCE (R121 to R123) -/

section
variable (w : Dword) {s : State} {aop : Nat} {d b : Reg} {use : AmoUse} {a : Iatom}

/-- An immediate AMO on local store stops (R120). -/
theorem amoRest_loc_trap {o : Nat} (hu : use ≠ .spec) : amoRest w aop d b use (.loc o) s = .error (.trap cPROT (dw (lsBase + o)) s.marks) := by
  rw [amoRest, if_pos (by simpa using hu)]
  rfl

theorem amoRest_immediate {pa va codec : Nat} {untr : Bool} (hu : use ≠ .spec) (h : CanArgs s aop d b) :
    amoRest w aop d b use (.phys pa va codec untr) s = immediate
      { pa := pa, va := dw va, codec := codec, aop := aop, v := (amoVals s aop d b).1, cmp := (amoVals s aop d b).2, use := use, d := d.toNat,
        held := false } d s := by
  rw [amoRest, M_bind_ok (amoArgs_ok w h), if_neg (by simpa using hu)]

theorem iqRoom_ok (h : (curElem s).iq.length < iqCap) : iqRoom s = .ok ((), s) := by
  rw [iqRoom, M_bind_ok (M_get s), if_pos h]
  rfl

section
variable (hs : (physDword s a.pa).isSome = true)
include hs

theorem immediate_eq : immediate a d s = (iqRoom >>= fun _ =>
    if d == 0 then modE (fun x => { x with iq := x.iq ++ [a] })
    else do
      logUndo (wOff (curElem s) d.toNat / 8)
      let t ← get
      throw (.wait (modCur t (fun x => { x with iq := x.iq ++ [a], stall := .value })))) s := by
  rw [immediate, M_bind_ok (M_get s), if_neg (by simpa [Option.isSome_iff_ne_none] using hs)]

/-- A full queue is waited for. -/
theorem immediate_full (h : (curElem s).iq.length = iqCap) : immediate a d s = .error (.wait (modCur s (fun y => { y with stall := .room }))) := by
  have hr : iqRoom s = .error (.wait (modCur s (fun y => { y with stall := .room }))) := by
    rw [iqRoom, M_bind_ok (M_get s), if_neg (by omega)]
    rfl
  rw [immediate_eq hs, M_bind_error hr]

variable (h : (curElem s).iq.length < iqCap)
include h

/-- One without a destination retires. -/
theorem immediate_posted : immediate a 0 s = .ok ((), modCur s (fun y => { y with iq := y.iq ++ [a] })) := by
  rw [immediate_eq hs, M_bind_ok (iqRoom_ok h)]
  rfl

/-- One with a destination logs it, and its element waits for the value. -/
theorem immediate_value (hd : d ≠ 0) (hl : s.canLog (wOff (curElem s) d.toNat / 8) = true) : immediate a d s =
    .error (.wait (modCur (s.logged (wOff (curElem s) d.toNat / 8)) (fun y => { y with iq := y.iq ++ [a], stall := .value }))) := by
  rw [immediate_eq hs, M_bind_ok (iqRoom_ok h), if_neg (by simpa using hd), M_bind_ok (logUndo_ok s _ hl), M_bind_ok (M_get _)]
  rfl
end
end

theorem exec_of_wait {i : Instr} {act : M Unit} {s t : State} (hi : exec i s = perform act s) (h : act s = .error (.wait t)) :
    exec i s = .next t := by
  rw [hi, perform, h]
  rfl

theorem immediateLocalStops : ImmediateLocalStops := by
  intro p hp s d bf x b use o h27 hx hu ho
  exact traps_of_perform (exec_amo hp ..) ((amoOp_local _ h27 hx ho).trans (amoRest_loc_trap _ hu))

theorem immediateResults : ImmediateResults := by
  intro p hp s t d bf x b use r hd h27 hb hc hx hr hu h10 h11 hm hs
  have hargs := canArgs_of_canRead hd hb hc hr
  have hi := exec_amo hp d bf x b use s
  rw [ite_eq_right_iff.2 fun h => (h11 h).symm, ite_eq_right_iff.2 fun h => (h10 h).symm] at hi
  obtain ⟨va, hva, hop⟩ := amoOp_mapped (instrWord (p.1 d bf x b use)) (aop := p.2) (d := d) (b := b) (use := use) h27 hx hm
  obtain ⟨ht, hv⟩ := hargs.of_mappedAt hm
  rw [amoRest_immediate _ hu ht, hv] at hop
  refine ⟨va, hva, ?_⟩
  intro a
  refine ⟨fun h0 hq => ?posted, fun hd0 hq hl => ?value, fun hq => ?full⟩
  case posted =>
    subst h0
    exact does_of_perform hi (hop.trans (immediate_posted hs hq))
  case value => exact exec_of_wait hi (hop.trans (immediate_value hs hq hd0 hl))
  case full => exact exec_of_wait hi (hop.trans (immediate_full hs hq))

theorem fenceWaits : FenceWaits := by
  intro s scope left
  have h : fenceOp scope.toNat s = (if left then waitAtomic s (.fence scope.toNat) else pure () : M Unit) s := by
    rw [fenceOp, M_bind_ok (M_get s)]
    rfl
  refine ⟨fun hl => does_of_perform rfl ?done, fun hl => exec_of_wait rfl ?waits⟩
  case done => rw [h, hl]; rfl
  case waits => rw [h, hl]; rfl

/-- Settles O21: an immediate AMO stops on local store, and elsewhere joins the queue or waits for room; FENCE looks through the queue. -/
theorem immediateAtomics : Obligations.ImmediateAtomics := ⟨immediateLocalStops, immediateResults, fenceWaits⟩

end Sys2Proof.Scalar

/-! PROOF. Immediate atomics at their homes (O20). A dword of a scratchpad lies in no cblock and, with its first byte, in no metadata region, so
it is read and written as it lies in memory; what an atomic does there follows for a home's own, another device's and a quantum operation. -/

namespace Sys2Proof.Scalar
open Sys2Proof.Machine

/-! ## Bytes by address -/

theorem mem_span {a n c : Nat} : c ∈ span a n ↔ a ≤ c ∧ c < a + n := by
  induction n generalizing a with
  | zero => simp [span]
  | succ n ih =>
    rw [span, List.mem_cons, ih]
    omega

theorem span_length (a n : Nat) : (span a n).length = n := by
  induction n generalizing a with
  | zero => rfl
  | succ n ih => rw [span, List.length_cons, ih]

/-- Consecutive bytes from an address on, by address. -/
def bytesFrom (a : Nat) (l : List Byte) : Tbl Byte := (span a l.length).zip l

theorem bytesFrom_cons (a : Nat) (b : Byte) (l : List Byte) : bytesFrom a (b :: l) = (a, b) :: bytesFrom (a + 1) l := rfl

theorem mem_bytesFrom {a : Nat} {l : List Byte} {u : Nat × Byte} (h : u ∈ bytesFrom a l) : a ≤ u.1 ∧ u.1 < a + l.length :=
  mem_span.1 (List.of_mem_zip h).1

theorem tfind_bytesFrom {a c : Nat} {l : List Byte} (h1 : a ≤ c) (h2 : c < a + l.length) : (tfind (bytesFrom a l) c).isSome = true := by
  induction l generalizing a with
  | nil =>
    rw [List.length_nil] at h2
    omega
  | cons b l ih =>
    rw [List.length_cons] at h2
    rw [bytesFrom_cons, tfind]
    split
    · rfl
    next hne =>
      rw [beq_iff_eq] at hne
      exact ih (by omega) (by omega)

theorem foldl_memPut_bytesFrom (m : Mem) (a : Nat) (l : List Byte) :
    (bytesFrom a l).foldl (fun m u => memPut m u.1 u.2) m = memWrite m a l := by
  induction l generalizing m a with
  | nil => rfl
  | cons b l ih => exact ih _ _

/-! ## Writing (R307, R312, R315) -/

/-- Writes that share their cblock are one run. -/
theorem cbRuns_one {n a c : Nat} {b : Byte} {l : Tbl (Byte × Nat)} (h : ∀ u ∈ l, u.1 / 512 = a / 512) :
    cbRuns (n + 1) ((a, b, c) :: l) = [(c, ((a, b, c) :: l).map (fun u => (u.1, u.2.1)))] := by
  have hsame : ∀ u ∈ (a, b, c) :: l, (u.1 / 512 == a / 512) = true := by
    intro u hu
    rcases List.mem_cons.1 hu with rfl | hu
    · exact beq_self_eq_true _
    · exact beq_iff_eq.2 (h u hu)
  have hnil (n : Nat) : cbRuns n [] = [] := by cases n <;> rfl
  rw [cbRuns, List.takeWhile_eq_self_iff.2 hsame, List.dropWhile_eq_nil_iff.2 hsame, hnil]

/-- So are consecutive bytes of one cblock. -/
theorem cbRuns_bytesFrom {a codec : Nat} {b : Byte} {l : List Byte} (h : a % 512 + (b :: l).length ≤ 512) :
    cbRuns (b :: l).length ((span a (b :: l).length).zipWith (fun a b => (a, b, codec)) (b :: l)) = [(codec, bytesFrom a (b :: l))] := by
  have hmap : ((span a (b :: l).length).zipWith (fun a b => (a, b, codec)) (b :: l)).map (fun u => (u.1, u.2.1)) = bytesFrom a (b :: l) :=
    List.map_zipWith ..
  rw [← hmap]
  refine cbRuns_one fun u hu => ?_
  have hb : (u.1, u.2.1) ∈ bytesFrom a (b :: l) := hmap ▸ List.mem_map_of_mem (List.mem_cons_of_mem _ hu)
  have := mem_bytesFrom hb
  omega

/-- Where no metadata and no compression applies, a write of one cblock is made as it stands. -/
theorem writeCb_raw {s : State} {lid : BitVec 32} {codec pa : Nat} {b : Byte} {ups : Tbl Byte} (hr : reachable s pa = true)
    (he : external pa = false) (hc : cbCovered s pa = false) (hm : ∀ u ∈ (pa, b) :: ups, metaSpace s u.1 = none) :
    writeCb s lid codec ((pa, b) :: ups) = writeRaw s ((pa, b) :: ups) := by
  have hlost : ((pa, b) :: ups).filter (fun u => (metaSpace s u.1).isSome) = [] :=
    List.filter_eq_nil_iff.2 fun u hu => by rw [hm u hu]; decide
  have hkept : ((pa, b) :: ups).filter (fun u => !(metaSpace s u.1).isSome) = (pa, b) :: ups :=
    List.filter_eq_self.2 fun u hu => by rw [hm u hu]; rfl
  have hplain : writePlain s codec ((pa, b) :: ups) = writeRaw s ((pa, b) :: ups) := by rw [writePlain, hc]; rfl
  rw [writeCb, hr, he, hlost, hkept, hplain]
  rfl

/-- A write of whole words poisons none and is wholly made. -/
theorem putBytes_whole (m : Mem) (bads : List Nat) {ups : Tbl Byte} (h : ∀ u ∈ ups, coversWord ups (u.1 / 8) = true) :
    (putBytes m bads ups).1 = ups.foldl (fun m u => memPut m u.1 u.2) m ∧ (putBytes m bads ups).2.2 = [] := by
  have hbad : bads.filter (fun w => ups.any (fun u => u.1 / 8 == w) && !coversWord ups w) = [] := by
    rw [List.filter_eq_nil_iff]
    intro w _
    simp only [Bool.and_eq_true, Bool.not_eq_true', not_and, Bool.not_eq_false, List.any_eq_true, beq_iff_eq]
    rintro ⟨u, hu, rfl⟩
    exact h u hu
  rw [putBytes]
  dsimp only
  rw [hbad]
  exact ⟨by rw [List.filter_eq_self.2 (by simp)], rfl⟩

/-! ## A dword of a scratchpad (R294, R307) -/

section
variable {s : State} {pa : Nat} (hal : pa % 8 = 0) (hreg : paRegion pa = 3)

theorem reachable_of_scratchpad (hreg : paRegion pa = 3) : reachable s pa = true := by rw [reachable, hreg]; rfl

theorem not_external_of_scratchpad (hreg : paRegion pa = 3) : external pa = false := by rw [external, hreg]; rfl

theorem spaceOf_scratchpad (hreg : paRegion pa = 3) : spaceOf pa = none := by rw [spaceOf, hreg]; rfl

theorem not_cbCovered_of_scratchpad (hreg : paRegion pa = 3) : cbCovered s pa = false := by rw [cbCovered, spaceOf_scratchpad hreg]

theorem mdBase_mod (s : State) (sp : Nat) : mdBase s sp % 8 = 0 := by rw [mdBase]; omega

theorem metaSpace_eq_none_iff : metaSpace s pa = none ↔
    ∀ sp, sp < 9 → ¬ (0 < mdLim s sp ∧ mdBase s sp ≤ pa ∧ pa < mdBase s sp + (3 * mdLim s sp + 7) / 8) := by
  rw [metaSpace, List.find?_eq_none]
  simp [mem_span]

include hal

/-- A metadata region that holds a byte of a dword holds its first (R307). -/
theorem metaSpace_of_dword (h : metaSpace s pa = none) {c : Nat} (h1 : pa ≤ c) (h2 : c < pa + 8) : metaSpace s c = none := by
  rw [metaSpace_eq_none_iff] at h ⊢
  rintro sp hsp ⟨h3, h4, h5⟩
  have := mdBase_mod s sp
  exact h sp hsp ⟨h3, by omega, by omega⟩

theorem not_anyMeta_of_dword (h : metaSpace s pa = none) : anyMeta s pa 8 = false := by
  rw [metaSpace_eq_none_iff] at h
  rw [anyMeta, List.any_eq_false]
  intro sp hsp
  have := mdBase_mod s sp
  have := h sp (by have := mem_span.1 hsp; omega)
  simp only [decide_eq_true_eq]
  omega

include hreg

theorem physDword_scratchpad (h : metaSpace s pa = none) {v : Dword} (hv : physDword s pa = some v) : memDword s.mem pa = v := by
  have hm : Nat.min 8 (512 - pa % 512) = 8 := Nat.min_eq_left (by omega)
  have hc : physChunk s pa 8 = if anyBad s pa 8 then none else some (memRead s.mem pa 8) := by
    rw [physChunk, reachable_of_scratchpad hreg, not_external_of_scratchpad hreg, readCb, not_anyMeta_of_dword hal h, readPlain, cbState,
      spaceOf_scratchpad hreg]
    rfl
  have hr : physRead s pa 8 = physChunk s pa 8 := by
    rw [physRead, physReadAux, if_neg (by decide)]
    dsimp only
    rw [hm]
    cases physChunk s pa 8 with
    | none => rfl
    | some l => exact congrArg some (List.append_nil l)
  rw [physDword, hr, hc] at hv
  obtain ⟨l, hl, rfl⟩ := Option.map_eq_some_iff.1 hv
  split at hl
  · cases hl
  · cases hl
    rfl

/-- A dword is written as it stands, and nothing goes wrong. -/
theorem physWrite_scratchpad (h : metaSpace s pa = none) {l : List Byte} (hlen : l.length = 8) (codec : Nat) :
    ∃ b t, physWrite s pa l codec = ({ s with mem := memWrite s.mem pa l, memBad := b, memTodo := t }, []) := by
  obtain ⟨b0, l, rfl⟩ := List.exists_cons_of_length_eq_add_one hlen
  have hin {u : Nat × Byte} (hu : u ∈ bytesFrom pa (b0 :: l)) : pa ≤ u.1 ∧ u.1 < pa + 8 := hlen ▸ mem_bytesFrom hu
  have hwhole : ∀ u ∈ bytesFrom pa (b0 :: l), coversWord (bytesFrom pa (b0 :: l)) (u.1 / 8) = true := by
    intro u hu
    obtain ⟨h1, h2⟩ := hin hu
    rw [coversWord, List.all_eq_true]
    intro c hc
    obtain ⟨h3, h4⟩ := mem_span.1 hc
    exact tfind_bytesFrom (by omega) (by omega)
  have hmeta : ∀ u ∈ bytesFrom pa (b0 :: l), metaSpace s u.1 = none := fun u hu => metaSpace_of_dword hal h (hin hu).1 (hin hu).2
  obtain ⟨hput, hbad⟩ := putBytes_whole s.mem s.memBad hwhole
  rw [foldl_memPut_bytesFrom] at hput
  have hruns := cbRuns_bytesFrom (a := pa) (codec := codec) (b := b0) (l := l) (by omega)
  have hws : ((span pa (b0 :: l).length).zipWith (fun a b => (a, b, codec)) (b0 :: l)).length = (b0 :: l).length := by
    rw [List.length_zipWith, span_length, Nat.min_self]
  have hw : writeCb s 0 codec (bytesFrom pa (b0 :: l)) = writeRaw s (bytesFrom pa (b0 :: l)) :=
    writeCb_raw (reachable_of_scratchpad hreg) (not_external_of_scratchpad hreg) (not_cbCovered_of_scratchpad hreg) hmeta
  refine ⟨(putBytes s.mem s.memBad (bytesFrom pa (b0 :: l))).2.1, s.memTodo.filter (fun w => !coversWord (bytesFrom pa (b0 :: l)) w), ?_⟩
  rw [physWrite, applyWrites, applyWritesIn, hws, hruns, List.foldl_cons, List.foldl_nil]
  dsimp only
  rw [hw, writeRaw]
  dsimp only
  rw [hput, hbad]
  rfl
end

/-! ## An atomic at its home (R120, R286, R350) -/

section
variable {s : State} {pa : Nat} (hal : pa % 8 = 0) (hreg : paRegion pa = 3) (hmeta : metaSpace s pa = none)

/-- From s to t a dword of memory, and its poison, have changed, and nothing else. -/
def DwordWritten (s t : State) (pa : Nat) (v : Dword) : Prop :=
  ∃ b w, t = { s with mem := memPutNat s.mem pa 8 v.toNat, memBad := b, memTodo := w }

theorem DwordWritten.sameElems {t : State} {v : Dword} (h : DwordWritten s t pa v) : SameElems s t := by
  obtain ⟨b, w, rfl⟩ := h
  exact ⟨rfl, rfl, rfl⟩

theorem DwordWritten.memDword {t : State} {v : Dword} (h : DwordWritten s t pa v) (hwf : Memory.wf s.mem = true) :
    Machine.memDword t.mem pa = v := by
  obtain ⟨b, w, rfl⟩ := h
  exact memDword_memPutNat_same pa v hwf

theorem DwordWritten.memGet_outside {t : State} {v : Dword} (h : DwordWritten s t pa v) {m : Nat} (hm : m < pa ∨ pa + 8 ≤ m) :
    memGet t.mem m = memGet s.mem m := by
  obtain ⟨b, w, rfl⟩ := h
  exact memGet_memPutNat_outside _ _ hm

include hal hreg hmeta

theorem dwordWritten_physWrite (v : Dword) (codec : Nat) :
    DwordWritten s (physWrite s pa (leBytes 8 v.toNat) codec).1 pa v ∧ (physWrite s pa (leBytes 8 v.toNat) codec).2 = [] := by
  obtain ⟨b, w, h⟩ := physWrite_scratchpad hal hreg hmeta (leBytes_length 8 v.toNat) codec
  rw [h]
  exact ⟨⟨b, w, rfl⟩, rfl⟩

/-- So is a dword that a unit writes which reports to no element. -/
theorem dwordWritten_physPutDword (v : Dword) : DwordWritten s (physPutDword s pa v) pa v := by
  obtain ⟨h, he⟩ := dwordWritten_physWrite hal hreg hmeta v hwCodec
  rw [physPutDword, physStore]
  rw [he]
  exact h
end

section
variable {s : State} {e : Nat} {a : Iatom} {old : Dword}

theorem iatomDo_eq (hreg : paRegion a.pa = 3) (ho : physDword s a.pa = some old) : iatomDo s e a =
    if a.aop == aopLoad then (s, some old)
    else
      let r := physWrite s a.pa (leBytes 8 (amoNew a.aop old a.v a.cmp).toNat) a.codec
      (reportErrs r.1 (originOf s e) r.2, some old) := by
  rw [iatomDo, if_neg (by rw [hreg]; decide), ho]

theorem iatomDo_load (hreg : paRegion a.pa = 3) (ho : physDword s a.pa = some old) (ha : a.aop = aopLoad) : iatomDo s e a = (s, some old) := by
  rw [iatomDo_eq hreg ho, if_pos (beq_iff_eq.2 ha)]

theorem iatomDo_old (hreg : paRegion a.pa = 3) (ho : physDword s a.pa = some old) : (iatomDo s e a).2 = some old := by
  rw [iatomDo_eq hreg ho]
  split <;> rfl

theorem iatomDo_writes (hal : a.pa % 8 = 0) (hreg : paRegion a.pa = 3) (hmeta : metaSpace s a.pa = none) (ho : physDword s a.pa = some old)
    (ha : a.aop ≠ aopLoad) : DwordWritten s (iatomDo s e a).1 a.pa (amoNew a.aop old a.v a.cmp) := by
  obtain ⟨h, he⟩ := dwordWritten_physWrite hal hreg hmeta (amoNew a.aop old a.v a.cmp) a.codec
  rw [iatomDo_eq hreg ho, if_neg (not_beq_aopLoad ha)]
  dsimp only
  rw [he]
  exact h

/-- Performed at a home in a scratchpad, an atomic leaves the elements alone. -/
theorem sameElems_iatomDo (hal : a.pa % 8 = 0) (hreg : paRegion a.pa = 3) (hmeta : metaSpace s a.pa = none) (ho : physDword s a.pa = some old) :
    SameElems s (iatomDo s e a).1 := by
  by_cases ha : a.aop = aopLoad
  · rw [iatomDo_load hreg ho ha]
    exact .refl s
  · exact (iatomDo_writes hal hreg hmeta ho ha).sameElems
end

theorem homeResults : HomeResults := by
  intro p hp s e a old ha hcodec hal hreg hmeta ho hwf r
  refine ⟨iatomDo_old hreg ho, ?_⟩
  have hnew : amoNew a.aop old a.v a.cmp = p.2.2 old a.v a.cmp := by
    rw [ha]
    rcases List.mem_append.1 hp with hp | hp
    · exact amoNew_of_mem hp ..
    · simp only [List.mem_cons, List.not_mem_nil, or_false] at hp
      rcases hp with rfl | rfl
      all_goals rfl
  rw [← hnew]
  by_cases hload : a.aop = aopLoad
  · have hr : r.1 = s := by rw [show r = _ from iatomDo_load hreg ho hload]
    rw [hr, hload]
    exact ⟨physDword_scratchpad hal hreg hmeta ho, fun _ _ => rfl⟩
  · have h : DwordWritten s r.1 a.pa _ := iatomDo_writes hal hreg hmeta ho hload
    exact ⟨h.memDword hwf, fun m hm => h.memGet_outside hm⟩

theorem atomicAway : AtomicAway := by
  intro s e a hreg m
  rw [iatomDo, if_pos (by rw [hreg]; decide)]
  rfl

/-! ## The IATOM step (R122, R123, R286) -/

section
variable {s : State} {e k : Nat} {a : Iatom}

theorem exec_iatom (hk : (elem s e).iq[k]? = some a) (hp : ((elem s e).iq.take k).any (fun b => mustPrecede b a) = false) :
    exec (.iatom e k) s = .next (iatomStep s e k) := by
  show execIatom e k s = _
  rw [execIatom]
  rw [hk]
  dsimp only
  rw [hp]
  rfl

theorem iatomStep_quant (hk : (elem s e).iq[k]? = some a) (hh : a.held = false) (hu : a.use = .quant) (hreg : paRegion a.pa ≠ 8) :
    iatomStep s e k = { (modElem s e (fun y => { y with iq := y.iq.set k { a with held := true } })) with
      quants := s.quants ++ [{ el := e, a := { a with held := true }, peer := none }] } := by
  have hr : (paRegion a.pa == 8) = false := beq_eq_false_iff_ne.2 hreg
  rw [iatomStep]
  dsimp only
  rw [hk]
  dsimp only
  rw [hh, hu, hr]
  rfl

theorem iatomStep_done (hk : (elem s e).iq[k]? = some a) (hh : a.held = false) (hu : a.use ≠ .quant) : iatomStep s e k =
    iatomBack (iatomDo (modElem s e (fun y => { y with iq := dropAt y.iq k })) e a).1 e k a
      (iatomDo (modElem s e (fun y => { y with iq := dropAt y.iq k })) e a).2 := by
  have hq : (a.use == .quant) = false := by simpa using hu
  rw [iatomStep]
  dsimp only
  rw [hk]
  dsimp only
  rw [hh, hq]
  rfl

theorem iatomBack_posted (old : Dword) (hd : a.d = 0) : iatomBack s e k a (some old) = modElem s e (wake e k) := by
  rw [iatomBack, if_pos (beq_iff_eq.2 hd)]
  rfl

theorem iatomBack_value (old : Dword) (hd : a.d ≠ 0) : iatomBack s e k a (some old) =
    modElem s e (fun x => { lsWrite x (wOff x a.d) 8 old.toNat with seq := seqNext x.seq, afterEret := false, stall := .none }) := by
  rw [iatomBack, if_neg (by simpa using hd)]
end

theorem iatomSteps : IatomSteps := by
  intro s e k a hk hh hp
  refine ⟨fun hu hreg => ?quant, ?done⟩
  case quant => rw [exec_iatom hk hp, iatomStep_quant hk hh hu hreg]
  case done =>
    intro hu s1 r old hr
    have hstep : iatomStep s e k = iatomBack r.1 e k a (some old) := by rw [iatomStep_done hk hh hu, ← hr]
    rw [exec_iatom hk hp, hstep]
    refine ⟨fun hd => ?_, fun hd => by rw [iatomBack_value old hd]⟩
    rw [iatomBack_posted old hd]
    congr 2
    funext x
    unfold wake
    cases hs : x.stall
    case room => simp only [beq_iff_eq]
    all_goals rfl

/-! ## Quantum operations (R286, R350) -/

/-- A packet's leaving changes no memory. -/
theorem mem_sendFab (s : State) (i dev : Nat) (b : FabBody) : (sendFab s i dev b).1.mem = s.mem ∧ (sendFab s i dev b).1.memEdge = s.memEdge := by
  unfold sendFab
  split
  · exact ⟨rfl, rfl⟩
  · exact ⟨rfl, rfl⟩

section
variable {s : State} {q : QOp} {before old : Dword}

theorem remoteAtomic_eq {pa aop : Nat} {v c : Dword} (ho : physDword s pa = some old) : remoteAtomic s pa aop v c =
    if aop == aopLoad then (s, some old) else (physPutDword s pa (amoNew aop old v c), some old) := by
  rw [remoteAtomic, ho]

theorem quantOne_peer {p : Peer} (hp : q.peer = some p) (hb : physDword { s with mem := s.memEdge } q.a.pa = some before)
    (ho : physDword s q.a.pa = some old) :
    quantOne s q = answerPeer (remoteAtomic s q.a.pa q.a.aop q.a.v q.a.cmp).1 p (some (leBytes 8 before.toNat)) := by
  have h2 : (remoteAtomic s q.a.pa q.a.aop q.a.v q.a.cmp).2 = some old := by
    rw [remoteAtomic_eq ho]
    split <;> rfl
  rw [quantOne, hp]
  dsimp only
  rw [hb, h2]
  rfl

theorem quantOne_own (hp : q.peer = none) (hreg : paRegion q.a.pa = 3) (hb : physDword { s with mem := s.memEdge } q.a.pa = some before)
    (ho : physDword s q.a.pa = some old) :
    ∃ k, quantOne s q = iatomBack (modElem (iatomDo s q.el { q.a with held := false }).1 q.el (fun x => { x with iq := dropAt x.iq k })) q.el k q.a
      (some before) := by
  have hr : (paRegion q.a.pa == 8) = false := by rw [hreg]; rfl
  refine ⟨(elem s q.el).iq.findIdx (· == q.a), ?_⟩
  rw [quantOne, hp]
  dsimp only
  rw [hb, hr, if_neg (by decide), iatomDo_old (a := { q.a with held := false }) hreg ho]
  rfl
end

/-- What an element gets back changes no memory. -/
theorem mem_iatomBack (s : State) (e k : Nat) (a : Iatom) (v : Dword) :
    (iatomBack s e k a (some v)).mem = s.mem ∧ (iatomBack s e k a (some v)).memEdge = s.memEdge := by
  by_cases hd : a.d = 0
  · rw [iatomBack_posted v hd]
    exact ⟨rfl, rfl⟩
  · rw [iatomBack_value v hd]
    exact ⟨rfl, rfl⟩

section
variable {s : State} {q : QOp} {before old : Dword} (hb : physDword { s with mem := s.memEdge } q.a.pa = some before)
  (ho : physDword s q.a.pa = some old) (hal : q.a.pa % 8 = 0) (hreg : paRegion q.a.pa = 3) (hmeta : metaSpace s q.a.pa = none)
include hb ho hal hreg hmeta

/-- Whoever has asked for it, a quantum operation leaves memory as the atomic at its home does. -/
theorem quantOne_mem : ∃ t, SameElems s t ∧ (q.a.aop ≠ aopLoad → DwordWritten s t q.a.pa (amoNew q.a.aop old q.a.v q.a.cmp)) ∧
    (quantOne s q).mem = t.mem ∧ (quantOne s q).memEdge = t.memEdge := by
  cases hp : q.peer with
  | none =>
    obtain ⟨k, h⟩ := quantOne_own hp hreg hb ho
    rw [h]
    exact ⟨_, sameElems_iatomDo (a := { q.a with held := false }) hal hreg hmeta ho,
      iatomDo_writes (a := { q.a with held := false }) hal hreg hmeta ho, mem_iatomBack ..⟩
  | some p =>
    have hput := dwordWritten_physPutDword hal hreg hmeta (amoNew q.a.aop old q.a.v q.a.cmp)
    rw [quantOne_peer hp hb ho, remoteAtomic_eq ho]
    refine ⟨_, ?_, fun ha => ?_, mem_sendFab ..⟩
    · split
      · exact .refl s
      · exact hput.sameElems
    · rw [if_neg (not_beq_aopLoad ha)]
      exact hput

/-- An element's own operation gives it the value of the round's beginning. -/
theorem quantOne_value (hp : q.peer = none) (hd : q.a.d ≠ 0) (hls : Memory.wf (elem s q.el).ls = true) :
    (quantOne s q).mem = (iatomDo s q.el { q.a with held := false }).1.mem ∧
      memDword (elem (quantOne s q) q.el).ls (wOff (elem s q.el) q.a.d) = before := by
  obtain ⟨k, h⟩ := quantOne_own hp hreg hb ho
  have he := (sameElems_iatomDo (e := q.el) (a := { q.a with held := false }) hal hreg hmeta ho).elem q.el
  rw [h, iatomBack_value before hd]
  refine ⟨rfl, ?_⟩
  rw [elem_modElem_same, elem_modElem_same, he]
  exact memDword_memPutNat_same _ before hls
end

theorem quantumResult : QuantumResult := by
  intro s q before old hb ho hcodec hal hreg hmeta hwf
  obtain ⟨t, hsame, hwritten, hmem, hedge⟩ := quantOne_mem hb ho hal hreg hmeta
  refine ⟨fun p hp => quantOne_peer hp hb ho, quantOne_value hb ho hal hreg hmeta, fun ha => ?_, hedge.trans hsame.2.2⟩
  rw [hmem]
  exact (hwritten ha).memDword hwf

/-- Settles O20: what an atomic does to its dword is said once, of the home; the IATOM step and the edge hand its value on. -/
theorem atomicAtHome : Obligations.AtomicAtHome := ⟨homeResults, atomicAway, iatomSteps, quantumResult⟩

end Sys2Proof.Scalar

/-! PROOF. Taking a trap (O24): the handler's start values are a run of dwords in local store, and what a trap leaves is read off; a trap within
a handler, or with channel 1 masked, aborts the run. -/

namespace Sys2Proof.Scalar
open Sys2Proof.Machine

/-! ## TRAP (R128, R136) -/

/-- The cause of TRAP: BREAK for code 31, else TRAPI. -/
def trapCode (code : BitVec 5) : Nat := if code = 31 then 10 else 9

theorem trapCode_ne_mcheck (code : BitVec 5) : trapCode code ≠ cMCHECK := by
  rw [trapCode]
  split <;> decide

theorem exec_trap (s : State) (code : BitVec 5) : exec (.trap code) s = .next (takeTrap s (trapCode code) (code.setWidth 64)) := by
  have hi : exec (.trap code) s = perform (trap (trapCode code) (code.setWidth 64)) s := by
    rw [trapCode]
    simp only [← beq_iff_eq (a := code)]
    rfl
  rw [hi, perform_trap (M_trap ..), keepMarks_self, noteMcheck_of_ne _ (trapCode_ne_mcheck code)]

/-! ## What a trap writes (R128, R363) -/

theorem isUrgent_of_run {x : Elem} {r : Run} (h : x.run = some r) : isUrgent x = r.urgent := by rw [isUrgent, h]

/-- EANN holds the annul bits. -/
theorem eann_bits : ∀ a b c : Bool, (BitVec.ofNat 3 (bnat a * 4 + bnat b * 2 + bnat c)).getLsbD 2 = a ∧
    (BitVec.ofNat 3 (bnat a * 4 + bnat b * 2 + bnat c)).getLsbD 1 = b ∧ (BitVec.ofNat 3 (bnat a * 4 + bnat b * 2 + bnat c)).getLsbD 0 = c := by
  decide

theorem trapRegs_ecause {x : Elem} {r : Run} (h : x.run = some r) (code : BitVec 5) (ev : Dword) :
    (trapRegs x (trapCode code) ev).ecause = BitVec.ofNat 5 ((if r.urgent then 16 else 0) + (if code = 31 then 10 else 9)) := by
  have hu : bnat r.urgent * 16 = if r.urgent then 16 else 0 := by
    cases r.urgent <;> rfl
  rw [trapRegs, isUrgent_of_run h]
  dsimp only
  rw [hu]
  rfl

/-- The status in which a handler starts. -/
def handlerStatus (st : Dword) : Dword := setMode (setTrap st true) 1

theorem handlerStatus_eq (st : Dword) : handlerStatus st = ((st ||| 8) &&& ~~~3) ||| 1 := rfl

theorem stTrap_handlerStatus (st : Dword) : stTrap (handlerStatus st) = true := by
  have h : (handlerStatus st).getLsbD 3 = true := by
    rw [handlerStatus_eq]
    simp
  exact h

theorem handlerStatus_and (st m : Dword) : handlerStatus st &&& m = (st &&& (~~~3 &&& m)) ||| (8 &&& (~~~3 &&& m)) ||| (1 &&& m) := by
  rw [handlerStatus_eq, BitVec.and_or_distrib_right, BitVec.and_assoc, BitVec.and_or_distrib_right]

theorem stMode_eq (st : Dword) : stMode st = (st &&& 3).toNat := by
  rw [BitVec.toNat_and, stMode, fld, nbits]
  exact (Nat.and_two_pow_sub_one_eq_mod st.toNat 2).symm

theorem stMode_handlerStatus (st : Dword) : stMode (handlerStatus st) = 1 := by
  rw [stMode_eq, handlerStatus_and, show (~~~3 &&& 3 : Dword) = 0#64 by decide, BitVec.and_zero, BitVec.and_zero]
  rfl

/-- The other bits of STATUS stay. -/
theorem handlerStatus_rest (st : Dword) : handlerStatus st &&& ~~~11 = st &&& ~~~11 := by
  rw [handlerStatus_and, show (~~~3 &&& ~~~11 : Dword) = ~~~11 by decide, show (8 &&& ~~~11 : Dword) = 0#64 by decide,
    show (1 &&& ~~~11 : Dword) = 0#64 by decide, BitVec.or_zero, BitVec.or_zero]

/-! ## The handler's start (R363) -/

/-- The element that a trap leaves to its handler, before the start values are written. -/
def handlerElem (x : Elem) (c : Nat) (ev : Dword) : Elem := trapEnter { x with x := trapRegs x c ev } c

/-- The start values of a handler: w1 to w4. -/
def startValue (x : Elem) (c : Nat) (ev : Dword) (i : Nat) : Dword :=
  [x.csr.wp.setWidth 64, (trapRegs x c ev).ecause.setWidth 64, ev, x.csr.status].getD i 0

/-- The state in which a handler starts. -/
def handlerState (s : State) (c : Nat) (ev : Dword) : State :=
  putDwords (setElem s s.cur (handlerElem (curElem s) c ev)) ((trapVector (curElem s)).wpo + 8) (startValue (curElem s) c ev) 4

theorem curElem_setElem (s : State) (x : Elem) : curElem (setElem s s.cur x) = x := elem_setElem_same s s.cur x

/-- Dwords are stored one after the other. -/
theorem lsStoreDwords_ok {s : State} {base n k : Nat} {v : Nat → Dword} (h : HasRoom (curElem s) (k + n)) :
    lsStoreDwords (base + 8 * k) ((List.range' k n).map v) (putDwords s base v k) = .ok ((), putDwords s base v (k + n)) := by
  induction n generalizing k with
  | zero => rfl
  | succ n ih =>
    have hput : lsStore (base + 8 * k) 8 (v k).toNat (putDwords s base v k) = .ok ((), putDwords s base v (k + 1)) :=
      lsStore_ok _ _ _ _ (canLog_putDwords h (by omega) _) (.inl rfl)
    have hn : k + (n + 1) = k + 1 + n := by omega
    rw [hn] at h ⊢
    rw [List.range'_succ, List.map_cons, lsStoreDwords, M_bind_ok hput]
    exact ih h

section
variable {s : State} {c : Nat} {ev : Dword} {r : Run}

theorem hasRoom_handlerElem {n : Nat} (hr : (curElem s).run = some r) (hn : r.undo.length + n ≤ undoCap) :
    HasRoom (handlerElem (curElem s) c ev) n := by
  refine ⟨{ r with vdone := 0, vgot := [] }, ?_, hn⟩
  rw [handlerElem, trapEnter]
  dsimp only
  rw [hr]
  rfl

/-- A trap that can be handled starts its handler. -/
theorem takeTrap_handled (hr : (curElem s).run = some r) (hn : r.undo.length + 4 ≤ undoCap) (ht : stTrap (curElem s).csr.status = false)
    (hm : (trapVector (curElem s)).mask = false) (hwp : wpOk (curElem s) (trapVector (curElem s)).wpo = true) :
    takeTrap s c ev = handlerState s c ev := by
  have hd : trapDouble (curElem s) = false := by rw [trapDouble, ht, hm]; rfl
  have hb : trapWpBad (curElem s) = false := by rw [trapWpBad, hd, hwp]; rfl
  have hroom : HasRoom (curElem (setElem s s.cur (handlerElem (curElem s) c ev))) (0 + 4) :=
    (curElem_setElem s _).symm ▸ hasRoom_handlerElem hr hn
  have hstore : lsStoreDwords ((trapVector (curElem s)).wpo + 8) [(curElem s).csr.wp.setWidth 64, (trapRegs (curElem s) c ev).ecause.setWidth 64, ev,
      (curElem s).csr.status] (setElem s s.cur (handlerElem (curElem s) c ev)) = .ok ((), handlerState s c ev) :=
    lsStoreDwords_ok (k := 0) (base := (trapVector (curElem s)).wpo + 8) (v := startValue (curElem s) c ev) hroom
  unfold takeTrap
  extract_lets x cause ev' x1 s1 o sa sb vals
  have hc : cause = c := if_neg (by rw [hb]; decide)
  have he : ev' = ev := if_neg (by rw [hb]; decide)
  have hput : lsStoreDwords ((trapVector x).wpo + 8) vals sb = .ok ((), handlerState s c ev) := by
    simp only [vals, sb, x1, hc, he]
    exact hstore
  rw [hd, hb, if_neg (by decide), hput]

/-- What stands in the element once its handler starts. -/
theorem curElem_handlerState (s : State) (c : Nat) (ev : Dword) : ∃ l b t u, curElem (handlerState s c ev) =
    { handlerElem (curElem s) c ev with ls := l, lsBad := b, lsTodo := t, run := u } := by
  obtain ⟨l, b, t, u, h⟩ := curElem_putDwords (setElem s s.cur (handlerElem (curElem s) c ev)) ((trapVector (curElem s)).wpo + 8)
    (startValue (curElem s) c ev) 4
  exact ⟨l, b, t, u, h.trans (by rw [curElem_setElem])⟩

theorem onlyCur_handlerState (s : State) (c : Nat) (ev : Dword) : OnlyCur s (handlerState s c ev) :=
  (OnlyCur.modCur s fun _ => handlerElem (curElem s) c ev).trans (onlyCur_putDwords ..)

theorem ls_handlerElem : (curElem (setElem s s.cur (handlerElem (curElem s) c ev))).ls = (curElem s).ls := by
  rw [curElem_setElem]
  rfl

theorem memGet_handlerState {a : Nat} (h : a < (trapVector (curElem s)).wpo + 8 ∨ (trapVector (curElem s)).wpo + 40 ≤ a) :
    memGet (curElem (handlerState s c ev)).ls a = memGet (curElem s).ls a := by
  rw [← ls_handlerElem (s := s) (c := c) (ev := ev)]
  exact memGet_putDwords_outside (by omega)

/-- The start values lie in w1 to w4 of channel 1's workspace. -/
theorem memDword_handlerState (hwf : Memory.wf (curElem s).ls = true) {i : Nat} (hi : i < 4) :
    memDword (curElem (handlerState s c ev)).ls ((trapVector (curElem s)).wpo + 8 + 8 * i) = startValue (curElem s) c ev i := by
  exact memDword_putDwords_same (by rwa [ls_handlerElem]) hi

theorem wpo_lt (e : ChEntry) : e.wpo < 2 ^ 18 := by
  have : e.d1.toNat >>> 3 % 2 ^ 15 < 2 ^ 15 := Nat.mod_lt _ (by decide)
  rw [ChEntry.wpo, fld, nbits]
  omega

theorem handlerState_wp (s : State) (c : Nat) (ev : Dword) : (curElem (handlerState s c ev)).csr.wp.toNat = (trapVector (curElem s)).wpo := by
  obtain ⟨l, b, t, u, h⟩ := curElem_handlerState s c ev
  rw [h]
  exact Nat.mod_eq_of_lt (wpo_lt _)

theorem getW_handlerState (hwf : Memory.wf (curElem s).ls = true) {d : Reg} {i : Nat} (hd : d.toNat = i + 1) (hi : i < 4) :
    getW (curElem (handlerState s c ev)) d = startValue (curElem s) c ev i := by
  have ho : wOff (curElem (handlerState s c ev)) d.toNat = (trapVector (curElem s)).wpo + 8 + 8 * i := by
    rw [wOff, handlerState_wp, hd]
    omega
  rw [getW_of_pos _ (by omega), ho, memDword_handlerState hwf hi]

/-- A handler that is not a machine check's starts in mode 1. -/
theorem handlerElem_status {x : Elem} (h : c ≠ cMCHECK) : (handlerElem x c ev).csr.status = handlerStatus x.csr.status := by
  rw [handlerElem, trapEnter]
  dsimp only
  rw [if_neg (by simpa using h)]
  rfl
end

theorem trapTaken : TrapTaken := by
  intro s code r hr ht hm hn hwp hwf
  refine ⟨handlerState s (trapCode code) (code.setWidth 64), by rw [exec_trap, takeTrap_handled hr hn ht hm hwp], ?_⟩
  intro x y wpo cause
  have hcause : (trapRegs x (trapCode code) (code.setWidth 64)).ecause = cause := trapRegs_ecause hr code _
  have hstatus : (handlerElem x (trapCode code) (code.setWidth 64)).csr.status = _ := handlerElem_status (trapCode_ne_mcheck code)
  obtain ⟨l, b, t, u, hy⟩ : ∃ l b t u, y =
      { handlerElem x (trapCode code) (code.setWidth 64) with ls := l, lsBad := b, lsTodo := t, run := u } :=
    curElem_handlerState ..
  have hys : y.csr.status = handlerStatus x.csr.status := by rw [hy, ← hstatus]
  have honly := onlyCur_handlerState s (trapCode code) (code.setWidth 64)
  refine ⟨by rw [hy]; rfl, by rw [hy]; rfl, by rw [hy]; rfl, by rw [hy]; exact eann_bits .., by rw [hy, ← hcause]; rfl, by rw [hy]; rfl,
    by rw [hy]; rfl, by rw [hy]; rfl, by rw [hy]; rfl, by rw [hy]; rfl, by rw [hy]; rfl, ?_, ?_, ?_, handlerState_wp .., by rw [hy]; rfl,
    getW_handlerState hwf (i := 0) rfl (by decide), ?_, getW_handlerState hwf (i := 2) rfl (by decide),
    getW_handlerState hwf (i := 3) rfl (by decide), fun a ha => memGet_handlerState ha, honly.1, honly.2⟩
  · rw [hys, stTrap_handlerStatus]
  · rw [hys, stMode_handlerStatus]
  · rw [hys, handlerStatus_rest]
  · rw [← hcause]
    exact getW_handlerState hwf (i := 1) rfl (by decide)

/-! ## A trap while one is handled (R365) -/

/-- The state in which a trap has written its registers. -/
def trappedState (s : State) (c : Nat) (ev : Dword) : State := setElem s s.cur { curElem s with x := trapRegs (curElem s) c ev }

section
variable {s : State} {e : Nat} {r : Run}

/-- An aborted run with none under it leaves its element idle, its event at the head of those that wait. -/
theorem elem_abortRunning (hr : (elem s e).run = some r) (hu : (elem s e).under = none) (why : AbortWhy) :
    (elem (abortRunning s e why) e).run = none ∧ (elem (abortRunning s e why) e).inq = rerunEv r why :: (elem s e).inq ∧
      (elem (abortRunning s e why) e).x = (elem s e).x := by
  have h : elem (abortRunning s e why) e =
      resumeUnder { abortElem (elem s e) r why with csr := r.start, stall := .none, iq := (elem s e).iq.map Iatom.posted } := by
    rw [abortRunning]
    dsimp only
    rw [hr]
    exact elem_setElem_same ..
  have hun : ({ abortElem (elem s e) r why with csr := r.start, stall := .none, iq := (elem s e).iq.map Iatom.posted } : Elem).under = none := hu
  rw [h, resumeUnder, hun]
  exact ⟨rfl, rfl, rfl⟩
end

/-- A trap that cannot be handled aborts the run and posts DOUBLETRAP. -/
theorem takeTrap_double {s : State} (hd : trapDouble (curElem s) = true) (c : Nat) (ev : Dword) : ∃ d1 d2 d3, takeTrap s c ev =
    errOf (abortRunning (trappedState s c ev) s.cur .defer) (originOf s s.cur) 10 d1 d2 d3 := by
  have hb : trapWpBad (curElem s) = false := by rw [trapWpBad, hd]; rfl
  refine ⟨(trapRegs (curElem s) c ev).ecause.setWidth 64, ev, (trapRegs (curElem s) c ev).epc0.setWidth 64, ?_⟩
  unfold takeTrap
  extract_lets x cause ev' x1 s1 o sa sb vals
  have hc : cause = c := if_neg (by rw [hb]; decide)
  have he : ev' = ev := if_neg (by rw [hb]; decide)
  rw [hd, hb, if_pos (by decide)]
  simp only [sa, s1, x1, hc, he]
  rfl

/-- An error event goes to channel 3 of its element, its kind at the head. -/
theorem errOf_posts (s : State) (o : Origin) (kind : Nat) (d1 d2 d3 : Dword) : ∃ p ∈ (errOf s o kind d1 d2 d3).net,
    p.dst = o.el ∧ ∃ ev : Ev, p.body = .ev o.el ev ∧ ev.chan = 3 ∧ ev.payload.head? = some (dw kind) :=
  ⟨_, List.mem_append_right _ (List.mem_singleton_self _), rfl, _, rfl, rfl, rfl⟩

theorem doubleTrap : DoubleTrap := by
  intro s code r hr hu hd
  have hdouble : trapDouble (curElem s) = true := by
    rw [trapDouble, Bool.or_eq_true]
    exact hd
  obtain ⟨d1, d2, d3, ht⟩ := takeTrap_double hdouble (trapCode code) (code.setWidth 64)
  have hx : elem (trappedState s (trapCode code) (code.setWidth 64)) s.cur =
      { curElem s with x := trapRegs (curElem s) (trapCode code) (code.setWidth 64) } := elem_setElem_same ..
  refine ⟨_, (exec_trap s code).trans (congrArg _ ht), ?_⟩
  intro x y
  obtain ⟨hrun, hinq, hxr⟩ := elem_abortRunning (e := s.cur) (r := r) (by rw [hx]; exact hr) (by rw [hx]; exact hu) .defer
  rw [hx] at hinq hxr
  have hy : y.x = trapRegs x (trapCode code) (code.setWidth 64) := hxr
  refine ⟨hrun, hinq, by rw [hy]; rfl, by rw [hy]; rfl, by rw [hy]; rfl, by rw [hy]; rfl, ?_, errOf_posts ..⟩
  rw [hy]
  exact trapRegs_ecause hr code _

/-- Settles O24: a trap's start values are four dwords of the handler's workspace; a trap within a handler aborts the run. -/
theorem trapEntry : Obligations.TrapEntry := ⟨trapTaken, doubleTrap⟩

end Sys2Proof.Scalar

/-! PROOF. The vector unit's elementwise work (O39, O41, O42, O43). Its operations take the grant, read vector registers, and write lanes, a mask or a
register: each shared form is run once here, and an instruction is then its form with its operation. -/

namespace Sys2Proof.VectorUnit
open Sys2Proof.Machine Sys2Proof.Scalar

/-! ## Operands (R9, R28, R169) -/

theorem span_eq_range' (a n : Nat) : span a n = List.range' a n := by
  induction n generalizing a with
  | zero => rfl
  | succ n ih => rw [span, ih, List.range'_succ]

theorem span_zero_eq_range (n : Nat) : span 0 n = List.range n := by rw [span_eq_range', List.range_eq_range']

/-- A workspace register is read without a trace. -/
theorem readReg_workspace (w : Dword) {s : State} {r : Reg} (h27 : r.toNat ≤ 27) (hr : s.canRead r = true) : readReg w r s = .ok (s.src1 r, s) := by
  rw [readReg_ok w s r hr, after1_of_workspace h27]

/-- A change of the running element that depends on what it was. -/
theorem modE_of_curElem (f : Elem → Elem) {s : State} {y : Elem → Elem} (h : f (curElem s) = y (curElem s)) : modE f s = .ok ((), modCur s y) := by
  rw [modE_ok, modCur_congr h]

section
variable {s : State} (hg : s.grant ≠ 0)
include hg

theorem vGrant_ok (w : Dword) : vGrant w s = .ok (s.grant, s) := by
  rw [vGrant, M_bind_ok (getE_ok s), if_neg (by simpa [State.grant] using hg)]
  rfl

/-! ## Forms of operations -/

/-- What an operation does once it has taken the grant. -/
theorem vGrant_bind {α : Type} (w : Dword) (k : Nat → M α) : (vGrant w >>= k) s = k s.grant s := M_bind_ok (vGrant_ok hg w)

/-- An instruction whose act goes through once it has taken the grant. -/
theorem does_of_vGrant {i : Instr} {w : Dword} {k : Nat → M Unit} {t : State} (hi : exec i s = perform (vGrant w >>= k) s)
    (h : k s.grant s = .ok ((), t)) : Does i s t := does_of_perform hi ((vGrant_bind hg w k).trans h)

omit hg in
theorem writeV_ok (vd : BitVec 5) (m : BitVec 3) (f : Fmt) (rs : List (Nat × Nat)) : writeV vd m f s.grant rs s = .ok ((), s.putLanes vd m f rs) := by
  rw [writeV, M_bind_ok (getE_ok s)]
  rfl

theorem vOp_ok (w : Dword) (vd va vb : BitVec 5) (m : BitVec 3) (f : Fmt) (op : Nat → Nat → Nat → Nat → Nat × Nat) :
    vOp w vd va vb m f op s = .ok ((), s.putLanes vd m f (List.zipWith (fun (o : Nat) (p : Nat × Nat) => op (curElem s).csr.fprm.toNat o p.1 p.2)
      (s.lanes f vd) ((s.lanes f va).zip (s.lanes f vb)))) := by
  rw [vOp, vGrant_bind hg, M_bind_ok (getE_ok s), M_bind_ok (roundMode_ok s), writeV_ok]
  rfl

theorem vConv_ok (w : Dword) (vd va : BitVec 5) (m : BitVec 3) (src dst : Fmt) (op : Nat → Nat → Nat × Nat) :
    vConv w vd va m src dst op s = .ok ((), s.putConverted vd va m src dst (op (curElem s).csr.fprm.toNat)) := by
  rw [vConv, vGrant_bind hg, M_bind_ok (getE_ok s), M_bind_ok (roundMode_ok s)]
  rfl

theorem maskLogic_ok (w : Dword) (md : BitVec 3) (f : Elem → BitVec 2048) :
    maskLogic w md f s = .ok ((), modCur s (fun y => putMask y md (f (curElem s)))) := by
  rw [maskLogic, vGrant_bind hg]
  exact modE_of_curElem _ rfl
end

/-! ## Masks (R28, R171 to R173) -/

/-- An instruction that works on whole masks. -/
theorem does_of_maskLogic {i : Instr} {w : Dword} {md : BitVec 3} {f : Elem → BitVec 2048} {v : BitVec 2048} {s : State} (hg : s.grant ≠ 0)
    (hi : exec i s = perform (maskLogic w md f) s) (hv : f (curElem s) = v) : Does i s (modCur s (fun y => putMask y md v)) :=
  does_of_perform hi (hv ▸ maskLogic_ok hg w md f)

theorem maskResults : MaskResults := by
  intro s md ma mb m vd d a b f hg hd x put
  refine ⟨?and, ?or, ?xor, ?andn, ?not, ?mov, ?set, ?clr, fun hw => ?vmpop, fun ha hb hra hrb => ?viota⟩
  case vmpop =>
    exact does_of_vGrant hg rfl ((M_bind_ok (getE_ok s)).trans (writeReg_ok _ s d _ hw))
  case viota =>
    rw [← span_zero_eq_range]
    exact does_of_vGrant hg rfl ((M_bind_ok (readReg_workspace _ ha hra)).trans
      ((M_bind_ok (readReg_workspace _ hb hrb)).trans (writeV_ok ..)))
  all_goals exact does_of_maskLogic hg rfl rfl

theorem getMask_zero (x : Elem) : getMask x 0 = BitVec.allOnes 2048 := rfl
theorem putMask_zero (x : Elem) (v : BitVec 2048) : putMask x 0 v = x := rfl

theorem getMask_putMask_same (x : Elem) {m : BitVec 3} (v : BitVec 2048) (hm : m ≠ 0) : getMask (putMask x m v) m = v := by
  have h0 : ¬ (m == 0) = true := by simpa using hm
  rw [getMask, if_neg h0, putMask, if_neg h0]
  exact tget_tput_same ..

theorem getMask_putMask_other (x : Elem) {m k : BitVec 3} (v : BitVec 2048) (hk : k ≠ m) : getMask (putMask x m v) k = getMask x k := by
  have hkm : k.toNat ≠ m.toNat := fun e => hk (BitVec.eq_of_toNat_eq e)
  unfold putMask
  split
  · rfl
  · rw [getMask, getMask, tget_tput_other _ _ _ _ _ hkm]

/-- Settles O39: the mask instructions are the form maskLogic but two, and a mask is read as it was written. -/
theorem maskInstructions : Obligations.MaskInstructions :=
  ⟨maskResults, fun x _ _ v => ⟨getMask_zero x, putMask_zero x v, getMask_putMask_same x v, getMask_putMask_other x v⟩⟩

/-! ## Arithmetic and comparisons (R179 to R181) -/

theorem lanes_length (s : State) (f : Fmt) (r : BitVec 5) : (s.lanes f r).length = vCount f s.grant := by
  rw [State.lanes, vElems, elemsOf, List.length_map, span_length]

theorem lanes_length_eq (s : State) (f : Fmt) (a b : BitVec 5) : (s.lanes f a).length = (s.lanes f b).length := by
  rw [lanes_length, lanes_length]

/-- Of pairs, an operation that reads the first alone. -/
theorem zipWith_fst_zip {α β γ δ : Type} {op : α → β → δ} {l : List α} {a : List β} {b : List γ} (h : a.length ≤ b.length) :
    List.zipWith (fun o p => op o p.1) l (a.zip b) = List.zipWith op l a := by
  rw [← List.zipWith_map_right, List.map_fst_zip h]

/-- An instruction of the form vOp is elementwise. -/
theorem elementwise_of_vOp {i : BitVec 5 → BitVec 5 → BitVec 5 → BitVec 3 → Fmt → Instr} {op op' : Fmt → Nat → Nat → Nat → Nat → Nat × Nat}
    (hi : ∀ vd va vb m f s, exec (i vd va vb m f) s = perform (vOp (instrWord (i vd va vb m f)) vd va vb m f (op' f)) s)
    (hop : ∀ f rm o a b, op' f rm o a b = op f rm o a b) : Elementwise i op := by
  intro s vd va vb m f hg
  simp only [← hop]
  exact does_of_perform (hi ..) (vOp_ok hg ..)

/-- An instruction of the form vOp that reads one source is elementwise, whatever a second source might be. -/
theorem elementwise_of_source {i : BitVec 5 → BitVec 5 → BitVec 3 → Fmt → Instr} {op op' : Fmt → Nat → Nat × Nat}
    (hi : ∀ vd va m f s, exec (i vd va m f) s = perform (vOp (instrWord (i vd va m f)) vd va va m f (fun _ _ a _ => op' f a)) s)
    (hop : ∀ f a, op' f a = op f a) : Elementwise (fun vd va _ m f => i vd va m f) (fun f _ _ a _ => op f a) := by
  intro s vd va vb m f hg
  have h := does_of_perform (hi vd va m f s) (vOp_ok hg ..)
  simp only [hop, zipWith_fst_zip (lanes_length_eq s f va va).le] at h
  simpa only [zipWith_fst_zip (lanes_length_eq s f va vb).le] using h

theorem vsel_does (s : State) (vd va vb : BitVec 5) (m : BitVec 3) (f : Fmt) (hg : s.grant ≠ 0) :
    Does (.vsel vd va vb m f) s (modCur s (fun x => putV x vd f
      (blend (getMask (curElem s) m) 0 (s.lanes f vb) ((s.lanes f va).map (fun v => (v, 0)))).1)) :=
  does_of_vGrant hg rfl (modE_of_curElem _ rfl)

theorem vectorElementwise : VectorElementwise := by
  refine ⟨?vadd, ?vsub, ?vmul, ?vfma, ?vmin, ?vmax, ?vand, ?vor, ?vxor, ?vshl, ?vshr, ?vabs, ?vneg, vsel_does⟩
  case vshr => exact elementwise_of_vOp (fun _ _ _ _ _ _ => rfl) fun f rm o a b => by norm_cast
  case vabs | vneg => exact elementwise_of_source (fun _ _ _ _ _ => rfl) fun _ _ => rfl
  all_goals exact elementwise_of_vOp (fun _ _ _ _ _ _ => rfl) fun _ _ _ _ _ => rfl

/-- A comparison puts its mask, and raises the flags of its active elements. -/
theorem vCmp_ok {s : State} (hg : s.grant ≠ 0) (w : Dword) (md : BitVec 3) (va vb : BitVec 5) (m : BitVec 3) (f : Fmt) (op : Nat → Nat → Bool × Nat) :
    let rs := List.zipWith op (s.lanes f va) (s.lanes f vb)
    let t := blend (getMask (curElem s) m) 0 (rs.map (fun _ => 0)) (rs.map (fun r => (if r.1 then 1 else 0, r.2)))
    vCmp w md va vb m f op s = .ok ((), (modCur s (fun y => putMask y md (BitVec.ofNat 2048 (packElems 1 t.1)))).raised t.2) := by
  rw [vCmp, vGrant_bind hg, M_bind_ok (getE_ok s)]
  rfl

theorem vectorCompares : VectorCompares := by
  intro s md m va vb f hg put
  exact ⟨does_of_perform rfl (vCmp_ok hg ..), does_of_perform rfl (vCmp_ok hg ..)⟩

/-- Settles O41: every operation is the form vOp with its function on elements, but for VSEL, and a comparison is the form vCmp. -/
theorem vectorArithmetic : Obligations.VectorArithmetic := ⟨vectorElementwise, vectorCompares⟩

/-! ## Special functions and conversions (R182 to R184) -/

/-- Of two lists, an operation that reads the second alone. -/
theorem zipWith_right {α β γ : Type} {g : β → γ} {l : List α} {a : List β} (h : a.length ≤ l.length) :
    List.zipWith (fun _ x => g x) l a = a.map g := by
  calc List.zipWith (fun _ x => g x) l a = (l.zip a).map (fun p => g p.2) :=
      (List.map_zip_eq_zipWith (f := fun p => g p.2)).symm
    _ = ((l.zip a).map Prod.snd).map g := (List.map_map ..).symm
    _ = a.map g := by rw [List.map_snd_zip h]

/-- An operation of one source gives each of its elements. -/
theorem vOp1_ok {s : State} (hg : s.grant ≠ 0) (w : Dword) (vd va : BitVec 5) (m : BitVec 3) (f : Fmt) (op : Nat → Nat → Nat × Nat) :
    vOp1 w vd va m f op s = .ok ((), s.putLanes vd m f ((s.lanes f va).map (op (curElem s).csr.fprm.toNat))) := by
  rw [vOp1, vOp_ok hg, zipWith_fst_zip le_rfl, zipWith_right (lanes_length_eq s f va vd).le]

section
variable {s : State} (hg : s.grant ≠ 0) (w : Dword) {vd va : BitVec 5} {b : Reg} {m : BitVec 3} {f : Fmt} {ok : Fmt → Bool}
  {op : Fmt → Nat → Nat → Nat → Nat × Nat} (hb : b.toNat ≤ 27) (hr : s.canRead b = true)
include hg hb hr

/-- The parameter word names the format of a conversion. -/
theorem vParam_ok {g : Fmt} (h : paramFmt (s.src1 b) ok = some g) : vParam w vd va b m f ok op s =
    .ok ((), s.putConverted vd va m g f (op g (fld (s.src1 b) 31 0) (curElem s).csr.fprm.toNat)) := by
  rw [vParam, vGrant_bind hg, M_bind_ok (readReg_workspace w hb hr), h]
  exact vConv_ok hg ..

theorem vParam_trap (h : paramFmt (s.src1 b) ok = none) : vParam w vd va b m f ok op s = .error (.trap cILLOP w s.marks) := by
  rw [vParam, vGrant_bind hg, M_bind_ok (readReg_workspace w hb hr), h]
  rfl
end

/-- Settles O42: the special functions are the form vOp1, the conversions the form vConv, those with a parameter word the form vParam. -/
theorem vectorConversions : Obligations.VectorConversions := by
  intro s vd va b m f src dst sat hg hb hr rm one p param
  refine ⟨?vexp2, ?vlog2, ?vrcp, ?vrsqrt, ?vsqrt, ?vcvt, ?vqnt, ?vdqnt, ?vtern⟩
  case vcvt => exact does_of_perform rfl (vConv_ok hg ..)
  case vqnt | vdqnt | vtern =>
    exact ⟨fun g h => does_of_perform rfl (vParam_ok hg _ hb hr h), fun h => traps_of_perform rfl (vParam_trap hg _ hb hr h)⟩
  all_goals exact does_of_perform rfl (vOp1_ok hg ..)

/-! ## Reductions, scans and moves (R104 to R106, R178, R185 to R187) -/

section
variable {s : State} (hg : s.grant ≠ 0) (w : Dword) {d : Reg} {va : BitVec 5} {m : BitVec 3} {f : Fmt} {op : Nat → Nat → Nat → Nat × Nat}
  {one : Nat → Nat × Nat} {empty : Nat} {r : Option Nat × Nat} (hw : s.canWrite d = true)
  (ht : treeReduce (op (curElem s).csr.fprm.toNat) (getMask (curElem s) m) (vElems (curElem s) f s.grant va) = r)
include hg hw ht

/-- A reduction of no active element gives the result that is named for it. -/
theorem vReduce_none (h : r.1 = none) : vReduce w d va m f op one empty s = .ok ((), s.putReg d (vResult f empty)) := by
  rw [vReduce, vGrant_bind hg, M_bind_ok (getE_ok s), M_bind_ok (roundMode_ok s)]
  simp only [ht, h]
  exact writeReg_ok w s d _ hw

theorem vReduce_some {v : Nat} (h : r.1 = some v) :
    vReduce w d va m f op one empty s = .ok ((), s.putFp d (vResult f (one v).1) (r.2 ||| (one v).2)) := by
  rw [vReduce, vGrant_bind hg, M_bind_ok (getE_ok s), M_bind_ok (roundMode_ok s)]
  simp only [ht, h]
  rw [M_bind_ok (writeReg_ok w s d _ hw), raise_ok]
  rfl
end

theorem vectorReduces : VectorReduces := by
  intro s vd va vb d b m f hg hd hb hr rm mask l reduces
  refine ⟨?vredsum, ?vredmax, ?vredmin, ?vredamax, ?vscan, ?vperm, ?vslide⟩
  case vscan =>
    exact does_of_vGrant hg rfl ((M_bind_ok (getE_ok s)).trans ((M_bind_ok (roundMode_ok s)).trans ((M_bind_ok (modE_ok ..)).trans (raise_ok ..))))
  case vperm =>
    exact does_of_vGrant hg rfl ((M_bind_ok (getE_ok s)).trans (writeV_ok ..))
  case vslide =>
    rw [← span_zero_eq_range]
    exact does_of_vGrant hg rfl ((M_bind_ok (readReg_workspace _ hb hr)).trans
      ((M_bind_ok (getE_ok s)).trans (writeV_ok ..)))
  all_goals exact fun hw => ⟨fun h => does_of_perform rfl (vReduce_none hg _ hw rfl h), fun v h => does_of_perform rfl (vReduce_some hg _ hw rfl h)⟩

theorem vectorMoves : VectorMoves := by
  intro s vd va d a b m f hg hd ha hb hra hrb r n
  refine ⟨?vbcast, fun hw => ?vextr, fun h => ?vins, fun h => ?beyond⟩
  case vbcast =>
    exact does_of_vGrant hg rfl ((M_bind_ok (readReg_workspace _ ha hra)).trans (writeV_ok ..))
  case vextr =>
    exact does_of_vGrant hg rfl ((M_bind_ok (readReg_workspace _ hb hrb)).trans
      ((M_bind_ok (getE_ok s)).trans (writeReg_ok _ s d _ hw)))
  all_goals
    refine does_of_vGrant hg rfl ((M_bind_ok (readReg_workspace _ ha hra)).trans
      ((M_bind_ok (readReg_workspace _ hb hrb)).trans (modE_of_curElem _ ?_)))
  case vins => exact if_pos h
  case beyond => exact if_neg (Nat.not_lt.2 h)

/-- Settles O43: reductions are the form vReduce, and a move writes lanes, one element or a register. -/
theorem vectorReductions : Obligations.VectorReductions := ⟨vectorReduces, vectorMoves⟩

end Sys2Proof.VectorUnit

/-! PROOF. Vector loads and stores (O40). The six instructions have two forms, which check their elements in order and then move them; of elements that
lie in local store, the loaded values and the stored bytes are read off by induction over the active elements. -/

namespace Sys2Proof.VectorUnit
open Sys2Proof.Machine Sys2Proof.Scalar

/-! ## The forms of an access (R175 to R177) -/

theorem mem_vActive {x : Elem} {m : BitVec 3} {n i : Nat} : i ∈ vActive x m n ↔ i < n ∧ active (getMask x m) i = true := by
  rw [vActive, span_zero_eq_range, List.mem_filter, List.mem_range]

theorem nodup_vActive (x : Elem) (m : BitVec 3) (n : Nat) : (vActive x m n).Nodup := by
  rw [vActive, span_zero_eq_range]
  exact List.nodup_range.filter _

theorem length_vActive_le (x : Elem) (m : BitVec 3) (n : Nat) : (vActive x m n).length ≤ n := by
  rw [vActive]
  exact (List.length_filter_le ..).trans (span_length 0 n).le

/-- What a vector load or store does once it has its offset or its indices. -/
def vMove (store : Bool) (w : Dword) (vd : BitVec 5) (bf : BitVec 4) (m : BitVec 3) (f : Fmt) (g : Nat) (a : VAddr) : M Unit :=
  if store then vStore w vd bf m f g a else vLoad w vd bf m f g a

/-- An access that takes its offset from a register, and places its elements by it. -/
def vlsOffset (w : Dword) (store : Bool) (a : Nat → VAddr) (vd : BitVec 5) (bf : BitVec 4) (x : Reg) (m : BitVec 3) (f : Fmt) : M Unit := do
  let e ← getE
  if store && vdoneOf e != 0 then vStoreOn f
  else do
    let g ← vGrant w
    vPriv w bf m f g
    let off ← readReg w x
    vMove store w vd bf m f g (a off.toNat)

theorem vlsUnit_eq (w : Dword) (store : Bool) (vd : BitVec 5) (bf : BitVec 4) (x : Reg) (m : BitVec 3) (f : Fmt) :
    vlsUnit w store vd bf x m f = vlsOffset w store .unit vd bf x m f := rfl

theorem vlsStrided_eq (w : Dword) (store : Bool) (vd : BitVec 5) (bf : BitVec 4) (x : Reg) (m : BitVec 3) (f : Fmt) :
    vlsStrided w store vd bf x m f = vlsOffset w store .strided vd bf x m f := rfl

section
variable {s : State} {store : Bool} {vd vi : BitVec 5} {bf : BitVec 4} {x : Reg} {m : BitVec 3} {f : Fmt} {p : Instr × VAddr}

/-- The mode allows the access of an active element, where there is one. -/
def ModeAllows (s : State) (bf : BitVec 4) (m : BitVec 3) (n : Nat) : Prop :=
  vActive (curElem s) m n ≠ [] → ¬ (bf.toNat = 0 ∧ modeOf (curElem s) = 0)

theorem vPriv_ok (w : Dword) {g : Nat} (h : ModeAllows s bf m (vCount (rawFmt f) g)) : vPriv w bf m f g s = .ok ((), s) := by
  rw [vPriv, M_bind_ok (getE_ok s)]
  split
  next => rfl
  next hne => exact bfPriv_ok w (h (by simpa using hne))

/-- An access that does not go on with what it has kept takes its offset or its indices, and moves its elements. -/
theorem exec_vectorForm (hg : s.grant ≠ 0) (h27 : x.toNat ≤ 27) (hr : s.canRead x = true) (hd : store = true → vdoneOf (curElem s) = 0)
    (hp : p ∈ vectorForms s store vd vi bf x m f) (hm : ModeAllows s bf m (vAccCount p.2 (rawFmt f) s.grant)) :
    ∃ act, exec p.1 s = perform act s ∧ act s = vMove store (instrWord p.1) vd bf m f s.grant p.2 s := by
  have hnew : ¬ (store && vdoneOf (curElem s) != 0) = true := by
    cases store with
    | false => simp
    | true => simp [hd rfl]
  have hoffset (w : Dword) (a : Nat → VAddr) (hm : ModeAllows s bf m (vCount (rawFmt f) s.grant)) :
      vlsOffset w store a vd bf x m f s = vMove store w vd bf m f s.grant (a (s.src1 x).toNat) s := by
    rw [vlsOffset, M_bind_ok (getE_ok s), if_neg hnew, vGrant_bind hg, M_bind_ok (vPriv_ok w hm), M_bind_ok (readReg_workspace w h27 hr)]
  have hindexed (w : Dword) : vlsIndexed w store vd bf vi m f s =
      vMove store w vd bf m f s.grant (.indexed (elemsOf 32 (16 * s.grant) (getV (curElem s) vi).toNat)) s := by
    rw [vlsIndexed, M_bind_ok (getE_ok s), if_neg hnew, vGrant_bind hg, M_bind_ok (getE_ok s)]
    rfl
  cases store
  all_goals
    simp only [vectorForms, if_true, if_false, Bool.false_eq_true, List.mem_cons, List.not_mem_nil, or_false] at hp
    rcases hp with rfl | rfl | rfl
    · exact ⟨_, rfl, (congrFun (vlsUnit_eq ..) s).trans (hoffset _ .unit hm)⟩
    · exact ⟨_, rfl, (congrFun (vlsStrided_eq ..) s).trans (hoffset _ .strided hm)⟩
    · exact ⟨_, rfl, hindexed _⟩

/-- A store that has stalled goes on with the places and values that it has kept. -/
theorem exec_vectorForm_held (hd : vdoneOf (curElem s) ≠ 0) (hp : p ∈ vectorForms s true vd vi bf x m f) :
    ∃ act, exec p.1 s = perform act s ∧
      act s = vStores (fmtBytes (rawFmt f)) (heldStores (vgotOf (curElem s))) (vdoneOf (curElem s)) s := by
  have hheld {α : M Unit} : (if (true && vdoneOf (curElem s) != 0) = true then vStoreOn f else α) s =
      vStores (fmtBytes (rawFmt f)) (heldStores (vgotOf (curElem s))) (vdoneOf (curElem s)) s := by
    rw [if_pos (by simpa using hd), vStoreOn, M_bind_ok (getE_ok s)]
  simp only [vectorForms, if_true, List.mem_cons, List.not_mem_nil, or_false] at hp
  rcases hp with rfl | rfl | rfl
  all_goals exact ⟨_, rfl, (M_bind_ok (getE_ok s)).trans hheld⟩

variable {w : Dword} {a : VAddr} {t : State} {ps : List (Nat × Acc)}

/-- Checks that go through have found the mode to allow them. -/
theorem modeAllows_of_vCheck {k : AccKind} {sz n : Nat} (h : vCheck w k bf.toNat sz a (vActive (curElem s) m n) s = .ok (ps, t)) :
    ModeAllows s bf m n := by
  intro hne hpriv
  obtain ⟨i, is, hl⟩ := List.exists_cons_of_ne_nil hne
  rw [hl, vCheck, M_bind_ok (getE_ok s), M_bind_error (checkAt_priv w hpriv)] at h
  cases h

/-- A load whose checks go through loads its elements and sets the active ones. -/
theorem vMove_load {g : Nat}
    (h : vCheck w .load bf.toNat (fmtBytes (rawFmt f)) a (vActive (curElem s) m (vAccCount a (rawFmt f) g)) s = .ok (ps, t)) :
    vMove false w vd bf m f g a s = (vLoads (fmtBytes (rawFmt f)) (ps.map (·.2)) 0 [] none >>= fun vs => modE (fun y => putV y vd (rawFmt f)
      (((ps.map (·.1)).zip vs).foldl (fun l v => l.set v.1 v.2) (vElems (curElem s) (rawFmt f) g vd)))) t := by
  show vLoad w vd bf m f g a s = _
  rw [vLoad, M_bind_ok (getE_ok s), M_bind_ok h]

/-- A store whose checks go through stores the elements as they were. -/
theorem vMove_store {g : Nat}
    (h : vCheck w .store bf.toNat (fmtBytes (rawFmt f)) a (vActive (curElem s) m (vAccCount a (rawFmt f) g)) s = .ok (ps, t)) :
    vMove true w vd bf m f g a s =
      vStores (fmtBytes (rawFmt f)) (ps.map (fun p => (p.2, (vElems (curElem s) (rawFmt f) g vd).getD p.1 0))) 0 t := by
  show vStore w vd bf m f g a s = _
  rw [vStore, M_bind_ok (getE_ok s), M_bind_ok h]
end

theorem vectorLoads : VectorLoads := by
  intro s t vd vi bf x m f ps hg h27 hr r loads
  have h (p : Instr × VAddr) (hp : p ∈ vectorForms s false vd vi bf x m f) : loads p.1 p.2 := by
    intro hc
    obtain ⟨act, hi, ha⟩ := exec_vectorForm (store := false) hg h27 hr nofun hp (modeAllows_of_vCheck hc)
    rw [vMove_load hc] at ha
    exact ⟨fun u vs hl => does_of_perform hi (ha.trans (M_bind_ok hl)), fun u hl => exec_of_wait hi (ha.trans (M_bind_error hl))⟩
  exact ⟨h (.vld vd bf x m f, _) (by simp [vectorForms]), h (.vlds vd bf x m f, _) (by simp [vectorForms]),
    h (.vldx vd bf vi m f, _) (by simp [vectorForms])⟩

theorem vectorStores : VectorStores := by
  intro s t vd vi bf x m f ps hg h27 hr r ends stores
  have hends {i : Instr} {act rest : M Unit} {u : State} (hi : exec i s = perform act s) (ha : act s = rest u) :
      (∀ v, rest u = .ok ((), v) → Does i s v) ∧ ∀ v, rest u = .error (.wait v) → exec i s = .next v :=
    ⟨fun v h => does_of_perform hi (ha.trans h), fun v h => exec_of_wait hi (ha.trans h)⟩
  have h (p : Instr × VAddr) (hp : p ∈ vectorForms s true vd vi bf x m f) : stores p.1 p.2 := by
    refine ⟨fun hd hc => ?new, fun hd => ?held⟩
    case new =>
      obtain ⟨act, hi, ha⟩ := exec_vectorForm hg h27 hr (fun _ => hd) hp (modeAllows_of_vCheck hc)
      exact hends hi (ha.trans (vMove_store hc))
    case held =>
      obtain ⟨act, hi, ha⟩ := exec_vectorForm_held hd hp
      exact hends hi ha
  exact ⟨h (.vst vd bf x m f, _) (by simp [vectorForms]), h (.vsts vd bf x m f, _) (by simp [vectorForms]),
    h (.vstx vd bf vi m f, _) (by simp [vectorForms])⟩

/-! ## Lanes (R92) -/

theorem elemsOf_succ (b n v : Nat) : elemsOf b (n + 1) v = v % 2 ^ b :: elemsOf b n (v / 2 ^ b) := by
  have hdiv (i : Nat) : v / 2 ^ (b * (i + 1)) % 2 ^ b = v / 2 ^ b / 2 ^ (b * i) % 2 ^ b := by
    rw [Nat.mul_succ, Nat.pow_add, Nat.div_div_eq_div_mul, Nat.mul_comm (2 ^ b)]
  simp only [elemsOf, span_zero_eq_range, List.range_succ_eq_map, List.map_cons, List.map_map, Nat.mul_zero, Nat.pow_zero, Nat.div_one]
  exact congrArg _ (List.map_congr_left fun i _ => hdiv i)

theorem elemsOf_packElems (b : Nat) (l : List Nat) : elemsOf b l.length (packElems b l) = l.map (· % 2 ^ b) := by
  induction l with
  | nil => rfl
  | cons x l ih =>
    have hlo : packElems b (x :: l) % 2 ^ b = x % 2 ^ b := by
      rw [packElems, List.foldr_cons, Nat.add_mul_mod_self_left, Nat.mod_mod]
    have hhi : packElems b (x :: l) / 2 ^ b = packElems b l := by
      rw [packElems, List.foldr_cons, Nat.add_mul_div_left _ _ (Nat.two_pow_pos b), Nat.div_eq_of_lt (Nat.mod_lt _ (Nat.two_pow_pos b)), Nat.zero_add]
      rfl
    rw [List.length_cons, elemsOf_succ, hlo, hhi, ih, List.map_cons]

theorem packElems_lt (b : Nat) (l : List Nat) : packElems b l < 2 ^ (b * l.length) := by
  induction l with
  | nil => exact Nat.one_pos
  | cons x l ih =>
    have hx := Nat.mod_lt x (Nat.two_pow_pos b)
    calc packElems b (x :: l) = x % 2 ^ b + 2 ^ b * packElems b l := rfl
      _ < 2 ^ b * (packElems b l + 1) := by rw [Nat.mul_succ]; omega
      _ ≤ 2 ^ b * 2 ^ (b * l.length) := Nat.mul_le_mul_left _ ih
      _ = 2 ^ (b * (x :: l).length) := by rw [← Nat.pow_add, List.length_cons, Nat.mul_succ, Nat.add_comm]

theorem toNat_ofNat_packElems {n b : Nat} {l : List Nat} (h : b * l.length ≤ n) : (BitVec.ofNat n (packElems b l)).toNat = packElems b l := by
  rw [BitVec.toNat_ofNat, Nat.mod_eq_of_lt ((packElems_lt b l).trans_le (Nat.pow_le_pow_right Nat.two_pos h))]

/-- A register of at most eight groups holds what is written to it, each element modulo its width. -/
theorem vElems_putV (x : Elem) (vd : BitVec 5) (f : Fmt) {g : Nat} {l : List Nat} (hg : g ≤ 8) (hl : l.length = vCount f g) :
    vElems (putV x vd f l) f g vd = l.map (· % 2 ^ fmtBits f) := by
  have hbits : fmtBits f * l.length ≤ 4096 := by
    rw [hl, vCount]
    exact (Nat.mul_div_le ..).trans (by omega)
  have hget : (getV (putV x vd f l) vd).toNat = packElems (fmtBits f) l := by
    rw [getV, putV, tget_tput_same, toNat_ofNat_packElems hbits]
  rw [vElems, hget, ← hl, elemsOf_packElems]

/-- What a register reads after it has been written. -/
theorem lanes_putV (s : State) (vd : BitVec 5) {f : Fmt} {l : List Nat} (hg : s.grant ≤ 8) (hl : l.length = vCount f s.grant) :
    (modCur s (fun y => putV y vd f l)).lanes f vd = l.map (· % 2 ^ fmtBits f) := by
  rw [State.lanes, State.grant, curElem_modCur]
  exact vElems_putV _ vd f hg hl

theorem getD_map_mod (l : List Nat) (k i : Nat) : (l.map (· % k)).getD i 0 = l.getD i 0 % k := by
  simpa using List.getD_map (l := l) (d := 0) (n := i) (f := (· % k))

theorem lanes_getD_lt (s : State) (f : Fmt) (r : BitVec 5) (i : Nat) : (s.lanes f r).getD i 0 < 2 ^ fmtBits f := by
  rw [State.lanes, vElems, elemsOf, List.getD_eq_getElem?_getD, List.getElem?_map]
  cases (span 0 (vCount f s.grant))[i]? with
  | none => exact Nat.two_pow_pos _
  | some j => exact Nat.mod_lt _ (Nat.two_pow_pos _)

/-- A list with the values of some of its places set. -/
theorem getD_foldl_set (v : Nat → Nat) (l xs : List Nat) {i : Nat} (hi : i < xs.length) :
    (l.foldl (fun t j => t.set j (v j)) xs).getD i 0 = if i ∈ l then v i else xs.getD i 0 := by
  induction l generalizing xs with
  | nil => simp
  | cons j l ih =>
    rw [List.foldl_cons, ih _ (by rwa [List.length_set])]
    by_cases hij : i = j
    · subst hij
      simp [hi]
    · simp [hij, Ne.symm hij]

theorem length_foldl_set (v : Nat → Nat) (l xs : List Nat) : (l.foldl (fun t j => t.set j (v j)) xs).length = xs.length := by
  induction l generalizing xs with
  | nil => rfl
  | cons j l ih => rw [List.foldl_cons, ih, List.length_set]

theorem fmtBits_rawFmt (f : Fmt) : fmtBits (rawFmt f) = 8 * fmtBytes (rawFmt f) := by cases f <;> rfl

theorem fmtBytes_pos (f : Fmt) : 1 ≤ fmtBytes f := by cases f <;> decide

/-! ## Elements in local store -/

section
variable {s : State} {bf sz : Nat} {a : VAddr} {o v : Nat → Nat} {l : List Nat}

/-- Elements in local store have their places there. -/
theorem vCheck_local (w : Dword) (k : AccKind) (h : ∀ i ∈ l, s.localAt bf (vOff a (bfReg (curElem s) bf) sz i) sz = some (o i)) :
    vCheck w k bf sz a l s = .ok (l.map (fun i => (i, .loc (o i))), s) := by
  induction l with
  | nil => rfl
  | cons i l ih =>
    obtain ⟨hi, hl⟩ := List.forall_mem_cons.1 h
    rw [vCheck, M_bind_ok (getE_ok s), M_bind_ok (checkAt_local w hi), M_bind_ok (ih hl)]
    rfl

theorem lsLoad_ok {off : Nat} (hp : lsPoisoned (curElem s) off sz = false) : lsLoad off sz s = .ok (memRead (curElem s).ls off sz, s) := by
  rw [lsLoad, M_bind_ok (getE_ok s), hp]
  rfl

/-- Elements in local store are all loaded in one execution. -/
theorem vLoads_local (hd : vdoneOf (curElem s) = 0) (hp : ∀ i ∈ l, lsPoisoned (curElem s) (o i) sz = false) (k : Nat) (got : List Nat) :
    vLoads sz (l.map (fun i => .loc (o i))) k got none s =
      .ok (got ++ l.map (fun i => leNat (memRead (curElem s).ls (o i) sz)), modCur s (fun x => setVgot x 0 [])) := by
  induction l generalizing k got with
  | nil => rw [List.map_nil, List.map_nil, List.append_nil, vLoads, M_bind_ok (modE_ok ..)]; rfl
  | cons i l ih =>
    obtain ⟨hi, hl⟩ := List.forall_mem_cons.1 hp
    rw [List.map_cons, vLoads, M_bind_ok (M_get s), hd, if_neg (Nat.not_lt_zero k), if_neg (by simp), loadAcc, M_bind_ok (lsLoad_ok hi)]
    simpa [accLine] using ih hl (k + 1) (got ++ [leNat (memRead (curElem s).ls (o i) sz)])
end

theorem modeAllows_of_placesLocal {s : State} {bf : BitVec 4} {m : BitVec 3} {r : Fmt} {a : VAddr} {o : Nat → Nat} (h : placesLocal s bf m r a o) :
    ModeAllows s bf m (vAccCount a r s.grant) := by
  intro hne
  obtain ⟨i, hi⟩ := List.exists_mem_of_ne_nil _ hne
  obtain ⟨hlt, hact⟩ := mem_vActive.1 hi
  exact not_priv_of_localAt (h i hlt hact).1

/-- The values of the active elements, set in the register as it was. -/
def setActive (s : State) (r : Fmt) (vd : BitVec 5) (l : List Nat) (v : Nat → Nat) : List Nat := l.foldl (fun t j => t.set j (v j)) (s.lanes r vd)

/-- The active elements of an access in local store, each with its place. -/
theorem places_of_placesLocal {s : State} {bf : BitVec 4} {m : BitVec 3} {r : Fmt} {a : VAddr} {o : Nat → Nat} (h : placesLocal s bf m r a o) :
    (∀ i ∈ vActive (curElem s) m (vAccCount a r s.grant),
      s.localAt bf.toNat (vOff a (bfReg (curElem s) bf.toNat) (fmtBytes r) i) (fmtBytes r) = some (o i)) ∧
    ∀ i ∈ vActive (curElem s) m (vAccCount a r s.grant), lsPoisoned (curElem s) (o i) (fmtBytes r) = false := by
  refine ⟨fun i hi => ?_, fun i hi => ?_⟩
  all_goals obtain ⟨hlt, hact⟩ := mem_vActive.1 hi
  · exact (h i hlt hact).1
  · exact (h i hlt hact).2

/-- A load from local store sets the active elements of its register, and keeps nothing for a further execution. -/
theorem vMove_load_local (w : Dword) {s : State} {vd : BitVec 5} {bf : BitVec 4} {m : BitVec 3} {f : Fmt} {a : VAddr} {o : Nat → Nat}
    (hd : vdoneOf (curElem s) = 0) (h : placesLocal s bf m (rawFmt f) a o) : vMove false w vd bf m f s.grant a s =
      .ok ((), modCur (modCur s (fun x => setVgot x 0 [])) (fun y => putV y vd (rawFmt f)
        (setActive s (rawFmt f) vd (vActive (curElem s) m (vAccCount a (rawFmt f) s.grant))
          (fun i => leNat (memRead (curElem s).ls (o i) (fmtBytes (rawFmt f))))))) := by
  obtain ⟨hloc, hpois⟩ := places_of_placesLocal h
  rw [vMove_load (vCheck_local w .load hloc), List.map_map, List.map_map]
  have hl := vLoads_local hd hpois 0 []
  simp only [Function.comp_def, List.map_id', List.nil_append] at hl ⊢
  rw [M_bind_ok hl, modE_ok, ← List.map_prod_left_eq_zip, List.foldl_map]
  rfl

theorem grant_setVgot (s : State) (k : Nat) (l : List Nat) : (modCur s (fun x => setVgot x k l)).grant = s.grant := by
  rw [State.grant, curElem_modCur]
  rfl

theorem setActive_getD (s : State) {r : Fmt} (vd : BitVec 5) (l : List Nat) (v : Nat → Nat) {i : Nat} (hi : i < vCount r s.grant) :
    (setActive s r vd l v).getD i 0 = if i ∈ l then v i else (s.lanes r vd).getD i 0 :=
  getD_foldl_set v l _ (by rwa [lanes_length])

theorem setActive_length (s : State) (r : Fmt) (vd : BitVec 5) (l : List Nat) (v : Nat → Nat) : (setActive s r vd l v).length = vCount r s.grant := by
  rw [setActive, length_foldl_set, lanes_length]

theorem vectorLoadLocal : VectorLoadLocal := by
  intro s vd vi bf x m f o hg h8 h27 hr hd r p hp hloc
  obtain ⟨act, hi, ha⟩ := exec_vectorForm (store := false) hg h27 hr nofun hp (modeAllows_of_placesLocal hloc)
  refine ⟨_, does_of_perform hi (ha.trans (vMove_load_local _ hd hloc)), ?frame, (OnlyCur.modCur s _).after_modCur _ |>.1, fun i hn => ?lanes⟩
  case frame => rw [curElem_modCur, curElem_modCur]; rfl
  case lanes =>
    have hbits : 2 ^ fmtBits r = 2 ^ (8 * fmtBytes r) := congrArg _ (fmtBits_rawFmt f)
    have hload := leNat_lt (memRead (curElem s).ls (o i) (fmtBytes r))
    rw [memRead_length, ← hbits] at hload
    rw [lanes_putV _ vd (by rwa [grant_setVgot]) (by rw [grant_setVgot, setActive_length]), getD_map_mod, setActive_getD s vd _ _ hn]
    simp only [mem_vActive]
    split
    · exact Nat.mod_eq_of_lt hload
    · exact Nat.mod_eq_of_lt (lanes_getD_lt ..)

/-! ## Storing elements in local store (R8, R21) -/

theorem ls_putElem {x : Elem} {off n : Nat} (v : Nat) (hb : n = 8 ∨ x.lsBad.contains (off / 8) = false) :
    (putElem x off n v).ls = memPutNat x.ls off n v := by
  rw [putElem, ← logElem_ls x (off / 8)]
  unfold lsWrite
  split
  next hn => rw [beq_iff_eq.1 hn]
  next hn =>
    rw [if_neg]
    rw [logElem_lsBad, hb.resolve_left (by simpa using hn)]
    decide

theorem not_bad_of_lsPoisoned {x : Elem} {off n : Nat} (hn : 1 ≤ n) (h : lsPoisoned x off n = false) : x.lsBad.contains (off / 8) = false := by
  rw [lsPoisoned_eq_false_iff] at h
  rw [← Bool.not_eq_true, List.contains_iff_mem]
  exact fun hm => h _ hm ⟨le_rfl, Nat.div_le_div_right (by omega)⟩

theorem lsPoisoned_putElem {x : Elem} {o n : Nat} (off k v : Nat) (h : lsPoisoned x o n = false) : lsPoisoned (putElem x off k v) o n = false := by
  rw [lsPoisoned_eq_false_iff] at h ⊢
  exact fun d hd => h d (mem_lsBad_of_putElem hd)

/-- From s to t the elements of l have been stored, element i in the sz bytes from o i on: those bytes are its value's, and every other byte of local
store is as it was; of the rest, only the poison and the log of the element may have changed. -/
structure StoredAt (sz : Nat) (o v : Nat → Nat) (l : List Nat) (s t : State) : Prop where
  onlyCur : OnlyCur s t
  frame : ∃ m b d u, curElem t = { curElem s with ls := m, lsBad := b, lsTodo := d, run := u }
  stored : ∀ i ∈ l, memNat (curElem t).ls (o i) sz = v i % 2 ^ (8 * sz)
  kept : ∀ k : Nat, (∀ i ∈ l, k < o i ∨ o i + sz ≤ k) → memGet (curElem t).ls k = memGet (curElem s).ls k

/-- The places of elements do not overlap. -/
def Apart (sz : Nat) (o : Nat → Nat) (l : List Nat) : Prop := l.Pairwise fun i j => o i + sz ≤ o j ∨ o j + sz ≤ o i

section
variable {s t : State} {sz : Nat} {o v : Nat → Nat} {i : Nat} {l : List Nat}

theorem StoredAt.nil (s : State) (k : Nat) (got : List Nat) : StoredAt sz o v [] s (modCur s (fun x => setVgot x k got)) where
  onlyCur := .modCur s _
  frame := ⟨_, _, _, _, curElem_modCur ..⟩
  stored := nofun
  kept k _ := by rw [curElem_modCur]; rfl

/-- An element is stored before those that follow it. -/
theorem StoredAt.cons (hwf : Memory.wf (curElem s).ls = true) (hb : sz = 8 ∨ (curElem s).lsBad.contains (o i / 8) = false)
    (hap : ∀ j ∈ l, o i + sz ≤ o j ∨ o j + sz ≤ o i) (h : StoredAt sz o v l (s.putLs (o i) sz (v i % 2 ^ (8 * sz))) t) :
    StoredAt sz o v (i :: l) s t where
  onlyCur := (onlyCur_putLs ..).trans h.onlyCur
  frame := by
    obtain ⟨m, b, d, u, hu⟩ := h.frame
    rw [curElem_putLs, putElem_eq] at hu
    exact ⟨m, b, d, u, hu⟩
  stored := by
    refine List.forall_mem_cons.2 ⟨?_, h.stored⟩
    have hkept : memRead (curElem t).ls (o i) sz = memRead (curElem (s.putLs (o i) sz (v i % 2 ^ (8 * sz)))).ls (o i) sz :=
      memRead_congr fun k h1 h2 => h.kept k fun j hj => by have := hap j hj; omega
    rw [memNat, hkept, ← memNat, curElem_putLs, ls_putElem _ hb, memNat_memPutNat_same _ _ _ hwf, Nat.mod_mod]
  kept k hk := by
    obtain ⟨hi, hl⟩ := List.forall_mem_cons.1 hk
    rw [h.kept k hl, curElem_putLs, memGet_putElem_outside _ _ hi]

/-- Elements whose places lie apart in local store are all stored in one execution. -/
theorem vStores_local (hsz : 1 ≤ sz) (hwf : Memory.wf (curElem s).ls = true) (hroom : HasRoom (curElem s) l.length)
    (hp : ∀ i ∈ l, lsPoisoned (curElem s) (o i) sz = false) (hap : Apart sz o l) (k : Nat) :
    ∃ t, vStores sz (l.map (fun i => (.loc (o i), v i))) k s = .ok ((), t) ∧ StoredAt sz o v l s t := by
  induction l generalizing s k with
  | nil => exact ⟨_, rfl, .nil s 0 []⟩
  | cons i l ih =>
    obtain ⟨hi, hl⟩ := List.forall_mem_cons.1 hp
    obtain ⟨hapi, hapl⟩ := List.pairwise_cons.1 hap
    have hb : sz = 8 ∨ (curElem s).lsBad.contains (o i / 8) = false := .inr (not_bad_of_lsPoisoned hsz hi)
    have hst : storeAcc (.loc (o i)) (leBytes sz (v i)) s = .ok ((), s.putLs (o i) sz (v i % 2 ^ (8 * sz))) := by
      rw [storeAcc, leBytes_length, leNat_leBytes]
      exact lsStore_ok s _ _ _ (canLog_of_hasRoom hroom _) hb
    obtain ⟨t, ht, hs⟩ := ih (s := s.putLs (o i) sz (v i % 2 ^ (8 * sz))) (by rw [curElem_putLs]; exact wf_putElem _ _ _ hwf)
      (by rw [curElem_putLs]; exact hasRoom_putElem hroom _ _ _)
      (fun j hj => by rw [curElem_putLs]; exact lsPoisoned_putElem _ _ _ (hl j hj)) hapl (k + 1)
    refine ⟨t, ?_, .cons hwf hb hapi hs⟩
    rw [List.map_cons, vStores, M_bind_ok (M_get s)]
    simp only [hst]
    exact ht
end

theorem vectorStoreLocal : VectorStoreLocal := by
  intro s vd vi bf x m f o q hg h8 h27 hr hq hq0 hwf r p hp hloc n on hroom hap
  have hd : vdoneOf (curElem s) = 0 := by rw [vdoneOf, hq]; exact hq0
  obtain ⟨act, hi, ha⟩ := exec_vectorForm hg h27 hr (fun _ => hd) hp (modeAllows_of_placesLocal hloc)
  obtain ⟨hplace, hpois⟩ := places_of_placesLocal hloc
  have hapart : Apart (fmtBytes r) o (vActive (curElem s) m n) :=
    (nodup_vActive (curElem s) m n).imp_of_mem fun hi hj hne => hap _ _ (mem_vActive.1 hi) (mem_vActive.1 hj) hne
  have hlog : HasRoom (curElem s) (vActive (curElem s) m n).length :=
    ⟨q, hq, (Nat.add_le_add_left (length_vActive_le ..) _).trans hroom⟩
  obtain ⟨t, ht, hst⟩ := vStores_local (v := fun i => (s.lanes r vd).getD i 0) (fmtBytes_pos r) hwf hlog hpois hapart 0
  rw [vMove_store (vCheck_local _ .store hplace), List.map_map] at ha
  obtain ⟨l', b, d, u, hu⟩ := hst.frame
  refine ⟨t, does_of_perform hi (ha.trans ht), by rw [hu], hst.onlyCur.1, fun i hi => ?stored, fun k hk => ?kept⟩
  case stored =>
    calc _ = (s.lanes r vd).getD i 0 % 2 ^ (8 * fmtBytes r) := hst.stored i (mem_vActive.2 hi)
      _ = (s.lanes r vd).getD i 0 := Nat.mod_eq_of_lt (by rw [← fmtBits_rawFmt]; exact lanes_getD_lt ..)
  case kept => exact hst.kept k fun i hi => hk i (mem_vActive.1 hi)

/-- Settles O40: in general by the checks and moves of the elements, and in local store by their values and bytes. -/
theorem vectorMemory : Obligations.VectorMemory := ⟨vectorLoads, vectorStores, vectorLoadLocal, vectorStoreLocal⟩

end Sys2Proof.VectorUnit

/-! PROOF. Rules about the engines' operations, each proved once: what messages, machine checks and writes of physical memory leave unchanged,
which acts of a step keep the queues and whose turn it is, and how a job is read back in its queue. -/

namespace Sys2Proof.EngineCommands
open Sys2Proof.Machine

/-! ## Acts that keep the queues and the turn -/

/-- From s to t no queue has changed, nor the engine and the job whose turn it is. -/
def SameTurn (s t : State) : Prop := t.queues = s.queues ∧ t.curQ = s.curQ ∧ t.curJ = s.curJ

namespace SameTurn
variable {s t u : State}

theorem refl (s : State) : SameTurn s s := ⟨rfl, rfl, rfl⟩

theorem trans (h : SameTurn s t) (k : SameTurn t u) : SameTurn s u := ⟨k.1.trans h.1, k.2.1.trans h.2.1, k.2.2.trans h.2.2⟩

theorem curQ (h : SameTurn s t) : t.curQ = s.curQ := h.2.1

theorem queue (h : SameTurn s t) (q : QueueId) : Machine.queue t q = Machine.queue s q := by rw [Machine.queue, h.1]; rfl

theorem jobOf (h : SameTurn s t) (q : QueueId) (n : BitVec 32) : Machine.jobOf t q n = Machine.jobOf s q n := by
  rw [Machine.jobOf, h.queue]; rfl

theorem curJob (h : SameTurn s t) : Machine.curJob t = Machine.curJob s := by rw [Machine.curJob, h.jobOf, h.2.1, h.2.2]; rfl

/-- A fold keeps the turn where each of its steps does. -/
theorem foldl {α β : Type} {f : β → State} {g : β → α → β} (hg : ∀ b a, SameTurn (f b) (f (g b a))) (l : List α) (b : β) :
    SameTurn (f b) (f (l.foldl g b)) := by
  induction l generalizing b with
  | nil => exact refl _
  | cons a l ih => exact (hg b a).trans (ih (g b a))
end SameTurn

theorem sameTurn_errOf (s : State) (o : Origin) (kind : Nat) (d1 d2 d3 : Dword) : SameTurn s (errOf s o kind d1 d2 d3) := ⟨rfl, rfl, rfl⟩

theorem sameTurn_sendFab (s : State) (i dev : Nat) (b : FabBody) : SameTurn s (sendFab s i dev b).1 := by
  unfold sendFab
  split <;> exact ⟨rfl, rfl, rfl⟩

theorem sameTurn_sendMsg (s : State) (src dest ch : Nat) (payload : List Dword) (sender ts : Dword) (lid xfer : BitVec 32) :
    SameTurn s (sendMsg s src dest ch payload sender ts lid xfer none) := by
  unfold sendMsg
  dsimp only
  split
  · split <;> exact ⟨rfl, rfl, rfl⟩
  · split <;> exact sameTurn_sendFab ..

theorem sameTurn_mcheck (s : State) (d code : Nat) (addr : Dword) (el : Nat) (ts : Dword) (lid : BitVec 32) :
    SameTurn s (mcheck s d code addr el ts lid) := ⟨rfl, rfl, rfl⟩

theorem sameTurn_reportBad (s : State) (o : Origin) (l : List Nat) : SameTurn s (reportBad s o l) :=
  SameTurn.foldl (f := id) (fun t _ => sameTurn_errOf t ..) l s

/-! ## Writes of physical memory (R307, R315, R348) -/

theorem sameTurn_writePlain (s : State) (codec : Nat) (ups : Tbl Byte) : SameTurn s (writePlain s codec ups).1 := by
  unfold writePlain writeRaw storeCb
  split
  · exact .refl s
  · dsimp only
    repeat' split
    all_goals exact ⟨rfl, rfl, rfl⟩

theorem sameTurn_writeOut (s : State) (lid : BitVec 32) (pa : Nat) (ups : Tbl Byte) : SameTurn s (writeOut s lid pa ups) := by
  unfold writeOut
  split <;> exact ⟨rfl, rfl, rfl⟩

theorem sameTurn_writeCb (s : State) (lid : BitVec 32) (codec : Nat) (ups : Tbl Byte) : SameTurn s (writeCb s lid codec ups).1 := by
  unfold writeCb
  split
  · exact .refl s
  · split
    · exact .refl s
    · split
      · exact sameTurn_writeOut ..
      · exact sameTurn_writePlain ..

theorem sameTurn_applyWrites (s : State) (ws : Tbl (Byte × Nat)) : SameTurn s (applyWrites s ws).1 := by
  refine SameTurn.foldl (f := Prod.fst) (fun r g => ?_) _ (s, [])
  exact sameTurn_writeCb r.1 0 g.1 g.2

theorem sameTurn_countDrops (s : State) (i : Nat) (l : List WErr) : SameTurn s (countDrops s i l) := by
  refine SameTurn.foldl (f := id) (fun t e => ?_) l s
  dsimp only [id]
  split <;> exact ⟨rfl, rfl, rfl⟩

theorem sameTurn_applyWritesFor (s : State) (o : Origin) (ws : Tbl (Byte × Nat)) : SameTurn s (applyWritesFor s o ws) :=
  ((sameTurn_applyWrites s ws).trans (sameTurn_countDrops ..)).trans (SameTurn.foldl (f := id) (fun t _ => sameTurn_errOf t ..) _ _)

theorem sameTurn_physPutDword (s : State) (pa : Nat) (v : Dword) : SameTurn s (physPutDword s pa v) :=
  (sameTurn_applyWrites ..).trans (sameTurn_countDrops ..)

theorem sameTurn_keepMarks (s : State) (l : List Kept) : SameTurn s (keepMarks s l) := by
  unfold keepMarks
  induction l.take (l.length - s.marks.length) with
  | nil => exact .refl s
  | cons m _ ih =>
    refine ih.trans ?_
    rw [List.foldr_cons]
    unfold keepOne
    split
    · split
      · exact .refl _
      · exact sameTurn_physPutDword ..
    · exact ⟨rfl, rfl, rfl⟩

/-! ## Translations (R300 to R305) -/

theorem sameTurn_ptrKeep (s : State) (d : Nat) (ps : List PtrEnt) : SameTurn s (ptrKeep s d ps) := by
  unfold ptrKeep
  split <;> exact ⟨rfl, rfl, rfl⟩

theorem sameTurn_markPte {s : State} {l : Leaf} {walked : Bool} {k : AccKind} {m : State × Leaf} (h : markPte s l walked k = .ok m) :
    SameTurn s m.1 := by
  unfold markPte at h
  extract_lets a d need at h
  split at h
  · cases h; exact .refl s
  · split at h
    · cases h
    · cases h; exact sameTurn_physPutDword ..

theorem sameTurn_tlbInstall (s : State) (x : Xver) (t : TlbEnt) : SameTurn s (tlbInstall s x t) := by
  cases x <;> exact ⟨rfl, rfl, rfl⟩

theorem sameTurn_translate {s t : State} {x : Xver} {asid va mode : Nat} {k : AccKind} {r : Xlat} (h : translate s x asid va mode k = .ok (r, t)) :
    SameTurn s t := by
  unfold Machine.translate at h
  split at h
  · cases h
  · split at h
    · cases h
    · split at h
      · cases h
      · split at h
        · cases h
        next m hm =>
          have hs := (sameTurn_ptrKeep s _ _).trans (sameTurn_markPte hm)
          cases h
          split
          · exact hs.trans (sameTurn_tlbInstall ..)
          · exact hs

/-! ## Acts of a step that keep the turn -/

/-- An act of an engine keeps the queues and the turn wherever it goes through. -/
structure Keeps {α : Type} (m : EM α) : Prop where
  same : ∀ {s : State} {a : α} {t : State}, m s = .ok (a, t) → SameTurn s t

section
variable {α β : Type}

theorem keeps_pure (a : α) : Keeps (pure a : EM α) := ⟨fun {s _ _} h => by cases h; exact .refl s⟩

theorem keeps_get : Keeps (get : EM State) := ⟨fun {s _ _} h => by cases h; exact .refl s⟩

theorem keeps_modify {f : State → State} (hf : ∀ s, SameTurn s (f s)) : Keeps (modify f : EM Unit) :=
  ⟨fun {s _ _} h => by cases h; exact hf s⟩

theorem keeps_jobFaultIn (asid : Option Nat) (code detail : Nat) : Keeps (jobFaultIn asid code detail : EM α) := ⟨nofun⟩

theorem keeps_bind {m : EM α} {f : α → EM β} (hm : Keeps m) (hf : ∀ a, Keeps (f a)) : Keeps (m >>= f) where
  same {s _ _} h := by
    cases hms : m s with
    | error e => rw [EM_bind_error hms] at h; cases h
    | ok p => rw [EM_bind_ok hms] at h; exact (hm.same hms).trans ((hf _).same h)

theorem keeps_ite {c : Prop} [Decidable c] {m n : EM α} (hm : Keeps m) (hn : Keeps n) : Keeps (if c then m else n) := by
  split
  · exact hm
  · exact hn
end

theorem keeps_emXlatAs (asid mode : Nat) (k : AccKind) (va : Nat) : Keeps (emXlatAs asid mode k va) where
  same {s _ _} h := by
    rw [emXlatAs, EM_bind_ok (EM_get s)] at h
    cases ht : translate s (xverOf s.curQ) asid (va % 2 ^ 64) mode k with
    | error e => simp only [ht] at h; cases h
    | ok p =>
      simp only [ht] at h
      rw [EM_bind_ok (EM_set s p.2)] at h
      exact (sameTurn_translate ht).trans ((keeps_ite (keeps_jobFaultIn ..) (keeps_pure _)).same h)

theorem keeps_emLost {α : Type} (asid : Option Nat) (pa va : Nat) : Keeps (emLost asid pa va : EM α) := by
  refine keeps_bind (keeps_modify fun s => ?_) (fun _ => keeps_jobFaultIn ..)
  unfold noteLost
  split <;> exact ⟨rfl, rfl, rfl⟩

theorem keeps_emReadAux (asid mode : Nat) : ∀ k va n : Nat, Keeps (emReadAux asid mode k va n)
  | 0, _, _ => keeps_pure _
  | k + 1, va, n => by
    refine keeps_ite (keeps_pure _) (keeps_bind (keeps_emXlatAs ..) fun x => keeps_bind keeps_get fun s => ?_)
    split
    · exact keeps_emLost ..
    · exact keeps_bind (keeps_emReadAux asid mode k _ _) (fun _ => keeps_pure _)

theorem keeps_emRead (j : Job) (va n : Nat) : Keeps (emRead j va n) := keeps_emReadAux ..

theorem keeps_emPlaceAux (j : Job) : ∀ (k va : Nat) (l : List Byte) (acc : Tbl (Byte × Nat)), Keeps (emPlaceAux j k va l acc)
  | 0, _, _, _ => keeps_pure _
  | k + 1, _, _, _ => keeps_ite (keeps_pure _) (keeps_bind (keeps_emXlatAs ..) fun _ => keeps_emPlaceAux j k _ _ _)

theorem keeps_emPlace (j : Job) : ∀ (ws : List (Nat × List Byte)) (acc : Tbl (Byte × Nat)), Keeps (emPlace j ws acc)
  | [], _ => keeps_pure _
  | (_, _) :: ws, _ => keeps_bind (keeps_emPlaceAux ..) fun _ => keeps_emPlace j ws _

theorem keeps_emWrite (j : Job) (ws : List (Nat × List Byte)) : Keeps (emWrite j ws) :=
  keeps_bind (keeps_emPlace ..) fun _ => keeps_modify fun _ => sameTurn_applyWritesFor ..

theorem keeps_emFarPages (j : Job) (va n : Nat) : Keeps (emFarPages j va n) :=
  keeps_bind (keeps_emXlatAs ..) fun _ => keeps_ite (keeps_pure _) (keeps_bind (keeps_emXlatAs ..) fun _ => keeps_pure _)

theorem keeps_emSource (j : Job) (r : Shp) (far : Bool) (i : Nat) (off : Int) : Keeps (emSource j r far i off) := by
  have goOn (missed : List Nat) : Keeps (if !missed.isEmpty then pure { bytes := none, trunc := false, pages := missed } else do
      let l ← emRead j (shAddr r off) (shSize r)
      pure ({ bytes := some l, trunc := false, pages := [] } : Got)) :=
    keeps_ite (keeps_pure _) (keeps_bind (keeps_emRead ..) fun _ => keeps_pure _)
  refine keeps_ite ?inside (keeps_ite (keeps_jobFaultIn ..) (keeps_ite (keeps_pure _) (keeps_pure _)))
  exact keeps_ite (keeps_bind (keeps_pure _) goOn) (keeps_bind (keeps_emFarPages ..) goOn)

theorem keeps_rowFromShape (j : Job) (r : Shp) (i : Nat) : ∀ n k : Nat, Keeps (rowFromShape j r i n k)
  | 0, _ => keeps_pure _
  | n + 1, k => keeps_bind (keeps_emSource ..) fun _ => keeps_bind (keeps_rowFromShape j r i n (k + 1)) fun _ => keeps_pure _

theorem keeps_rowsFromShape (j : Job) (r : Shp) (depth : Nat) : ∀ n i : Nat, Keeps (rowsFromShape j r depth n i)
  | 0, _ => keeps_pure _
  | n + 1, i => keeps_bind (keeps_rowFromShape ..) fun _ => keeps_bind (keeps_rowsFromShape j r depth n (i + 1)) fun _ => keeps_pure _

theorem keeps_emOpm (at' n : Nat) : Keeps (emOpm at' n) := by
  refine keeps_bind (keeps_bind keeps_get fun _ => keeps_pure _) fun x => ?_
  split
  · exact keeps_jobFaultIn ..
  · exact keeps_pure _

theorem keeps_blockRows (shape? : Bool) (t : Tile) (f : Sys2Proof.Fmt) (slot : Nat) (j : Job) (m : Nat) : Keeps (blockRows shape? t f slot j m) :=
  keeps_ite (keeps_rowsFromShape ..) (keeps_bind (keeps_bind (keeps_emOpm ..) fun _ => keeps_pure _) fun _ => keeps_pure _)

theorem keeps_rcPut (rec' i : Nat) (v : Dword) (j : Job) : Keeps (rcPut rec' i v j) := keeps_bind (keeps_emWrite ..) fun _ => keeps_pure _

theorem keeps_rcSnapEdge (rec' : Nat) (epoch : BitVec 32) (j : Job) : Keeps (rcSnapEdge rec' epoch j) :=
  keeps_bind (keeps_emRead ..) fun _ => keeps_bind (keeps_emWrite ..) fun _ => keeps_bind keeps_get fun _ =>
    keeps_bind (keeps_rcPut ..) fun _ => keeps_bind (keeps_rcPut ..) fun _ => keeps_pure _

/-! ## Jobs in their queues (R157, R192) -/

section
variable {s t : State} {q : QueueId} {n : BitVec 32} {j k : Job}

theorem jobOf_jid (h : jobOf s q n = some j) : j.jid = n := by simpa using List.find?_some h

theorem curJob_jid (h : curJob s = some j) : j.jid = s.curJ := jobOf_jid h

theorem jobOf_of_curJob (h : curJob s = some j) : jobOf s s.curQ j.jid = some j := by rw [curJob_jid h]; exact h

theorem jobOf_modQueue {f : EQueue → EQueue} (hf : (f (queue s q)).jobs = (queue s q).jobs) : jobOf (modQueue s q f) q n = jobOf s q n := by
  rw [jobOf, queue_modQueue_same, hf, jobOf]

/-- A job that is put back is the one its queue then names. -/
theorem jobOf_setJob (h : jobOf s q k.jid = some j) : jobOf (setJob s q k) q k.jid = some k := by
  have hp : ((fun x : Job => x.jid == k.jid) ∘ fun x => if (x.jid == k.jid) = true then k else x) = fun x => x.jid == k.jid := by
    funext x
    by_cases hx : x.jid = k.jid <;> simp [hx]
  rw [jobOf] at h
  rw [jobOf, setJob, queue_modQueue_same, List.find?_map, hp, h]
  simp [jobOf_jid h]

theorem curJob_setJob (h : curJob t = some j) (hk : k.jid = j.jid) : curJob (setJob t t.curQ k) = some k := by
  have := jobOf_setJob (k := k) (hk ▸ jobOf_of_curJob h)
  rwa [hk, curJob_jid h] at this

theorem curJob_modQueue {f : EQueue → EQueue} (hf : (f (queue s s.curQ)).jobs = (queue s s.curQ).jobs) :
    curJob (modQueue s s.curQ f) = curJob s := jobOf_modQueue hf
end

/-! ## Messages and faults (R144, R192, R369, R370) -/

/-- A message to a usable element of this device is in flight to it. -/
theorem sendMsg_usable {s : State} {e dest : Nat} (hd : dest = elAddr s e) (h : elUsable s e = true) (src ch : Nat) (payload : List Dword)
    (sender ts : Dword) (lid xfer : BitVec 32) (from' : Option Nat) :
    sendMsg s src dest ch payload sender ts lid xfer from' = post s src e (.ev e (msgEv ch payload sender ts lid xfer)) := by
  have he : e < 2048 := of_decide_eq_true (Bool.and_elim_left h)
  have hdev : dest / 2048 = s.regs.devnum.toNat := by rw [hd, elAddr]; omega
  have hel : dest % 2048 = e := by rw [hd, elAddr]; omega
  unfold sendMsg
  simp only [hdev, hel, h, beq_self_eq_true, if_true]

theorem mem_net_post (s : State) (src dst : Nat) (b : Body) : ∃ p ∈ (post s src dst b).net, p.dst = dst ∧ p.body = b :=
  ⟨_, List.mem_append_right _ (List.mem_singleton_self _), rfl, rfl⟩

section
variable (s : State) (q : QueueId) (j : Job) (code detail asid : Nat)

/-- A suspended job's step boundary is over, but its queue holds the jobs it held. -/
theorem faultJob_eq : ∃ f : EQueue → EQueue, (∀ x, (f x).jobs = x.jobs) ∧
    SameTurn (modQueue (setJob s q { j with state := 5, code := code }) q f) (faultJob s q j code detail asid) := by
  refine ⟨fun x => if x.active == some j.jid then { x with active := none, edge := none } else x, fun x => by dsimp only; split <;> rfl, ?_⟩
  unfold faultJob
  dsimp only
  split
  · exact (sameTurn_sendMsg ..).trans (sameTurn_mcheck ..)
  · exact sameTurn_sendMsg ..

variable {s q j}

theorem jobOf_faultJob {k : Job} (h : jobOf s q j.jid = some k) :
    jobOf (faultJob s q j code detail asid) q j.jid = some { j with state := 5, code := code } := by
  obtain ⟨f, hf, hs⟩ := faultJob_eq s q j code detail asid
  rw [hs.jobOf, jobOf_modQueue (hf _)]
  exact jobOf_setJob (k := { j with state := 5, code := code }) h

theorem curJob_faultJob {k : Job} (h : curJob s = some k) (hj : j.jid = k.jid) :
    curJob (faultJob s s.curQ j code detail asid) = some { j with state := 5, code := code } := by
  obtain ⟨f, hf, hs⟩ := faultJob_eq s s.curQ j code detail asid
  rw [hs.curJob]
  exact (curJob_modQueue (hf _)).trans (curJob_setJob (k := { j with state := 5, code := code }) h hj)

/-- The message of R369 is in flight to the pushing element. -/
theorem faultJob_message (h : elUsable s j.o.el = true) :
    ∃ p ∈ (faultJob s q j code detail asid).net, p.dst = j.o.el ∧ p.body = .ev j.o.el (msgEv 4
      [j.jid.setWidth 64, statusWord j.aux j.flags code 5, dw detail, dw (elAddr s j.o.el + asid % 65536 * 2 ^ 32)] 0 j.o.ts j.o.lid 0) := by
  unfold faultJob
  dsimp only
  rw [sendMsg_usable (e := j.o.el) ?dest ?usable]
  case dest => rfl
  case usable => exact h
  obtain ⟨p, hp, hb⟩ := mem_net_post (modQueue (setJob s q { j with state := 5, code := code }) q fun x =>
    if x.active == some j.jid then { x with active := none, edge := none } else x) (uQueue q) j.o.el (.ev j.o.el (msgEv 4
      [j.jid.setWidth 64, statusWord j.aux j.flags code 5, dw detail, dw (elAddr s j.o.el + asid % 65536 * 2 ^ 32)] 0 j.o.ts j.o.lid 0))
  split
  · exact ⟨p, List.mem_append_left _ hp, hb⟩
  · exact ⟨p, hp, hb⟩
end

/-- A machine check is the last record of its die's log. -/
theorem mclog_mcheck (s : State) (d code : Nat) (addr : Dword) (el : Nat) (ts : Dword) (lid : BitVec 32) :
    ∃ r : McRec, (die (mcheck s d code addr el ts lid) d).mclog.getLast? = some r ∧ r.code = code ∧ r.addr = addr := by
  refine ⟨{ code := code, count := (die s d).mccount, addr := addr, el := elAddr s el, round := s.roundNo }, ?_, rfl, rfl⟩
  have hlog (r : McRec) : (die (modDie s d fun x =>
      { x with mccount := (die s d).mccount + 1, mclog := (x.mclog ++ [r]).drop (x.mclog.length + 1 - 256) }) d).mclog =
        ((die s d).mclog ++ [r]).drop ((die s d).mclog.length + 1 - 256) := by rw [die_modDie_same]
  refine (congrArg List.getLast? (hlog _)).trans ?_
  rw [List.drop_append_of_le_length (by omega), List.getLast?_append]
  rfl

end Sys2Proof.EngineCommands

/-! PROOF. The issue of engine commands (O45): an unissued command runs its checks alone, and a failed check suspends the job and tells the
pushing element. -/

namespace Sys2Proof.EngineCommands
open Sys2Proof Sys2Proof.Machine

/-! ## A step of a command (R192, R333) -/

section
variable {i : Instr} {s t : State} {j k : Job} {f check work : Job → EM Job}

/-- What a step of a command leaves is its job in the state that its act has reached. -/
theorem leaves_of_step (hw : s.working i j) (hi : exec i s = jobStep i f s) (h : f j s = .ok (k, t)) : Leaves i s t k := by
  obtain ⟨hcur, hfin, hstate, hcmd⟩ := hw
  exact hi.trans ((jobStep_of f hcur hfin hstate hcmd).1 k t h)

theorem stops_of_step {e : JobStop} (hw : s.working i j) (hi : exec i s = jobStep i f s) (h : f j s = .error e) :
    exec i s = .next (jobStopped s j e) := by
  obtain ⟨hcur, hfin, hstate, hcmd⟩ := hw
  exact hi.trans ((jobStep_of f hcur hfin hstate hcmd).2 e h)

/-- A step that faults leaves the state as it was, but for what outlives the step. -/
theorem faults_of_step {code detail : Nat} {m : List Kept} (hw : s.working i j) (hi : exec i s = jobStep i f s)
    (h : f j s = .error { code := code, detail := detail, asid := none, marks := m, kept := none }) (hc : j.cancel = false) :
    exec i s = .next (faultJob (keepMarks s m) s.curQ j code detail j.o.asid) := by
  rw [stops_of_step hw hi h, jobStopped, hc]
  rfl

theorem leaves_of_work (hw : s.working i j) (hj : j.issued = true) (hi : exec i s = jobStep i (issueThen check work) s)
    (h : work j s = .ok (k, t)) : Leaves i s t k :=
  leaves_of_step hw hi ((issueThen_work hj).trans h)

theorem faults_of_work {code detail : Nat} {m : List Kept} (hw : s.working i j) (hj : j.issued = true)
    (hi : exec i s = jobStep i (issueThen check work) s)
    (h : work j s = .error { code := code, detail := detail, asid := none, marks := m, kept := none }) (hc : j.cancel = false) :
    exec i s = .next (faultJob (keepMarks s m) s.curQ j code detail j.o.asid) :=
  faults_of_step hw hi ((issueThen_work hj).trans h) hc

end

@[simp] theorem jobFault_error {α : Type} (code detail : Nat) (s : State) :
    (jobFault code detail : EM α) s = .error { code := code, detail := detail, asid := none, marks := s.marks, kept := none } := rfl

section
variable {α : Type} {s t : State} {c : Prop} [Decidable c] {f : EM α}

/-- An act that is done only under a condition, before the rest. -/
theorem ite_act_bind {m : EM Unit} (h : (if c then m s else .ok ((), s)) = .ok ((), t)) : (if c then m >>= fun _ => f else f) s = f t := by
  split at h
  next hc => rw [if_pos hc, EM_bind_ok h]
  next hc => cases h; rw [if_neg hc]

theorem ite_modify_bind (g : State → State) : (if c then modify g >>= fun _ => f else f) s = f (if c then g s else s) := by
  split <;> rfl
end

/-! ## The issue (R192) -/

/-- A command whose step is its checks alone while its job is unissued. -/
def ChecksAtIssue (p : Instr × (Job → EM Job)) : Prop :=
  ∀ (s : State) (j : Job), s.working p.1 j → j.issued = false → isBfWork s.curQ j = false →
    (∀ (k : Job) (t : State), p.2 j s = .ok (k, t) → Leaves p.1 s t { k with issued := true }) ∧
    (∀ e : JobStop, p.2 j s = .error e → exec p.1 s = .next (jobStopped s j e))

theorem checksAtIssue_of_issueThen {i : Instr} {check work : Job → EM Job} (hi : ∀ s, exec i s = jobStep i (issueThen check work) s) :
    ChecksAtIssue (i, check) := fun s _ hw hj _ =>
  ⟨fun _ _ h => leaves_of_step hw (hi s) (issueThen_issue hj h), fun _ h => stops_of_step hw (hi s) (issueThen_fault hj h)⟩

theorem exec_bfill (h : CmdHdr) (g l : BitVec 16) (perl : Bool) (x : Dword) (s : State) :
    exec (.bfill h g l perl x) s = jobStep (.bfill h g l perl x) (bfTurn g.toNat l.toNat perl x.toNat) s := rfl

/-- The opcode of a BFILL's command word (R238). -/
theorem cmdOpc_bfill {h : CmdHdr} {g l : BitVec 16} {perl : Bool} {x : Dword} {c : BitVec 256} (hc : encodeCmd (.bfill h g l perl x) = some c) :
    cmdOpc c = 0x40 := by
  obtain rfl := Option.some.inj hc
  have := Encodings.hdr_eq h 0x40
  simp only [cmdOpc, nbits, BitVec.toNat_ofNat, this]
  omega

/-- A BFILL in its own queue issues and then works layer by layer (R239). -/
theorem bfTurn_own {s : State} (gexit last : Nat) (perl : Bool) (rec' : Nat) (j : Job) (h : s.curQ.eng ≠ 0) :
    bfTurn gexit last perl rec' j s = issueThen (bfCheck last rec') (bfWork gexit last perl) j s := by
  rw [bfTurn, EM_bind_ok (EM_get s), if_neg (by simpa using h)]

theorem checksAtIssue_bfill (h : CmdHdr) (g l : BitVec 16) (perl : Bool) (x : Dword) :
    ChecksAtIssue (.bfill h g l perl x, bfCheck l.toNat x.toNat) := by
  intro s j hw hj hb
  have hq : s.curQ.eng ≠ 0 := by simpa [isBfWork, cmdOpc_bfill hw.2.2.2] using hb
  exact ⟨fun _ _ hk => leaves_of_step hw (exec_bfill ..) ((bfTurn_own _ _ _ _ _ hq).trans (issueThen_issue hj hk)),
    fun _ he => stops_of_step hw (exec_bfill ..) ((bfTurn_own _ _ _ _ _ hq).trans (issueThen_fault hj he))⟩

/-- Every command of the list but BFILL is issued by the one shared form, and BFILL by it in its own queue. -/
theorem checksAtIssue (h : CmdHdr) (f1 f2 f3 : Bool) (b8a b8b : BitVec 8) (cn1 : BitVec 6) (row0 nrow1 : BitVec 13) (k16a k16b : BitVec 16)
    (b2 rm : BitVec 2) (b5 : BitVec 5) (f22 : BitVec 22) (w32 : BitVec 32) (nb1 : BitVec 10) (fmt : Fmt) (slot : BitVec 8) (x y : Dword) :
    ∀ p ∈ issueChecks h f1 f2 f3 b8a b8b cn1 row0 nrow1 k16a k16b b2 rm b5 f22 w32 nb1 fmt slot x y, ChecksAtIssue p := by
  unfold issueChecks
  iterate 13 refine List.forall_mem_cons.2 ⟨checksAtIssue_of_issueThen fun _ => rfl, ?_⟩
  refine List.forall_mem_cons.2 ⟨checksAtIssue_bfill h k16a k16b f1 x, ?_⟩
  iterate 8 refine List.forall_mem_cons.2 ⟨checksAtIssue_of_issueThen fun _ => rfl, ?_⟩
  exact List.forall_mem_nil _

/-! ## The suspended job (R192, R369) -/

theorem curJob_jobStopped {s : State} {j : Job} {e : JobStop} (h : curJob s = some j) (hk : e.kept = none) (hc : j.cancel = false) :
    curJob (jobStopped s j e) = some { j with state := 5, code := e.code } := by
  have hs := sameTurn_keepMarks s e.marks
  rw [jobStopped, hk, if_neg (by rw [hc]; decide), Option.getD_none, ← hs.curQ]
  exact curJob_faultJob _ _ _ (hs.curJob.trans h) rfl

theorem faultJob_poison (s : State) (q : QueueId) (j : Job) (detail asid : Nat) :
    ∃ r : McRec, (die (faultJob s q j 25 detail asid) (queueDie q)).mclog.getLast? = some r ∧ r.code = 8 ∧ r.addr = dw detail := by
  unfold faultJob
  exact mclog_mcheck ..

/-- Settles O45: the checks by the one form of a command's step, the suspension and its message by what faultJob leaves. -/
theorem commandIssue : Obligations.CommandIssue := by
  refine ⟨checksAtIssue, fun s j e h hk hc => ⟨_, curJob_jobStopped h hk hc, rfl, rfl⟩, fun s q j code detail asid h hu => ?_⟩
  obtain ⟨p, hp, hdst, hbody⟩ := faultJob_message (q := q) code detail asid hu
  refine ⟨jobOf_faultJob code detail asid h, ⟨p, hp, hdst, _, hbody, rfl, rfl, rfl, rfl⟩, ?_⟩
  rintro rfl
  exact faultJob_poison ..

end Sys2Proof.EngineCommands

/-! PROOF. The steps of the copy commands and of KVGATHER (O48). Each step is the run of its work from the answers of its parts; the four
copying commands that move elements from shape to shape share one burst, and every copying command one end. -/

namespace Sys2Proof.EngineCommands
open Sys2Proof Sys2Proof.Machine

/-! ## Bursts and ends (R192, R209, R313) -/

theorem span_eq_map (a n : Nat) : span a n = (List.range n).map (· + a) := by
  rw [VectorUnit.span_eq_range', List.range'_eq_map_range]
  simp only [Nat.add_comm]

theorem length_walk (a n : Nat) : ((List.range n).map (· + a)).length = n := by rw [List.length_map, List.length_range]

section
variable {s t u v w : State} {i : Instr} {j k : Job} {check work : Job → EM Job} {n : Nat}

theorem emWrite_ok {ws : List (Nat × List Byte)} {tb : Tbl (Byte × Nat)} (h : emPlace j ws [] t = .ok (tb, u)) :
    emWrite j ws t = .ok ((), applyWritesFor u j.o tb) := by
  rw [emWrite, EM_bind_ok h]
  rfl

theorem copyDone_more (h : k.prog < n) (s : State) : copyDone n k s = .ok (k, s) := by rw [copyDone, if_pos h]; rfl

theorem copyDone_missed (h : n ≤ k.prog) (hp : jPages k ≠ []) (ht : tierEvent k (jPages k) false s = .ok ((), w)) :
    copyDone n k s = .ok ({ k with fin := some 13 }, w) := by
  rw [copyDone, if_neg (Nat.not_lt.2 h), if_pos (by simpa using hp), EM_bind_ok ht]
  rfl

/-- A step whose work comes to the end of a copying job. -/
theorem copyEnds_of (hw : s.working i j) (hj : j.issued = true) (hi : exec i s = jobStep i (issueThen check work) s) (hk : k.fin = none)
    (h : work j s = copyDone n k v) : CopyEnds i s v k n := by
  refine ⟨fun hp => leaves_of_work hw hj hi (h.trans ?_), fun x hn hp ht => leaves_of_work hw hj hi (h.trans (copyDone_missed hn hp ht))⟩
  by_cases hlt : k.prog < n
  · rw [copyDone_more hlt, if_neg (Nat.not_le.2 hlt), ← hk]
  · exact copyDone_ok hk (hp.resolve_right hlt)

theorem emBurst_ok {src dst : Shp} {far : Bool} {pair : Nat → SrcEl × Int} {b : Burst} {tb : Tbl (Byte × Nat)}
    (hg : emGather j src dst far pair ((List.range (Nat.min (burstLen (shSize dst)) (n - j.prog))).map (· + j.prog)) s = .ok (b, t))
    (hp : emPlace j b.ws [] t = .ok (tb, u)) :
    emBurst j src dst n far pair s =
      .ok ({ jNote j b.trunc b.pages with prog := j.prog + Nat.min (burstLen (shSize dst)) (n - j.prog), aux := j.aux + b.ws.length },
        (applyWritesFor u j.o tb).bounded (b.ws.length * shSize dst)) := by
  rw [← span_eq_map] at hg
  simp only [emBurst, EM_bind_ok hg, EM_bind_ok (emWrite_ok hp), EM_bind_ok (stepEnd_ok _ _), EM_pure, Scalar.span_length]
  rfl

/-- A command whose work is one burst and the end of a copying job. -/
theorem bursts_of {far : Bool} {pair : Nat → SrcEl × Int} {aux : Job → Nat} (hi : exec i s = jobStep i (issueThen check work) s)
    (hwork : work j = emBurst j (jSrc j) (jDst j) (jTotal j) far pair >>= fun k => copyDone (jTotal j) { k with aux := aux k }) :
    Bursts i s j far pair aux := by
  intro t u b tb hw hj m hg hp
  refine copyEnds_of hw hj hi ?_ ?_
  · exact hw.2.1
  · rw [hwork, EM_bind_ok (emBurst_ok hg hp)]
end

/-! ## CPYM and CPYMSG (R213, R218) -/

section
variable {s t u v : State} {j : Job} {far : Bool} {es : List (Nat × List Byte)} {tr : Bool} {pages : List Nat}

theorem cpymWork_eq (die rowm colm slot off : Nat) (slots dsig : Bool)
    (hr : cpymRead j far ((List.range (Nat.min (burstLen (shSize (jSrc j))) (jTotal j - j.prog))).map (· + j.prog)) s = .ok ((es, tr, pages), t)) :
    let sz := shSize (jSrc j)
    let cs := cpymDests s die rowm colm
    let k := { jNote j tr pages with prog := j.prog + Nat.min (burstLen sz) (jTotal j - j.prog), aux := cs.length }
    let u := cs.foldl (fun v c => cpymLand v j.o sz slots (if slots then slot else off) es c) t
    let v := if dsig then cs.foldl (cpymSignal j (es.length * sz) (decide (jTotal j ≤ k.prog))) u else u
    cpymWork die rowm colm slots dsig far slot off j s = copyDone (jTotal j) k (v.bounded (es.length * sz)) := by
  rw [← span_eq_map] at hr
  simp only [cpymWork, EM_bind_ok (EM_get s), EM_bind_ok hr, EM_bind_ok (EM_modify _ _), EM_bind_ok (stepEnd_ok _ _), Scalar.span_length]
  rfl

theorem cpymsgWork_eq
    (hr : cpymRead j far ((List.range (Nat.min (burstLen (shSize (jSrc j))) (jTotal j - j.prog))).map (· + j.prog)) s = .ok ((es, tr, pages), t))
    (he : emWrite j (es.map fun e => ((jKept j 0 + e.1 * shSize (jSrc j)) % 2 ^ 64, e.2)) t = .ok ((), u))
    {k : Job} (hk : k = { jNote j tr pages with prog := j.prog + Nat.min (burstLen (shSize (jSrc j))) (jTotal j - j.prog) })
    (hv : (if jTotal k ≤ k.prog then cpymsgEnd k (u.bounded (es.length * shSize (jSrc j))) else .ok ((), u.bounded (es.length * shSize (jSrc j)))) =
      .ok ((), v)) :
    cpymsgWork far j s = copyDone (jTotal k) k v := by
  subst hk
  rw [← span_eq_map] at hr
  simp only [cpymsgWork, EM_bind_ok hr, EM_bind_ok he, EM_bind_ok (stepEnd_ok _ _), Scalar.span_length]
  exact ite_act_bind hv
end

/-! ## CPYPG (R215, R216) -/

section
variable {s t u v w : State} {j k : Job} {npg tier va0 : Nat} {l : Leaf} (hl : pageLeaf j (va0 + 65536 * j.prog) s = .ok (l, t))
include hl

theorem cpypgWork_there (hp : j.phase = 0) (ht : fld l.pte 9 8 = tier) :
    cpypgWork npg tier va0 j s = .ok (pageNext npg false j, t.bounded 0) := by
  rw [cpypgWork, EM_bind_ok hl, EM_bind_ok (EM_get t), if_pos (by simp [hp, ht])]
  rfl

theorem cpypgWork_waits (hp : j.phase = 0) (ht : fld l.pte 9 8 ≠ tier) (hm : pageMoving t t.curQ j (pteFrame l.pte) = true) :
    cpypgWork npg tier va0 j s = .ok (j, t) := by
  rw [cpypgWork, EM_bind_ok hl, EM_bind_ok (EM_get t), if_neg (by simp [ht]), if_pos (by simp [hp, hm])]
  rfl

/-- A piece of a page that moves: the job k holds its frames, taken now where the page begins. -/
theorem cpypgWork_piece (hm : j.phase = 0 → fld l.pte 9 8 ≠ tier ∧ pageMoving t t.curQ j (pteFrame l.pte) = false)
    (hk : (if j.phase = 0 then pageTake j tier (va0 + 65536 * j.prog) l t else .ok (j, t)) = .ok (k, u))
    (hv : pagePiece k (va0 + 65536 * j.prog) (k.buf.getD 3 0) (k.buf.getD 2 0) (fld l.pte 11 10) k.phase u = .ok ((), v)) :
    cpypgWork npg tier va0 j s = (if k.phase < 15 then pure { k with phase := k.phase + 1 } else do
      pageEnd k tier (va0 + 65536 * j.prog)
      pure (pageNext npg true k)) (v.bounded 4096) := by
  rw [cpypgWork, EM_bind_ok hl, EM_bind_ok (EM_get t)]
  by_cases hp : j.phase = 0
  · obtain ⟨htier, hmove⟩ := hm hp
    rw [if_pos hp] at hk
    rw [if_neg (by simp [htier]), if_neg (by simp [hmove]), if_pos (by simp [hp])]
    dsimp only
    rw [EM_bind_ok hk, EM_bind_ok hv, EM_bind_ok (stepEnd_ok _ _)]
    rfl
  · rw [if_neg hp] at hk
    cases hk
    rw [if_neg (by simp [hp]), if_neg (by simp [hp]), if_neg (by simp [hp])]
    dsimp only
    rw [EM_bind_ok (EM_pure j t), EM_bind_ok hv, EM_bind_ok (stepEnd_ok _ _)]
    rfl
end

/-! ## KVGATHER (R241, R242) -/

section
variable {s t u v w : State} {j q : Job} {pol far : Bool} {part : BitVec 2} {e : Dword}

theorem kgRow_ok {bit : Bool} {kr vr : List Byte} (h : kgWrite j part (part == 1) j.prog (if part = 1 then vr else kr) t = .ok (q, w)) :
    kgRow part bit kr vr j t = .ok (if part = 2 then { q with phase := 1, buf := bnat bit :: vr.map (·.toNat) } else kgNext q bit none, w) := by
  simp only [kgRow, beq_iff_eq, EM_bind_ok h]
  split <;> rfl

theorem kgWork_values (hp : j.phase = 1) (h : kgWrite j part true j.prog ((j.buf.drop 1).map (BitVec.ofNat 8)) s = .ok (q, w)) :
    kgWork pol far part j s = .ok (kgNext q (j.buf.headD 0 == 1) none, w) := by
  rw [kgWork, if_pos (by simp [hp]), EM_bind_ok h]
  rfl

theorem kgWork_step (hp : j.phase ≠ 1) (hn : j.prog < kgN j) : kgWork pol far part j s = kgStep pol far part j s := by
  rw [kgWork, if_neg (by simp [hp]), if_pos hn]

/-- The row of zeros that a position without data gives. -/
def zeroRow (j : Job) : List Byte := List.replicate (rootD (kgRoot j) * rootS (kgRoot j)) 0

theorem kgStep_absent (h : kgEntry j (kgPos j j.prog) s = .ok (none, t)) :
    kgStep pol far part j s = kgRow part false (zeroRow j) (zeroRow j) j t := by
  rw [kgStep, EM_bind_ok h]
  rfl

theorem kgStep_far (h : kgEntry j (kgPos j j.prog) s = .ok (some e, t)) (he : entTier e = 1) :
    kgStep pol false part j s = .ok (kgNext j false (some (entPa e / 65536 * 65536)), t.bounded 0) := by
  rw [kgStep, EM_bind_ok h]
  dsimp only
  rw [if_pos (by simp [he])]
  rfl

section
variable {valid pend : Bool} (h : kgEntry j (kgPos j j.prog) s = .ok (some e, t)) (he : entTier e = 1 → far = true)
  (hb : kgBits j (entPa e) (kgPos j j.prog) t = .ok ((valid, pend), u))
include h he hb

theorem kgStep_present : kgStep pol far part j s = (if valid then do
      let r ← kgRows part j (entPa e) (kgPos j j.prog)
      kgRow part true r.1 r.2 j
    else if pend && pol then do
      stepEnd 0
      pure { j with state := 3 }
    else kgRow part false (zeroRow j) (zeroRow j) j) u := by
  rw [kgStep, EM_bind_ok h]
  dsimp only
  rw [if_neg (by simpa using he), EM_bind_ok hb]
  rfl

theorem kgStep_valid {kr vr : List Byte} (hv : valid = true) (hr : kgRows part j (entPa e) (kgPos j j.prog) u = .ok ((kr, vr), v)) :
    kgStep pol far part j s = kgRow part true kr vr j v := by
  rw [kgStep_present h he hb, if_pos hv, EM_bind_ok hr]

theorem kgStep_defers (hv : valid = false) (hp : pend = true) (hd : pol = true) :
    kgStep pol far part j s = .ok ({ j with state := 3 }, u.bounded 0) := by
  rw [kgStep_present h he hb, if_neg (by simp [hv]), if_pos (by simp [hp, hd])]
  rfl

theorem kgStep_empty (hv : valid = false) (hp : pend = false ∨ pol = false) :
    kgStep pol far part j s = kgRow part false (zeroRow j) (zeroRow j) j u := by
  rw [kgStep_present h he hb, if_neg (by simp [hv]), if_neg (by simpa [← Bool.not_eq_true, imp_iff_not_or] using hp)]
end

theorem kgEnd_whole (hp : kgPages j = []) : kgEnd j s = .ok ({ j with fin := some (j.data.getD 14 0) }, s) := by
  rw [kgEnd, if_pos (by simp [hp])]
  rfl

theorem kgEnd_missed (hp : kgPages j ≠ []) (ht : tierEvent j (kgPages j) true s = .ok ((), v)) :
    kgEnd j s = .ok ({ j with fin := some 13 }, v) := by
  rw [kgEnd, if_neg (by simpa using hp), EM_bind_ok ht]
  rfl

/-- A burst of the mask, and what follows it. -/
theorem kgWork_mask (hp : j.phase ≠ 1) (hn : kgN j ≤ j.prog) {l : List Byte} {k : Job} (hk : k = { j with phase := Nat.max 2 j.phase })
    (hl : l = ((leBytes ((kgN j + 63) / 64 * 8) (kgMask j)).drop (4096 * (k.phase - 2))).take 4096)
    (hw : emWrite k [((kgRec j 3).toNat + 4096 * (k.phase - 2), l)] s = .ok ((), u)) :
    kgWork pol far part j s =
      (if 4096 * (k.phase - 1) < (kgN j + 63) / 64 * 8 then pure { k with phase := k.phase + 1 } else kgEnd k) (u.bounded l.length) := by
  have hburst : kgMaskBurst k s = .ok ((), u.bounded l.length) := by
    subst hk hl
    exact (EM_bind_ok hw).trans (stepEnd_ok _ _)
  rw [kgWork, if_neg (by simp [hp]), if_neg (Nat.not_lt.2 hn), ← hk]
  exact EM_bind_ok hburst
end

/-! ## The tier-miss event (R313) -/

theorem tierEvent_usable (s : State) (j : Job) (pages : List Nat) (phys : Bool) (h : elUsable s j.o.el = true) :
    tierEvent j pages phys s = .ok ((), post s (uQueue s.curQ) j.o.el (.ev j.o.el (msgEv 2
      ([dw (j.jid.toNat + Nat.min pages.length 65535 * 2 ^ 32 + bnat (decide (30 < pages.length)) * 2 ^ 48 + bnat phys * 2 ^ 49),
        dw (j.o.asid % 65536)] ++ (pages.take 30).map dw) 0 j.o.ts j.o.lid 0))) := by
  rw [← sendMsg_usable rfl h]
  rfl

/-! ## The obligation -/

section
variable (s : State) (j : Job) (h : CmdHdr) (f1 far dsig : Bool) (hj : j.issued = true)
include hj

theorem cpym_step (b8a b8b slot : BitVec 8) (b2 : BitVec 2) (off : BitVec 22) (x : Dword) {t : State} {es : List (Nat × List Byte)} {tr : Bool}
    {pages : List Nat} (hw : s.working (.cpym h b8a b8b b2 f1 dsig far slot x off) j)
    (hr : cpymRead j far ((List.range (Nat.min (burstLen (shSize (jSrc j))) (jTotal j - j.prog))).map (· + j.prog)) s = .ok ((es, tr, pages), t)) :
    let sz := shSize (jSrc j)
    let cs := cpymDests s b2.toNat b8a.toNat b8b.toNat
    let k := { jNote j tr pages with prog := j.prog + Nat.min (burstLen sz) (jTotal j - j.prog), aux := cs.length }
    let u := cs.foldl (fun v c => cpymLand v j.o sz f1 (if f1 then slot.toNat else off.toNat) es c) t
    let v := if dsig then cs.foldl (cpymSignal j (es.length * sz) (decide (jTotal j ≤ k.prog))) u else u
    CopyEnds (.cpym h b8a b8b b2 f1 dsig far slot x off) s (v.bounded (es.length * sz)) k (jTotal j) :=
  copyEnds_of hw hj rfl (by exact hw.2.1) (cpymWork_eq b2.toNat b8a.toNat b8b.toNat slot.toNat off.toNat f1 dsig hr)
end

/-- Settles O48: each command by its work's run, and the message of missed pages by tierEvent's. -/
theorem copyCommands : Obligations.CopyCommands := by
  intro s j h f1 far dsig b8a b8b slot k16 b2 off x y hj is
  refine ⟨bursts_of rfl rfl, bursts_of rfl rfl, bursts_of rfl rfl, bursts_of rfl rfl, ?cpym, ?cpymsg, ?cpypg, ?kvgather, ?event⟩
  case cpym =>
    intro t es tr pages hw sz hr
    have hlen : (is sz).length = Nat.min (burstLen sz) (jTotal j - j.prog) := length_walk ..
    rw [hlen]
    exact cpym_step s j h f1 far dsig hj b8a b8b slot b2 off x hw hr
  case cpymsg =>
    intro t u v es tr pages hw sz hr he k hv
    have hk : k = { jNote j tr pages with prog := j.prog + Nat.min (burstLen sz) (jTotal j - j.prog) } := by
      simp only [k, is, length_walk]
    exact copyEnds_of hw hj rfl hw.2.1 (cpymsgWork_eq hr he hk hv)
  case cpypg =>
    intro l t i va there hw hl
    refine ⟨fun hp ht => leaves_of_work hw hj rfl (cpypgWork_there hl hp ht),
      fun hp ht hm => leaves_of_work hw hj rfl (cpypgWork_waits hl hp ht hm), fun k u v hm hk hv => ⟨fun hlt => ?_, fun w hge he => ?_⟩⟩
    · exact leaves_of_work hw hj rfl ((cpypgWork_piece hl hm hk hv).trans (by rw [if_pos hlt]; rfl))
    · exact leaves_of_work hw hj rfl ((cpypgWork_piece hl hm hk hv).trans (by rw [if_neg (Nat.not_lt.2 hge), EM_bind_ok he]; rfl))
  case kvgather =>
    intro i pos zero row hw
    have hrow {bit : Bool} {kr vr : List Byte} {t : State} (hs : kgWork f1 far b2 j s = kgRow b2 bit kr vr j t) : row bit kr vr t :=
      fun q w hq => leaves_of_work hw hj rfl (hs.trans (kgRow_ok hq))
    refine ⟨fun q w hp hq => leaves_of_work hw hj rfl (kgWork_values hp hq),
      fun hp hn => ⟨fun t he => ?absent, fun t e he => ⟨?far, ?near⟩⟩,
      fun hp hn u hl => ⟨fun hlt => ?more, fun hge hk => ?whole, fun v hge hk hv => ?missed⟩⟩
    case absent => exact hrow ((kgWork_step hp hn).trans (kgStep_absent he))
    case far =>
      rintro ht rfl
      exact leaves_of_work hw hj rfl ((kgWork_step hp hn).trans (kgStep_far he ht))
    case near =>
      intro u v kr vr valid pend ht hb
      refine ⟨fun hv hr => hrow ((kgWork_step hp hn).trans (kgStep_valid he ht hb hv hr)), fun hv hpd hd => ?_, fun hv hpd => ?_⟩
      · exact leaves_of_work hw hj rfl ((kgWork_step hp hn).trans (kgStep_defers he ht hb hv hpd hd))
      · exact hrow ((kgWork_step hp hn).trans (kgStep_empty he ht hb hv hpd))
    case more => exact leaves_of_work hw hj rfl ((kgWork_mask hp hn rfl rfl hl).trans (by rw [if_pos hlt]; rfl))
    case whole =>
      exact leaves_of_work hw hj rfl ((kgWork_mask hp hn rfl rfl hl).trans (by rw [if_neg (Nat.not_lt.2 hge)]; exact kgEnd_whole hk))
    case missed =>
      exact leaves_of_work hw hj rfl ((kgWork_mask hp hn rfl rfl hl).trans (by rw [if_neg (Nat.not_lt.2 hge)]; exact kgEnd_missed hk hv))
  case event =>
    intro pages phys hu
    obtain ⟨p, hp, hdst, hbody⟩ := mem_net_post ..
    exact ⟨_, tierEvent_usable s j pages phys hu, p, hp, hdst, _, hbody, rfl, rfl⟩

end Sys2Proof.EngineCommands

/-! PROOF. The steps of BFILL, BFCANCEL and the reconcile commands (O49). A BFILL's turn is, in its own queue, the beginning or the end of a
layer, and in a matrix queue a step of the layer's work; the reconcile commands are the run of their work from the answers of its parts. -/

namespace Sys2Proof.EngineCommands
open Sys2Proof Sys2Proof.Machine

/-- A running job that is done under a condition. -/
theorem doneIf_of_running {j : Job} (h : j.fin = none) {c : Prop} [Decidable c] (code : Nat) :
    doneIf j (decide c) code = { j with fin := if c then some code else none } := by
  by_cases hc : c
  · simp only [doneIf, hc, decide_true, if_true]
  · simp only [doneIf, hc, decide_false, Bool.false_eq_true, if_false, ← h]

/-! ## BFILL in its own queue (R239) -/

section
variable {s t t1 t2 t3 t4 t5 : State} {j : Job} {gexit last : Nat} {perl : Bool}

theorem bfWork_waits (hp : j.phase = 0) (hb : bwStands s (bfClus s j) = true) : bfWork gexit last perl j s = .ok (j, s) := by
  rw [bfWork, EM_bind_ok (EM_get s), if_pos (by simp [hp]), if_pos hb]
  rfl

theorem bfWork_begins (hp : j.phase = 0) (hb : bwStands s (bfClus s j) = false) : bfWork gexit last perl j s = bfBegin gexit j s := by
  rw [bfWork, EM_bind_ok (EM_get s), if_pos (by simp [hp]), if_neg (by simp [hb])]

theorem bfWork_inside (hp : j.phase = 1) : bfWork gexit last perl j s = .ok (j, s) := by
  rw [bfWork, EM_bind_ok (EM_get s), if_neg (by simp [hp]), if_pos (by simp [hp])]
  rfl

/-- The turn at the end of a layer: one that JOBCANCEL has named ends with it, unless it was the last. -/
theorem bfWork_layer {k : Job} (hp : 2 ≤ j.phase) (h : bfEnd gexit last perl j s = .ok (k, t)) :
    bfWork gexit last perl j s = .ok (k, if k.cancel && k.fin.isNone then cancelJob t t.curQ k else t) := by
  have h0 : j.phase ≠ 0 := by omega
  have h1 : j.phase ≠ 1 := by omega
  rw [bfWork, EM_bind_ok (EM_get s), if_neg (by simp [h0]), if_neg (by simp [h1]), EM_bind_ok h]
  exact ite_modify_bind _

theorem bfWork_goesOn {k : Job} (hp : 2 ≤ j.phase) (h : bfEnd gexit last perl j s = .ok (k, t)) (hc : k.cancel = false ∨ k.fin.isNone = false) :
    bfWork gexit last perl j s = .ok (k, t) := by
  rw [bfWork_layer hp h, if_neg]
  obtain hc | hc := hc <;> simp [hc]

theorem bfWork_cancelled {k : Job} (hp : 2 ≤ j.phase) (h : bfEnd gexit last perl j s = .ok (k, t)) (hc : k.cancel = true) (hn : k.fin = none) :
    bfWork gexit last perl j s = .ok (k, cancelJob t t.curQ k) := by
  rw [bfWork_layer hp h, if_pos (by simp [hc, hn])]

theorem bfWork_stops {e : JobStop} (hp : 2 ≤ j.phase) (h : bfEnd gexit last perl j s = .error e) : bfWork gexit last perl j s = .error e := by
  have h0 : j.phase ≠ 0 := by omega
  have h1 : j.phase ≠ 1 := by omega
  rw [bfWork, EM_bind_ok (EM_get s), if_neg (by simp [h0]), if_neg (by simp [h1]), EM_bind_error h]

/-- The work of a layer as it enters the matrix queue, and the job that waits for it. -/
theorem bfBegin_ok {xb gb kb vb : List Byte} {e : List Dword}
    (hx : emRead j (dwAt (bfRcd j) 2).toNat (4 * bfDm j) s = .ok (xb, t1))
    (he : emDwords j ((dwAt (bfRcd j) 3).toNat + 64 * (gexit + 1 + j.prog)) 4 t1 = .ok (e, t2))
    (hg : emRead j (dwAt e 0).toNat (4 * bfDm j) t2 = .ok (gb, t3)) (hk : emRead j (dwAt e 1).toNat (2 * bfDm j * bfCols j) t3 = .ok (kb, t4))
    (hv : emRead j (dwAt e 2).toNat (2 * bfDm j * bfCols j) t4 = .ok (vb, t5)) :
    let y := normRow (fp32s xb) (fp32s gb) (fld (dwAt e 3) 31 0)
    let w : Job := { newJob j.jid j.cmd j.now j.o with
      state := 4, aux := j.effp,
      data := [bfDm j, bfCols j, bfRow j, bfSlot j] ++ y.1 ++ (pieces 2 kb).map leNat ++ (pieces 2 vb).map leNat }
    bfBegin gexit j s = .ok ({ j with phase := 1, flags := j.flags ||| jobFlags y.2 false },
      modQueue t5 { eng := 0, idx := bfClus t5 j } (fun q => { q with jobs := q.jobs ++ [w] })) := by
  simp only [bfBegin, bfLayer, EM_bind_ok hx, EM_bind_ok he, EM_bind_ok hg, EM_bind_ok hk, EM_bind_ok hv, EM_bind_ok (EM_modify _ _), EM_pure]

/-- The end of a layer whose rows are clean: its groups are published, its signal and, after the last layer, its references settled. -/
theorem bfEnd_ok {f : Nat} {k : Job} (hkey : bwBad (clus s (bfClus s j)) (bfRow j) (bfCols j) = none)
    (hval : bwBad (clus s (bfClus s j)) (bfRow j + bfTiles j) (bfCols j) = none)
    (hf : bfGroups j (bfLayer gexit j) (bwOut (clus s (bfClus s j)) (bfRow j) (bfCols j))
      (bwOut (clus s (bfClus s j)) (bfRow j + bfTiles j) (bfCols j)) (List.range (rootG (bfRoot j))) s = .ok (f, t))
    (hk : k = { j with prog := j.prog + 1, aux := j.aux + 1, phase := 0, flags := j.flags ||| jobFlags f false }) :
    let u := if perl then jobSignal t t.curQ k else t
    bfEnd gexit last perl j s = .ok (doneIf k (decide (last ≤ bfLayer gexit j)) 0, if last ≤ bfLayer gexit j then bfCleanup u k else u) := by
  subst hk
  rw [← VectorUnit.span_zero_eq_range] at hf
  rw [bfEnd]
  dsimp only
  rw [EM_bind_ok (EM_get s), hkey, hval]
  dsimp only [Option.orElse]
  rw [EM_bind_ok hf, ite_modify_bind, ite_modify_bind]
  rfl

theorem bfEnd_poisoned {row : Nat}
    (h : bwBad (clus s (bfClus s j)) (bfRow j) (bfCols j) = some row ∨ bwBad (clus s (bfClus s j)) (bfRow j) (bfCols j) = none ∧
      bwBad (clus s (bfClus s j)) (bfRow j + bfTiles j) (bfCols j) = some row) :
    bfEnd gexit last perl j s = .error { code := 25, detail := row, asid := none, marks := s.marks, kept := none } := by
  have hor : ((bwBad (clus s (bfClus s j)) (bfRow j) (bfCols j)).orElse fun _ =>
      bwBad (clus s (bfClus s j)) (bfRow j + bfTiles j) (bfCols j)) = some row := by
    obtain hk | ⟨hk, hv⟩ := h
    · rw [hk]; rfl
    · rw [hk, hv]; rfl
  rw [bfEnd]
  dsimp only
  rw [EM_bind_ok (EM_get s), hor]
  rfl
end

/-! ## The matrix work of a layer (R315, R337) -/

section
variable {s t : State} {j : Job}

theorem bwWork_lost {row : Nat} (hf : j.prog % Nat.max 1 (bwDeep j) ≠ 0)
    (hb : badRow (clus s s.curQ.idx) (bwRow j + bwNo j) 1 (bwWide j) = some row) :
    bwWork j s = .ok ({ j with fin := some 0 }, bwLost s.curQ.idx j row (s.bounded 0)) := by
  rw [bwWork, EM_bind_ok (emClus_ok s)]
  dsimp only
  rw [if_neg (by simpa using hf), hb]
  rfl

/-- A step of the work, and after the last the layer goes back to its BFILL. -/
theorem bwWork_step {k : Job} (hc : j.prog % Nat.max 1 (bwDeep j) = 0 ∨ badRow (clus s s.curQ.idx) (bwRow j + bwNo j) 1 (bwWide j) = none)
    (hk : k = { j with issued := true, prog := j.prog + 1, flags := (bwStep j (clus s s.curQ.idx)).2 })
    (ha : emAcc j (bwRow j + bwNo j) 1 (bwWide j) (fun _ => (bwStep j (clus s s.curQ.idx)).1) s = .ok ((), t)) :
    bwWork j s = (if bwSteps j ≤ k.prog then modify (bwDone k) >>= fun _ => pure { k with fin := some 0 } else pure k : EM Job) (t.bounded 0) := by
  subst hk
  have hclean : (if (j.prog % Nat.max 1 (bwDeep j) == 0) = true then none
      else badRow (clus s s.curQ.idx) (bwRow j + bwNo j) 1 (bwWide j)) = none := by
    split
    next => rfl
    next hn => exact hc.resolve_left (by simpa using hn)
  rw [bwWork, EM_bind_ok (emClus_ok s)]
  dsimp only
  rw [hclean]
  dsimp only
  rw [EM_bind_ok ha, EM_bind_ok (stepEnd_ok _ _)]
  rfl

theorem bfTurn_matrix {gexit last rec' : Nat} {perl : Bool} (h : s.curQ.eng = 0) : bfTurn gexit last perl rec' j s = bwWork j s := by
  rw [bfTurn, EM_bind_ok (EM_get s), if_pos (by simp [h])]

theorem jobOf_bwLost {c row : Nat} {k : Job} (h : jobOf s { eng := 2, idx := c / 64 } j.jid = some k) :
    jobOf (bwLost c j row s) { eng := 2, idx := c / 64 } j.jid = some { k with phase := 0, state := 5, code := 25 } := by
  have hs : jobOf (modClus s c fun x => bfScratch s.tick (bwSlot j) (unlatch x (2 ^ 32 + j.jid.toNat))) { eng := 2, idx := c / 64 } j.jid = some k :=
    h
  simp only [bwLost, hs]
  have hjid : k.jid = j.jid := jobOf_jid h
  have := jobOf_faultJob (j := { k with phase := 0 }) 25 row k.o.asid (hjid ▸ hs)
  rwa [← hjid]
end

/-! ## BFCANCEL (R240) -/

theorem bfcancel_none {s : State} {x : Dword} (j : Job) (h : bfTarget s x = none) :
    bfcancel x j s = .ok ({ j with issued := true, fin := some 18 }, s) := by
  rw [bfcancel, EM_bind_ok (EM_get s), h]
  rfl

theorem bfcancel_some {s : State} {x : Dword} {k : Job} (j : Job) (h : bfTarget s x = some k) :
    bfcancel x j s = .ok ({ j with issued := true, aux := bfLayers k.cmd - k.prog, fin := some 0 }, cancelJob s s.curQ k) := by
  rw [bfcancel, EM_bind_ok (EM_get s), h]
  rfl

/-! ## RCSNAP (R268, R355) -/

/-- Jobs of one origin write alike. -/
theorem emPlaceAux_congr {j k : Job} (h : k.o = j.o) : ∀ (n va : Nat) (l : List Byte) (acc : Tbl (Byte × Nat)),
    emPlaceAux k n va l acc = emPlaceAux j n va l acc
  | 0, _, _, _ => rfl
  | n + 1, _, _, _ => by simp only [emPlaceAux, emXlat, h, emPlaceAux_congr h n]

theorem emPlace_congr {j k : Job} (h : k.o = j.o) : ∀ (ws : List (Nat × List Byte)) (acc : Tbl (Byte × Nat)), emPlace k ws acc = emPlace j ws acc
  | [], _ => rfl
  | (_, _) :: ws, _ => by simp only [emPlace, emPlaceAux_congr h, emPlace_congr h ws]

theorem emWrite_congr {j k : Job} (h : k.o = j.o) (ws : List (Nat × List Byte)) : emWrite k ws = emWrite j ws := by
  simp only [emWrite, emPlace_congr h, h]

theorem rcPut_ok {s t : State} {j k : Job} {rec' i : Nat} {v : Dword} (ho : k.o = j.o)
    (h : emWrite j [(rec' + 8 * i, leBytes 8 v.toNat)] s = .ok ((), t)) : rcPut rec' i v k s = .ok ({ k with data := k.data.set i v.toNat }, t) := by
  rw [rcPut, emWrite_congr ho, EM_bind_ok h]
  rfl

theorem rcSnapEdge_ok {s t1 t2 t3 t4 : State} {j : Job} {rec' : Nat} {epoch : BitVec 32} {lb : List Byte}
    (hr : emRead j (rcD j 0).toNat (16 * (3 * 2 ^ rcBmax j)) s = .ok (lb, t1)) (hs : emWrite j [((rcD j 1).toNat, lb)] t1 = .ok ((), t2))
    (h3 : emWrite j [(rec' + 24, leBytes 8 (rcD3 (rcD j 3) true 0 (rcDie t2).rcb).toNat)] t2 = .ok ((), t3))
    (h6 : emWrite j [(rec' + 48, leBytes 8 epoch.toNat)] t3 = .ok ((), t4)) :
    ∃ k : Job, rcSnapEdge rec' epoch j s = .ok (k, t4) ∧ k.jid = j.jid ∧ k.fin = some 0 := by
  have hepoch : (epoch.setWidth 64).toNat = epoch.toNat := BitVec.toNat_setWidth_of_le (by decide)
  rw [← hepoch] at h6
  rw [rcSnapEdge]
  rw [EM_bind_ok hr, EM_bind_ok hs, EM_bind_ok (EM_get t2), EM_bind_ok (rcPut_ok (j := j) (i := 3) rfl h3),
    EM_bind_ok (rcPut_ok (j := j) (i := 6) ?origin h6)]
  case origin => rfl
  exact ⟨_, rfl, rfl, rfl⟩

/-- The reconcile engine of an I-die. -/
def rcQueue (d : Nat) : QueueId := { eng := 3, idx := d }

/-- The RCSNAP jobs of an I-die that were issued before the edge. -/
def snapsOf (s : State) (d : Nat) : List Job :=
  (queue s (rcQueue d)).jobs.filter (fun j => cmdOpc j.cmd == 0x60 && j.issued && j.fin.isNone && j.state == 4)

/-- What the edge does for one of them. -/
def snapOne (q : QueueId) (u : State) (j : Job) : State :=
  let w : State := { u with curQ := q, curJ := j.jid, marks := [] }
  if snapHeld w j then u
  else
    match (rcSnapEdge (cmdD j.cmd 2).toNat (BitVec.ofNat 32 (fld (cmdD j.cmd 3) 31 0)) j) w with
    | .ok (k, v) => setJob v q k
    | .error e => jobStopped w j e

theorem snapJobs_eq (s : State) : snapJobs s =
    let t := (snapsOf s 0).foldl (snapOne (rcQueue 0)) s
    (snapsOf t 1).foldl (snapOne (rcQueue 1)) t := rfl

/-- An edge with one snapshot to take on an I-die and none on the other. -/
theorem snapJobs_single {s : State} {d : Nat} {j : Job} (hd : d < 2) (h1 : snapsOf s d = [j]) (h0 : snapsOf s (1 - d) = [])
    (hkeep : snapsOf (snapOne (rcQueue d) s j) (1 - d) = []) : snapJobs s = snapOne (rcQueue d) s j := by
  rw [snapJobs_eq]
  obtain rfl | rfl : d = 0 ∨ d = 1 := by omega
  · simp only [h1, List.foldl_cons, List.foldl_nil, hkeep]
  · simp only [h0, List.foldl_nil, h1, List.foldl_cons]

section
variable {s v : State} {d : Nat} {j k : Job} (hd : d < 2) (h1 : snapsOf s d = [j]) (h0 : snapsOf s (1 - d) = [])
include hd h1 h0

theorem snapJobs_held (hh : snapHeld { s with curQ := rcQueue d, curJ := j.jid, marks := [] } j = true) : snapJobs s = s := by
  have hone : snapOne (rcQueue d) s j = s := if_pos hh
  rw [snapJobs_single hd h1 h0 (by rw [hone]; exact h0), hone]

theorem snapJobs_taken (hh : snapHeld { s with curQ := rcQueue d, curJ := j.jid, marks := [] } j = false)
    (hr : rcSnapEdge (cmdD j.cmd 2).toNat (BitVec.ofNat 32 (fld (cmdD j.cmd 3) 31 0)) j { s with curQ := rcQueue d, curJ := j.jid, marks := [] } =
      .ok (k, v)) : snapJobs s = setJob v (rcQueue d) k := by
  have hone : snapOne (rcQueue d) s j = setJob v (rcQueue d) k := by
    rw [snapOne, if_neg (by rw [hh]; decide), hr]
  have hother : queue (setJob v (rcQueue d) k) (rcQueue (1 - d)) = queue s (rcQueue (1 - d)) := by
    rw [setJob, queue_modQueue_other _ _ _ _ (by simp only [qKey, rcQueue]; omega)]
    exact ((keeps_rcSnapEdge ..).same hr).queue _
  rw [snapJobs_single hd h1 h0 (by rw [hone, snapsOf, hother]; exact h0), hone]
end

/-! ## RCXCHG and RCROUND (R268, R270) -/

section
variable {s t : State} {j k : Job} {rec' n : Nat} {b : BitVec 5}

theorem rcxchgWork_wait (h : rcExchange rec' (xchgB s b j) j s = .ok (.wait k, t)) : rcxchgWork rec' b j s = .ok (k, t) := by
  rw [rcxchgWork, EM_bind_ok (EM_get s), EM_bind_ok h]
  rfl

theorem rcxchgWork_seeds (h : rcExchange rec' (xchgB s b j) j s = .ok (.seeds, t)) : rcxchgWork rec' b j s = .ok ({ j with fin := some 21 }, t) := by
  rw [rcxchgWork, EM_bind_ok (EM_get s), EM_bind_ok h]
  rfl

theorem rcxchgWork_formed (h : rcExchange rec' (xchgB s b j) j s = .ok (.ok k n, t)) :
    rcxchgWork rec' b j s = .ok ({ k with aux := n, fin := some 0 }, t) := by
  rw [rcxchgWork, EM_bind_ok (EM_get s), EM_bind_ok h]
  rfl

theorem rcRoundWork_peeled (hp : rcPhase j = 0) (h : rcPeeled s j rec' = true) :
    rcRoundWork rec' j s = .ok ({ j with aux := fld (rcD j 13) 31 0 + fld (rcD j 13) 63 32, fin := some 0 }, s) := by
  rw [rcRoundWork, EM_bind_ok (EM_get s), if_pos (by simp [hp]), if_pos h]
  rfl

section
variable (hp : rcPhase j = 0) (hn : rcPeeled s j rec' = false)
include hp hn

theorem rcRoundWork_spent (h : (rcDie s).rcmaxr ≤ rcNrnd j) : rcRoundWork rec' j s = .ok (rcSet 18 2 j, s) := by
  rw [rcRoundWork, EM_bind_ok (EM_get s), if_pos (by simp [hp]), if_neg (by simp [hn]), if_pos h]
  rfl

variable (hr : rcNrnd j < (rcDie s).rcmaxr)
include hr

theorem rcRoundWork_wait (h : rcExchange rec' (Nat.max 6 (Nat.min (rcBcur j + 1) (rcBmax j))) j s = .ok (.wait k, t)) :
    rcRoundWork rec' j s = .ok (k, t) := by
  rw [rcRoundWork, EM_bind_ok (EM_get s), if_pos (by simp [hp]), if_neg (by simp [hn]), if_neg (Nat.not_le.2 hr), EM_bind_ok h]
  rfl

theorem rcRoundWork_seeds (h : rcExchange rec' (Nat.max 6 (Nat.min (rcBcur j + 1) (rcBmax j))) j s = .ok (.seeds, t)) :
    rcRoundWork rec' j s = .ok ({ j with fin := some 21 }, t) := by
  rw [rcRoundWork, EM_bind_ok (EM_get s), if_pos (by simp [hp]), if_neg (by simp [hn]), if_neg (Nat.not_le.2 hr), EM_bind_ok h]
  rfl

theorem rcRoundWork_formed (h : rcExchange rec' (Nat.max 6 (Nat.min (rcBcur j + 1) (rcBmax j))) j s = .ok (.ok k n, t)) :
    rcRoundWork rec' j s = .ok (rcSet 18 1 k, t) := by
  rw [rcRoundWork, EM_bind_ok (EM_get s), if_pos (by simp [hp]), if_neg (by simp [hn]), if_neg (Nat.not_le.2 hr), EM_bind_ok h]
  rfl
end

theorem rcRoundWork_peels (hp : rcPhase j = 1) : rcRoundWork rec' j s = (rcPeelAct rec' j >>= fun r =>
    if r.2.1 then pure (doneIf { r.1 with aux := r.2.2 } true 0) else pure (rcSet 16 s.roundNo (rcSet 17 0 (rcSet 18 0 r.1)))) s := by
  rw [rcRoundWork, EM_bind_ok (EM_get s), if_neg (by simp [hp]), if_pos (by simp [hp])]

theorem rcRoundWork_full (hp : 1 < rcPhase j) : rcRoundWork rec' j s = rcFull rec' j s := by
  have h0 : rcPhase j ≠ 0 := by omega
  have h1 : rcPhase j ≠ 1 := by omega
  rw [rcRoundWork, EM_bind_ok (EM_get s), if_neg (by simp [h0]), if_neg (by simp [h1])]
end

/-! ## RCFETCH (R271) -/

section
variable {s t u v w : State} {j k : Job} {pr : List Dword} {a : List Item} {n : Nat}

theorem rcFetchWork_alone (h : peerRec j s = .ok (none, t)) : rcFetchWork j s = .ok ({ j with fin := some 20 }, t) := by
  rw [rcFetchWork, EM_bind_ok h]
  rfl

variable (h : peerRec j s = .ok (some pr, t)) (ha : emItems j (rcD j 10).toNat (fld (rcD j 13) 31 0) t = .ok (a, u))
include h ha

theorem rcFetchWork_phantoms (hp : rcPhase j = 0) (hn : countPhantoms j a u = .ok (n, v)) :
    rcFetchWork j s = .ok (fetchEnd (fld (rcD j 13) 63 32) (rcSet 19 n (rcSet 18 1 j)), v) := by
  rw [rcFetchWork, EM_bind_ok h]
  dsimp only
  rw [EM_bind_ok ha, if_pos (by simp [hp]), EM_bind_ok hn]
  rfl

theorem rcFetchWork_item {i : Item} {r : List Item} (hp : rcPhase j ≠ 0) (hb : emItems j ((rcD j 11).toNat + 16 * j.prog) 1 u = .ok (i :: r, v))
    (hf : fetchItem pr a i.1 i.2 j v = .ok (k, w)) (hk : k.fin = none) : rcFetchWork j s = .ok (fetchEnd (fld (rcD j 13) 63 32) k, w) := by
  rw [rcFetchWork, EM_bind_ok h]
  dsimp only
  rw [EM_bind_ok ha, if_neg (by simp [hp]), EM_bind_ok hb]
  dsimp only
  rw [EM_bind_ok hf, if_neg (by simp [hk])]
  rfl
end

/-! ## The obligation -/

/-- Settles O49: BFILL by its two kinds of turn, the others by the run of their work. -/
theorem backfillAndReconcile : Obligations.BackfillAndReconcile := by
  intro s j h perl g l16 b5 w8 w32 x
  refine ⟨?bfill, fun c row k hk => jobOf_bwLost hk, ?bfcancel, ?rcsnap, ?rcxchg, ?rcpeel, ?rcfetch, ?rcround⟩
  case bfill =>
    intro i l n dm hw
    refine ⟨fun hq hj => ?own, fun t hq => ?matrix⟩
    case own =>
      have hturn : bfTurn g.toNat l16.toNat perl x.toNat j s = bfWork g.toNat l16.toNat perl j s :=
        (bfTurn_own _ _ _ _ _ hq).trans (issueThen_work hj)
      have leaves {k : Job} {t : State} (hk : bfWork g.toNat l16.toNat perl j s = .ok (k, t)) : Leaves i s t k :=
        leaves_of_step hw rfl (hturn.trans hk)
      refine ⟨fun hp hb => leaves (bfWork_waits hp hb), fun xb gb kb vb e t1 t2 t3 t4 t5 hp hb hx he hg hk hv => ?begins,
        fun hp => leaves (bfWork_inside hp), fun f t hp hkey hval hf => ⟨fun hc => ?ends, fun hc hlt => ?cancelled⟩,
        fun row hp hc hbad => ?poisoned⟩
      case begins => exact leaves ((bfWork_begins hp hb).trans (bfBegin_ok hx he hg hk hv))
      case ends =>
        have hend := bfEnd_ok (last := l16.toNat) (perl := perl) hkey hval hf rfl
        rw [doneIf_of_running (by exact hw.2.1)] at hend
        exact leaves (bfWork_goesOn hp hend (hc.imp_right fun hl => congrArg Option.isNone (if_pos hl)))
      case cancelled =>
        have hend := bfEnd_ok (last := l16.toNat) (perl := perl) hkey hval hf rfl
        have hmore : decide (l16.toNat ≤ bfLayer g.toNat j) = false := decide_eq_false (Nat.not_le.2 hlt)
        rw [hmore] at hend
        exact leaves (bfWork_cancelled hp hend hc hw.2.1)
      case poisoned =>
        have := faults_of_step hw rfl (hturn.trans (bfWork_stops hp (bfEnd_poisoned hbad))) hc
        rwa [keepMarks_self] at this
    case matrix =>
      intro z r k first
      have leaves {k : Job} {t : State} (hk : bwWork j s = .ok (k, t)) : Leaves i s t k := leaves_of_step hw rfl ((bfTurn_matrix hq).trans hk)
      refine ⟨fun row hf hb => leaves (bwWork_lost hf hb), fun hc ha => ⟨fun hlt => leaves ?_, fun hge => leaves ?_⟩⟩
      · exact (bwWork_step hc rfl ha).trans (congrFun (if_neg (Nat.not_le.2 hlt)) _)
      · exact (bwWork_step hc rfl ha).trans (congrFun (if_pos hge) _)
  case bfcancel =>
    intro hw
    exact ⟨fun hn => leaves_of_step hw rfl (bfcancel_none j hn), fun k hk => leaves_of_step hw rfl (bfcancel_some j hk)⟩
  case rcsnap =>
    refine ⟨fun hw hj => leaves_of_work hw hj rfl rfl, fun lb t1 t2 t3 t4 hr hs h3 h6 => rcSnapEdge_ok hr hs h3 h6, ?_⟩
    intro d k v hd q snaps w h1 h0
    exact ⟨snapJobs_held hd h1 h0, snapJobs_taken hd h1 h0⟩
  case rcxchg =>
    intro t k n hw hj r
    exact ⟨fun hr => leaves_of_work hw hj rfl (rcxchgWork_wait hr), fun hr => leaves_of_work hw hj rfl (rcxchgWork_seeds hr),
      fun hr => leaves_of_work hw hj rfl (rcxchgWork_formed hr)⟩
  case rcpeel =>
    intro t k ok n hw hj hr
    exact leaves_of_work hw hj rfl (EM_bind_ok hr)
  case rcfetch =>
    intro t u v pr a n hw hj
    exact ⟨fun hp => leaves_of_work hw hj rfl (rcFetchWork_alone hp),
      fun hp ha h0 hn => leaves_of_work hw hj rfl (rcFetchWork_phantoms hp ha h0 hn),
      fun i r w k hp ha h0 hb hf hk => leaves_of_work hw hj rfl (rcFetchWork_item hp ha h0 hb hf hk)⟩
  case rcround =>
    intro t k n hw hj ex
    have leaves {k : Job} {t : State} (hk : rcRoundWork x.toNat j s = .ok (k, t)) : Leaves (.rcround h x w8) s t k := leaves_of_work hw hj rfl hk
    refine ⟨fun h0 hp => leaves (rcRoundWork_peeled h0 hp), fun h0 hp hr => leaves (rcRoundWork_spent h0 hp hr),
      fun h0 hp hr => ⟨fun he => leaves (rcRoundWork_wait h0 hp hr he), fun he => leaves (rcRoundWork_seeds h0 hp hr he),
        fun he => leaves (rcRoundWork_formed h0 hp hr he)⟩, fun h1 hp => leaves ?_, fun h1 hp => leaves ?_,
      fun h2 hf => leaves ((rcRoundWork_full h2).trans hf)⟩
    · exact (rcRoundWork_peels h1).trans (EM_bind_ok hp)
    · exact (rcRoundWork_peels h1).trans (EM_bind_ok hp)

end Sys2Proof.EngineCommands

/-! PROOF. The accumulator store (R195, R315): what a word and an accumulator read as after a write, after the rows of a block, and after a
write has met poison. -/

namespace Sys2Proof.EngineCommands
open Sys2Proof Sys2Proof.Machine

/-! ## Words and accumulators -/

section
variable (x y : Cluster) {row col r c n cn : Nat}

theorem accWord_setAccWord (v : BitVec 32) (hcol : col < 64) (hc : c < 64) :
    accWord (setAccWord x row col v) r c = if r = row ∧ c = col then v else accWord x r c := by
  split
  next h =>
    obtain ⟨rfl, rfl⟩ := h
    exact tget_tput_same ..
  next h => exact tget_tput_other _ _ _ _ _ (by unfold accKey; omega)

/-- An accumulator is read from the words of its column. -/
theorem accGet_congr {x y : Cluster} {c : Nat} (f : Fmt) (i : Nat) (h : ∀ r, rowWidth f * i ≤ r → r < rowWidth f * (i + 1) →
    accWord x r c = accWord y r c) : accGet x f i c = accGet y f i c := by
  unfold accGet
  unfold rowWidth at h
  split
  next hf =>
    rw [if_pos hf] at h
    rw [h (2 * i) (by omega) (by omega), h (2 * i + 1) (by omega) (by omega)]
  next hf =>
    rw [if_neg hf] at h
    rw [h i (by omega) (by omega)]

theorem accOf_bits (g : Fmt) : fmtBits (accOf g) = if accOf g == .fp64 then 64 else 32 := by cases g <;> rfl

/-- Two halves of a number are the number modulo 2^64. -/
theorem toNat_halves (v : Nat) : (BitVec.ofNat 32 v).toNat + (BitVec.ofNat 32 (v / 2 ^ 32)).toNat * 2 ^ 32 = v % 2 ^ 64 := by
  simp only [BitVec.toNat_ofNat]
  omega

theorem accGet_accPut (g : Fmt) (v : Nat) (hcol : col < 64) (hc : c < 64) : accGet (accPut x (accOf g) row col v) (accOf g) r c =
    if r = row ∧ c = col then v % 2 ^ fmtBits (accOf g) else accGet x (accOf g) r c := by
  rw [accOf_bits]
  unfold accGet accPut
  by_cases hf : (accOf g == .fp64) = true
  · simp only [if_pos hf, accWord_setAccWord _ _ hcol hc]
    by_cases h : r = row ∧ c = col
    · obtain ⟨rfl, rfl⟩ := h
      rw [if_neg (by omega), if_pos ⟨rfl, rfl⟩, if_pos ⟨rfl, rfl⟩, if_pos ⟨rfl, rfl⟩, toNat_halves]
    · have h0 : ¬ (2 * r = 2 * row ∧ c = col) := by omega
      have h1 : ¬ (2 * r + 1 = 2 * row + 1 ∧ c = col) := by omega
      have h2 : ¬ (2 * r = 2 * row + 1 ∧ c = col) := by omega
      have h3 : ¬ (2 * r + 1 = 2 * row ∧ c = col) := by omega
      simp only [if_neg h, if_neg h0, if_neg h1, if_neg h2, if_neg h3]
  · simp only [if_neg hf, accWord_setAccWord _ _ hcol hc]
    by_cases h : r = row ∧ c = col
    · simp [if_pos h]
    · simp [if_neg h]

/-! ## Rows of words -/

theorem accWord_fillRow (f : Nat → BitVec 32) (hc : c < 64) : ∀ (m a : Nat) (x : Cluster), a + m ≤ 64 →
    accWord ((span a m).foldl (fun u k => setAccWord u row k (f k)) x) r c = if r = row ∧ a ≤ c ∧ c < a + m then f c else accWord x r c
  | 0, a, x, _ => by rw [if_neg (by omega)]; rfl
  | m + 1, a, x, h => by
    rw [span, List.foldl_cons, accWord_fillRow f hc m (a + 1) _ (by omega), accWord_setAccWord _ _ (by omega) hc]
    by_cases hr : r = row ∧ c = a
    · obtain ⟨rfl, rfl⟩ := hr
      rw [if_neg (by omega), if_pos ⟨rfl, rfl⟩, if_pos (by omega)]
    · rw [if_neg hr]
      exact if_congr (by omega) rfl rfl

theorem accWord_fillRows (f : Nat → Nat → BitVec 32) (hcn : cn ≤ 64) (hc : c < 64) : ∀ (m a : Nat) (x : Cluster),
    accWord (fillRows a m cn f x) r c = if (a ≤ r ∧ r < a + m) ∧ c < cn then f r c else accWord x r c
  | 0, a, x => by rw [if_neg (by omega)]; rfl
  | m + 1, a, x => by
    have ih := accWord_fillRows f hcn hc m (a + 1) ((span 0 cn).foldl (fun u k => setAccWord u a k (f a k)) x)
    refine Eq.trans ih ?_
    rw [accWord_fillRow (f a) hc cn 0 x (by omega)]
    by_cases hr : r = a ∧ 0 ≤ c ∧ c < 0 + cn
    · obtain ⟨rfl, -, hlt⟩ := hr
      rw [if_neg (by omega), if_pos (by omega), if_pos (by omega)]
    · rw [if_neg hr]
      exact if_congr (by omega) rfl rfl

/-! ## Poison (R315) -/

/-- A poisoned word gets both its halves back. -/
def putBack (x z : Cluster) (w : Nat) : Cluster :=
  setAccWord (setAccWord z (w / 32) (2 * (w % 32)) (accWord x (w / 32) (2 * (w % 32)))) (w / 32) (2 * (w % 32) + 1)
    (accWord x (w / 32) (2 * (w % 32) + 1))

theorem accWord_putBack (w : Nat) (hc : c < 64) : accWord (putBack x y w) r c = if accWordNo r c = w then accWord x r c else accWord y r c := by
  rw [putBack, accWord_setAccWord _ _ (by omega) hc, accWord_setAccWord _ _ (by omega) hc]
  unfold accWordNo
  by_cases hodd : r = w / 32 ∧ c = 2 * (w % 32) + 1
  · rw [if_pos hodd, if_pos (by omega), hodd.1, hodd.2]
  · by_cases heven : r = w / 32 ∧ c = 2 * (w % 32)
    · rw [if_neg hodd, if_pos heven, if_pos (by omega), heven.1, heven.2]
    · rw [if_neg hodd, if_neg heven, if_neg (by omega)]

theorem accWord_foldl_putBack (hc : c < 64) : ∀ (l : List Nat) (y : Cluster),
    accWord (l.foldl (putBack x) y) r c = if accWordNo r c ∈ l then accWord x r c else accWord y r c
  | [], _ => by simp
  | w :: l, y => by
    rw [List.foldl_cons, accWord_foldl_putBack hc l, accWord_putBack x y w hc]
    by_cases hl : accWordNo r c ∈ l
    · rw [if_pos hl, if_pos (List.mem_cons_of_mem _ hl)]
    · rw [if_neg hl]
      exact if_congr (by simp [hl]) rfl rfl

/-- A word that the write covers in part keeps its contents where it is poisoned; every other word is as the write leaves it. -/
theorem accWord_accSettle (written : Nat → Nat → Bool) (hc : c < 64) : accWord (accSettle x y written).1 r c =
    if accWordNo r c ∈ x.accBad ∧ written r (2 * (c / 2)) ≠ written r (2 * (c / 2) + 1) then accWord x r c else accWord y r c := by
  have hr : accWordNo r c / 32 = r := by unfold accWordNo; omega
  have hk : accWordNo r c % 32 = c / 2 := by unfold accWordNo; omega
  refine (accWord_foldl_putBack x hc _ _).trans ?_
  refine if_congr ?_ rfl rfl
  simp [List.mem_filter, hr, hk]

/-- Columns below cn of n rows from a row on. -/
def inRows (row n cn : Nat) (r c : Nat) : Bool := decide (row ≤ r ∧ r < row + n ∧ c < cn)

theorem badRow_none_iff : badRow x row n cn = none ↔ ∀ w ∈ x.accBad, ¬ (row ≤ w / 32 ∧ w / 32 < row + n ∧ 2 * (w % 32) < cn) := by
  simp [badRow, List.find?_eq_none]

/-- A write of rows without poison does all that it does. -/
theorem accWord_accSettle_clean (h : badRow x row n cn = none) (hc : c < 64) :
    accWord (accSettle x y (inRows row n cn)).1 r c = accWord y r c := by
  rw [accWord_accSettle x y _ hc]
  refine if_neg fun ⟨hmem, hpart⟩ => ?_
  have hclean := (badRow_none_iff x).1 h _ hmem
  unfold accWordNo at hclean
  unfold inRows at hpart
  rw [show (r * 32 + c / 2) / 32 = r by omega, show (r * 32 + c / 2) % 32 = c / 2 by omega] at hclean
  exact hpart (by rw [decide_eq_false (by omega), decide_eq_false (by omega)])

section
variable (hcn : cn ≤ 64) (hc : c < 64)
include hcn hc

/-- Zeros in rows: a poisoned word that the columns below cn cover in part keeps its contents. -/
theorem accWord_zeroed (hin : (row ≤ r ∧ r < row + n) ∧ c < cn) (hk : ¬ accKept x r c cn) :
    accWord (accSettle x (fillRows row n cn (fun _ _ => 0) x) (inRows row n cn)).1 r c = 0 := by
  rw [accWord_accSettle x _ _ hc, accWord_fillRows _ hcn hc, if_pos hin]
  refine if_neg fun ⟨hmem, hpart⟩ => hk ⟨hmem, ?_⟩
  by_contra hfull
  unfold inRows at hpart
  exact hpart (by rw [decide_eq_true (by omega), decide_eq_true (by omega)])

theorem accWord_zeroed_other (h : (row ≤ r ∧ r < row + n) ∧ c < cn → accKept x r c cn) :
    accWord (accSettle x (fillRows row n cn (fun _ _ => 0) x) (inRows row n cn)).1 r c = accWord x r c := by
  rw [accWord_accSettle x _ _ hc, accWord_fillRows _ hcn hc]
  by_cases hin : (row ≤ r ∧ r < row + n) ∧ c < cn
  · obtain ⟨hmem, hcov⟩ := h hin
    refine if_pos ⟨hmem, ?_⟩
    unfold inRows
    rw [decide_eq_true (by omega), decide_eq_false (by omega)]
    decide
  · rw [if_neg hin, ite_self]
end
end

/-! ## The chain (R102) -/

section
variable (t : Tile) (ovw : Bool) {r c cn : Nat}

/-- What the chain of a row leaves in an accumulator that held a. -/
def chained (xs : List Nat) (c a : Nat) : Nat := (chainFrom t c xs 0 (if ovw then 0 else a)).1 % 2 ^ fmtBits (accOf t.fmt)

theorem accGet_chainRow (row : Nat) (xs : List Nat) (hc : c < 64) : ∀ (n k : Nat) (a : Cluster × BitVec 8), k + n ≤ 64 →
    accGet (chainRow t ovw row xs n k a).1 (accOf t.fmt) r c =
      if r = row ∧ k ≤ c ∧ c < k + n then chained t ovw xs c (accGet a.1 (accOf t.fmt) r c) else accGet a.1 (accOf t.fmt) r c
  | 0, k, a, _ => by rw [if_neg (by omega)]; rfl
  | n + 1, k, a, h => by
    rw [chainRow, accGet_chainRow row xs hc n (k + 1) _ (by omega)]
    dsimp only
    rw [accGet_accPut _ _ _ (by omega) hc]
    by_cases hr : r = row ∧ c = k
    · obtain ⟨rfl, rfl⟩ := hr
      rw [if_neg (show ¬ (r = r ∧ c + 1 ≤ c ∧ c < c + 1 + n) by omega), if_pos ⟨rfl, rfl⟩,
        if_pos (show r = r ∧ c ≤ c ∧ c < c + (n + 1) by omega), chained]
    · rw [if_neg hr]
      exact if_congr (by omega) rfl rfl

theorem accGet_chainRows (hcn : cn ≤ 64) (hc : c < 64) : ∀ (l : List (List Nat)) (row : Nat) (a : Cluster × BitVec 8),
    accGet (chainRows t ovw cn row l a).1 (accOf t.fmt) r c =
      if (row ≤ r ∧ r < row + l.length) ∧ c < cn then chained t ovw (l.getD (r - row) []) c (accGet a.1 (accOf t.fmt) r c)
      else accGet a.1 (accOf t.fmt) r c
  | [], row, a => by rw [if_neg (by simp only [List.length_nil]; omega)]; rfl
  | xs :: l, row, a => by
    rw [chainRows, accGet_chainRows hcn hc l (row + 1), accGet_chainRow t ovw row xs hc cn 0 a (by omega), List.length_cons]
    by_cases hr : r = row
    · subst hr
      rw [if_neg (by omega), Nat.sub_self, List.getD_cons_zero]
      exact if_congr (by omega) rfl rfl
    · rw [if_neg (fun h : r = row ∧ _ => hr h.1)]
      by_cases hin : (row + 1 ≤ r ∧ r < row + 1 + l.length) ∧ c < cn
      · rw [if_pos hin, if_pos (by omega), show r - row = r - (row + 1) + 1 by omega, List.getD_cons_succ]
      · rw [if_neg hin, if_neg (by omega)]
end

end Sys2Proof.EngineCommands

/-! PROOF. The steps of MZERO, MSTREAM, MSTORE and MLOADACC (O46): the run of each block, and what its accumulators then hold. -/

namespace Sys2Proof.EngineCommands
open Sys2Proof Sys2Proof.Machine

/-! ## Writes of the accumulator store -/

section
variable {s t : State} {j k : Job}

theorem clus_reportBad (s : State) (o : Origin) (l : List Nat) (c : Nat) : clus (reportBad s o l) c = clus s c := by
  unfold reportBad
  induction l generalizing s with
  | nil => rfl
  | cons w l ih => exact (ih _).trans rfl

/-- A write of rows goes through, and leaves the cluster as poison lets it. -/
theorem emAcc_ok (j : Job) (row n cn : Nat) (f : Cluster → Cluster) (s : State) :
    ∃ t : State, emAcc j row n cn f s = .ok ((), t) ∧ SameTurn s t ∧
      clus t s.curQ.idx = (accSettle (clus s s.curQ.idx) (f (clus s s.curQ.idx)) (inRows row n cn)).1 := by
  refine ⟨_, rfl, (show SameTurn s (modClus s _ _) from ⟨rfl, rfl, rfl⟩).trans (sameTurn_reportBad ..), ?_⟩
  exact (clus_reportBad ..).trans (clus_modClus_same ..)

theorem curJob_bounded (s : State) (n : Nat) : curJob (s.bounded n) = curJob s := curJob_modQueue rfl

/-- A block of rows that is done. -/
theorem blockDone_rows {n m : Nat} (hf : j.fin = none) (s : State) : blockDone j n m s = .ok (rowsDone j n m, s.bounded 0) := blockDone_ok hf
end

/-! ## The rows that a block streams (R194, R200) -/

theorem length_piecesAux {α : Type} {n : Nat} (hn : 1 ≤ n) : ∀ (m k : Nat) (l : List α), l.length = m * n → m ≤ k →
    (piecesAux n k l).length = m
  | 0, k, l, hl, _ => by
    obtain rfl : l = [] := List.length_eq_zero_iff.1 (by omega)
    cases k <;> rfl
  | m + 1, k + 1, l, hl, hk => by
    have hmn : (m + 1) * n = m * n + n := Nat.succ_mul m n
    have hne : l ≠ [] := fun h => by rw [h, List.length_nil] at hl; omega
    rw [piecesAux.eq_3 _ _ _ hne, List.length_cons, length_piecesAux hn m k _ (by rw [List.length_drop]; omega) (by omega)]

theorem length_pieces {α : Type} {n m : Nat} {l : List α} (hn : 1 ≤ n) (hl : l.length = m * n) : (pieces n l).length = m :=
  length_piecesAux hn m _ l hl (hl ▸ Nat.le_mul_of_pos_right m hn)

section
variable {s u : State} {j : Job} {tl : Tile} {fmt : Fmt} {slot m : Nat} {xs : List (List Nat)} {tr : Bool}

theorem emOpm_clean {a n : Nat} (h : badSlot (clus s s.curQ.idx) a n = none) : emOpm a n s = .ok (opmBytes (clus s s.curQ.idx) a n, s) := by
  have hfind : (clus s s.curQ.idx).opmBad.find? (fun w => decide (a / 8 ≤ w ∧ w ≤ (a + n - 1) / 8)) = none := h
  rw [emOpm, EM_bind_ok (emClus_ok s), hfind]
  rfl

theorem emOpm_poisoned {a n b : Nat} (h : badSlot (clus s s.curQ.idx) a n = some b) :
    emOpm a n s = .error { code := 25, detail := 8 * b, asid := none, marks := s.marks, kept := none } := by
  have hfind : (clus s s.curQ.idx).opmBad.find? (fun w => decide (a / 8 ≤ w ∧ w ≤ (a + n - 1) / 8)) = some b := h
  rw [emOpm, EM_bind_ok (emClus_ok s), hfind]
  rfl

theorem blockRows_slots (h : badSlot (clus s s.curQ.idx) (slot * 8192 + j.prog * (tileDepth tl.fmt * fmtBytes fmt))
      (m * (tileDepth tl.fmt * fmtBytes fmt)) = none) :
    blockRows false tl fmt slot j m s = .ok (((pieces (tileDepth tl.fmt * fmtBytes fmt) (opmBytes (clus s s.curQ.idx)
      (slot * 8192 + j.prog * (tileDepth tl.fmt * fmtBytes fmt)) (m * (tileDepth tl.fmt * fmtBytes fmt)))).map
        (fun r => (pieces (fmtBytes fmt) r).map leNat), false), s) := by
  have hrows := EM_bind_ok (f := fun l => pure ((pieces (tileDepth tl.fmt * fmtBytes fmt) l).map fun r => (pieces (fmtBytes fmt) r).map leNat))
    (emOpm_clean h)
  exact EM_bind_ok hrows

theorem length_rowsFromShape {r : Shp} {depth : Nat} : ∀ {n i : Nat} {s u : State} {xs : List (List Nat)} {tr : Bool},
    rowsFromShape j r depth n i s = .ok ((xs, tr), u) → xs.length = n
  | 0, _, _, _, _, _, h => by cases h; rfl
  | n + 1, i, s, u, xs, tr, h => by
    rw [rowsFromShape] at h
    cases ha : rowFromShape j r i depth 0 s with
    | error e => rw [EM_bind_error ha] at h; cases h
    | ok p =>
      rw [EM_bind_ok ha] at h
      cases ht : rowsFromShape j r depth n (i + 1) p.2 with
      | error e => rw [EM_bind_error ht] at h; cases h
      | ok q =>
        rw [EM_bind_ok ht] at h
        cases h
        rw [List.length_cons, length_rowsFromShape ht]

theorem tileDepth_pos (f : Fmt) : 1 ≤ tileDepth f := by cases f <;> decide

/-- A block streams a row for each of its rows. -/
theorem length_blockRows {shp : Bool} (h : blockRows shp tl fmt slot j m s = .ok ((xs, tr), u)) : xs.length = m := by
  cases shp with
  | true => exact length_rowsFromShape h
  | false =>
    cases hb : badSlot (clus s s.curQ.idx) (slot * 8192 + j.prog * (tileDepth tl.fmt * fmtBytes fmt))
        (m * (tileDepth tl.fmt * fmtBytes fmt)) with
    | none =>
      cases (blockRows_slots hb).symm.trans h
      rw [List.length_map]
      exact length_pieces (Nat.mul_pos (tileDepth_pos _) (VectorUnit.fmtBytes_pos _)) (memRead_length ..)
    | some b =>
      have hrows := EM_bind_error (f := fun l => pure ((pieces (tileDepth tl.fmt * fmtBytes fmt) l).map fun r => (pieces (fmtBytes fmt) r).map leNat))
        (emOpm_poisoned hb)
      cases (EM_bind_error hrows (f := fun l => pure (l, false))).symm.trans h
end

/-! ## MSTREAM (R200, R201, R371) -/

section
variable {α : Type} {s : State} {c : Prop} [Decidable c] {m : EM Unit} {f : EM α}

/-- A test that is left out under a condition, and passes otherwise. -/
theorem unless_act_bind (h : c ∨ m s = .ok ((), s)) : (if c then f else m >>= fun _ => f) s = f s := by
  by_cases hc : c
  · rw [if_pos hc]
  · rw [if_neg hc, EM_bind_ok (h.resolve_left hc)]
end

section
variable {s t0 u : State} {j : Job} {tl : Tile} {fmt : Fmt} {slot row0 n cn : Nat} {xs : List (List Nat)} {shp ovw tr : Bool}

theorem needClean_ok {row m : Nat} (h : badRow (clus s s.curQ.idx) row m cn = none) : needClean row m cn s = .ok ((), s) := by
  rw [needClean, EM_bind_ok (emClus_ok s), h]
  rfl

theorem needClean_poisoned {row m b : Nat} (h : badRow (clus s s.curQ.idx) row m cn = some b) :
    needClean row m cn s = .error { code := 25, detail := b, asid := none, marks := s.marks, kept := none } := by
  rw [needClean, EM_bind_ok (emClus_ok s), h]
  rfl

variable (ht : streamTile (clus s s.curQ.idx) j = some tl) (hr : blockRows shp tl fmt slot j (blockLen j n) s = .ok ((xs, tr), t0))
include ht hr

theorem mstreamWork_poisoned {b : Nat} (hb : badRow (clus t0 t0.curQ.idx) ((row0 + j.prog) * rowWidth (accOf tl.fmt))
      (blockLen j n * rowWidth (accOf tl.fmt)) 64 = some b) :
    mstreamWork shp false cn fmt slot row0 n j s = .error { code := 25, detail := b, asid := none, marks := t0.marks, kept := none } := by
  rw [mstreamWork, EM_bind_ok (emClus_ok s), ht]
  dsimp only
  rw [EM_bind_ok hr, if_neg (by decide), EM_bind_error (needClean_poisoned hb)]

/-- What the array leaves in the rows of a block. -/
def streamed (tl : Tile) (ovw : Bool) (cn row m tick : Nat) (xs : List (List Nat)) (flags : BitVec 8) (y : Cluster) : Cluster :=
  { blockOut tick (decide (2 ≤ y.softErr)) (row * rowWidth (accOf tl.fmt)) (m * rowWidth (accOf tl.fmt)) cn y
      (chainRows tl ovw cn row xs (y, flags)).1 with softErr := y.softErr - 2 }

/-- A block whose rows are read and written: its end, or the machine check of one that fails twice. -/
theorem mstreamWork_block (hc : ovw = true ∨ badRow (clus t0 t0.curQ.idx) ((row0 + j.prog) * rowWidth (accOf tl.fmt))
      (blockLen j n * rowWidth (accOf tl.fmt)) 64 = none)
    (hu : emAcc j ((row0 + j.prog) * rowWidth (accOf tl.fmt)) (blockLen j n * rowWidth (accOf tl.fmt)) cn
      (fun _ => streamed tl ovw cn (row0 + j.prog) (blockLen j n) t0.tick xs (jNote j tr []).flags (clus t0 t0.curQ.idx)) t0 = .ok ((), u)) :
    ∃ fl : BitVec 8, mstreamWork shp ovw cn fmt slot row0 n j s =
      if blockFails tl ovw (clus t0 t0.curQ.idx) (row0 + j.prog) xs then
        .ok ({ jNote j tr [] with flags := fl, fin := some 16 },
          (mcheck u (u.curQ.idx / 64) 7 (dw (row0 + j.prog)) j.o.el j.o.ts j.o.lid).bounded 0)
      else blockDone { jNote j tr [] with flags := fl } n (blockLen j n) u := by
  refine ⟨(chainRows tl ovw cn (row0 + j.prog) xs (clus t0 t0.curQ.idx, (jNote j tr []).flags)).2, ?_⟩
  rw [mstreamWork, EM_bind_ok (emClus_ok s), ht]
  dsimp only
  rw [EM_bind_ok hr, unless_act_bind (hc.imp_right needClean_ok), EM_bind_ok (emClus_ok t0), EM_bind_ok (EM_get t0)]
  unfold streamed at hu
  rw [EM_bind_ok hu]
  split <;> rfl
end

theorem rowWidth_cases (f : Fmt) : rowWidth f = 1 ∨ rowWidth f = 2 := by
  unfold rowWidth
  split
  · exact .inr rfl
  · exact .inl rfl

section
variable {y : Cluster} {tl : Tile} {ovw : Bool} {cn row m tick r c : Nat} {xs : List (List Nat)} {fl : BitVec 8} {g : Fmt}
  (hcn : cn ≤ 64) (hc : c < 64)
include hc

/-- Rows without poison hold what a write leaves in them. -/
theorem accGet_settled {z : Cluster} {n : Nat} (h : badRow y row n cn = none) :
    accGet (accSettle y z (inRows row n cn)).1 g r c = accGet z g r c :=
  accGet_congr g r fun _ _ _ => accWord_accSettle_clean y z h hc

include hcn

/-- A block without errors of the array holds the chains of its rows. -/
theorem accGet_streamed (hs : y.softErr < 2) (hm : xs.length = m) (hr : row ≤ r ∧ r < row + m) (hlt : c < cn) :
    accGet (streamed tl ovw cn row m tick xs fl y) (accOf tl.fmt) r c =
      chained tl ovw (xs.getD (r - row) []) c (accGet y (accOf tl.fmt) r c) := by
  have hbad : decide (2 ≤ y.softErr) = false := decide_eq_false (by omega)
  have hout : accGet (streamed tl ovw cn row m tick xs fl y) (accOf tl.fmt) r c =
      accGet (chainRows tl ovw cn row xs (y, fl)).1 (accOf tl.fmt) r c := by
    rw [streamed, hbad]
    rfl
  rw [hout, accGet_chainRows tl ovw hcn hc, if_pos ⟨hm ▸ hr, hlt⟩]

theorem accGet_streamed_other (hm : xs.length = m) (h : ¬ ((row ≤ r ∧ r < row + m) ∧ c < cn)) :
    accGet (streamed tl ovw cn row m tick xs fl y) (accOf tl.fmt) r c = accGet y (accOf tl.fmt) r c := by
  have hout : accGet (streamed tl ovw cn row m tick xs fl y) (accOf tl.fmt) r c =
      accGet (blockOut tick (decide (2 ≤ y.softErr)) (row * rowWidth (accOf tl.fmt)) (m * rowWidth (accOf tl.fmt)) cn y
        (chainRows tl ovw cn row xs (y, fl)).1) (accOf tl.fmt) r c := rfl
  rw [hout, blockOut]
  split
  · refine accGet_congr _ _ fun p hlo hhi => ?_
    rw [accWord_fillRows _ hcn hc]
    refine if_neg fun ⟨hp, hlt⟩ => h ⟨?_, hlt⟩
    obtain hw | hw := rowWidth_cases (accOf tl.fmt) <;> rw [hw] at hlo hhi hp <;> omega
  · rw [accGet_chainRows tl ovw hcn hc, hm, if_neg h]
end

/-! ## MSTORE and MLOADACC (R203, R204) -/

section
variable {s t u : State} {j : Job} {fmt : Fmt} {row0 n cn : Nat}

section
variable {scm : BitVec 2} {rm : Nat} {sat : Bool} {scale : BitVec 32} {r : StoreRows}

theorem mstoreWork_poisoned {b : Nat}
    (h : badRow (clus s s.curQ.idx) ((row0 + j.prog) * rowWidth fmt) (blockLen j n * rowWidth fmt) cn = some b) :
    mstoreWork scm cn fmt rm sat scale row0 n j s = .error { code := 25, detail := b, asid := none, marks := s.marks, kept := none } := by
  rw [mstoreWork, EM_bind_ok (emClus_ok s)]
  exact EM_bind_error (needClean_poisoned h)

variable (h : badRow (clus s s.curQ.idx) ((row0 + j.prog) * rowWidth fmt) (blockLen j n * rowWidth fmt) cn = none)
  (hr : mstoreRows scm cn fmt rm sat scale (clus s s.curQ.idx) j row0 ((List.range (blockLen j n)).map (· + j.prog)) s = .ok (r, t))
  (hu : emWrite j r.ws t = .ok ((), u))
include h hr hu

theorem mstoreWork_block (ho : r.oob = none) : mstoreWork scm cn fmt rm sat scale row0 n j s =
    blockDone { jNote j r.drop [] with flags := j.flags ||| jobFlags r.flags false } n (blockLen j n) u := by
  rw [← span_eq_map] at hr
  rw [mstoreWork, EM_bind_ok (emClus_ok s)]
  dsimp only
  rw [EM_bind_ok (needClean_ok h), EM_bind_ok hr, EM_bind_ok hu, ho]

/-- The elements before one out of bounds under TRAP stay written. -/
theorem mstoreWork_leaves {e : Nat} (ho : r.oob = some e) : mstoreWork scm cn fmt rm sat scale row0 n j s =
    .error { code := 9, detail := e, asid := none, marks := u.marks, kept := some u } := by
  rw [← span_eq_map] at hr
  rw [mstoreWork, EM_bind_ok (emClus_ok s)]
  dsimp only
  rw [EM_bind_ok (needClean_ok h), EM_bind_ok hr, EM_bind_ok hu, ho]
  rfl
end

theorem mloadWork_block {ps : List (Nat × Nat × Nat)} {tr : Bool}
    (hr : mloadRead j cn row0 ((List.range (blockLen j n * cn)).map (· + j.prog * cn)) s = .ok ((ps, tr), t))
    (hu : emAccAt j (fun r col => ps.any fun p => p.1 == r / rowWidth fmt && p.2.1 == col)
      (fun z => ps.foldl (fun y p => accPut y fmt p.1 p.2.1 p.2.2) z) t = .ok ((), u)) :
    mloadWork cn fmt row0 n j s = blockDone (jNote j tr []) n (blockLen j n) u := by
  rw [← span_eq_map] at hr
  rw [mloadWork]
  rw [EM_bind_ok hr, EM_bind_ok hu]
end

/-! ## The obligation -/

/-- A step whose work is a block of rows that is done. -/
theorem leaves_rowsDone {i : Instr} {s u : State} {j k : Job} {n m : Nat} {check work : Job → EM Job} (hw : s.working i j) (hj : j.issued = true)
    (hi : exec i s = jobStep i (issueThen check work) s) (hk : k.fin = none) (h : work j s = blockDone k n m u) :
    Leaves i s (u.bounded 0) (rowsDone k n m) := leaves_of_work hw hj hi (h.trans (blockDone_rows hk u))

section
variable {i : Instr} {s t0 u : State} {j : Job} {check : Job → EM Job} {tl : Tile} {fmt : Fmt} {slot row0 n cn : Nat} {xs : List (List Nat)}
  {shp ovw tr : Bool}

/-- A block of MSTREAM leaves its job further on, or done with CHECKFAIL and the machine check logged. -/
theorem mstream_block (hw : s.working i j) (hj : j.issued = true)
    (hi : exec i s = jobStep i (issueThen check (mstreamWork shp ovw cn fmt slot row0 n)) s)
    (ht : streamTile (clus s s.curQ.idx) j = some tl) (hr : blockRows shp tl fmt slot j (blockLen j n) s = .ok ((xs, tr), t0))
    (hc : ovw = true ∨ badRow (clus t0 t0.curQ.idx) ((row0 + j.prog) * rowWidth (accOf tl.fmt)) (blockLen j n * rowWidth (accOf tl.fmt)) 64 = none)
    (hu : emAcc j ((row0 + j.prog) * rowWidth (accOf tl.fmt)) (blockLen j n * rowWidth (accOf tl.fmt)) cn
      (fun _ => streamed tl ovw cn (row0 + j.prog) (blockLen j n) t0.tick xs (jNote j tr []).flags (clus t0 t0.curQ.idx)) t0 = .ok ((), u))
    (hs : SameTurn s u) :
    ∃ (t : State) (k : Job), exec i s = .next t ∧ curJob t = some k ∧ (∀ c, clus t c = clus u c) ∧
      (blockFails tl ovw (clus t0 t0.curQ.idx) (row0 + j.prog) xs = false → k.prog = j.prog + blockLen j n ∧ k.aux = j.prog + blockLen j n ∧
        k.fin = if n ≤ j.prog + blockLen j n then some (bnat (jTrunc (jNote j tr []))) else none) ∧
      (blockFails tl ovw (clus t0 t0.curQ.idx) (row0 + j.prog) xs = true → k.fin = some 16 ∧
        ∃ r : McRec, (die t (s.curQ.idx / 64)).mclog.getLast? = some r ∧ r.code = 7 ∧ r.addr = dw (row0 + j.prog)) := by
  obtain ⟨fl, hwork⟩ := mstreamWork_block ht hr hc hu
  cases hf : blockFails tl ovw (clus t0 t0.curQ.idx) (row0 + j.prog) xs with
  | false =>
    rw [hf, if_neg (by decide)] at hwork
    have hcur : curJob (u.bounded 0) = some j := (curJob_bounded u 0).trans (hs.curJob.trans hw.1)
    exact ⟨_, _, leaves_rowsDone hw hj hi (by exact hw.2.1) hwork, curJob_setJob hcur rfl, fun _ => rfl, fun _ => ⟨rfl, rfl, rfl⟩, nofun⟩
  | true =>
    rw [hf, if_pos rfl] at hwork
    have hm := hs.trans (sameTurn_mcheck u (u.curQ.idx / 64) 7 (dw (row0 + j.prog)) j.o.el j.o.ts j.o.lid)
    have hcur := (curJob_bounded _ 0).trans (hm.curJob.trans hw.1)
    refine ⟨_, _, leaves_of_work hw hj hi hwork, curJob_setJob hcur rfl, fun _ => rfl, nofun, fun _ => ⟨rfl, ?_⟩⟩
    rw [hs.curQ]
    exact mclog_mcheck u _ _ _ j.o.el j.o.ts j.o.lid
end

/-- Settles O46: each block by the run of its work, the accumulators by what its writes leave where poison lets them. -/
theorem accumulatorCommands : Obligations.AccumulatorCommands := by
  intro s j h f1 sat slot cn1 row0 nrow1 b2 rm w32 fmt x hj c n m here stop
  have hcn : cn1.toNat + 1 ≤ 64 := cn1.isLt
  refine ⟨fun hw => ?mzero, ?mstream, fun tl hb => ?slots, fun hw => ?mstore, fun ps tr t u hw hr hu => ?mloadacc⟩
  case mzero =>
    obtain ⟨u, hu, hs, hclus⟩ := emAcc_ok j (row0.toNat + j.prog) m (cn1.toNat + 1)
      (fillRows (row0.toNat + j.prog) m (cn1.toNat + 1) (fun _ _ => 0)) s
    have hleaves : Leaves (.mzero h cn1 row0 nrow1) s (u.bounded 0) (rowsDone j n m) :=
      leaves_rowsDone hw hj rfl hw.2.1 (EM_bind_ok hu)
    refine ⟨_, hleaves, curJob_setJob ((curJob_bounded u 0).trans (hs.curJob.trans hw.1)) rfl,
      fun row col hin hlt hk => ?_, fun row col hc hk => ?_⟩
    · exact (congrArg (accWord · row col) hclus).trans (accWord_zeroed _ hcn (by omega) ⟨hin, by omega⟩ hk)
    · exact (congrArg (accWord · row col) hclus).trans (accWord_zeroed_other _ hcn hc
        fun ⟨hin, hlt⟩ => (hk.resolve_left (not_not.2 hin)).resolve_left (by omega))
  case mstream =>
    intro shp tr tl xs t0 i y w base hw ht hr
    have hs : SameTurn s t0 := (keeps_blockRows ..).same hr
    have hy : y = clus t0 t0.curQ.idx := by rw [hs.curQ]
    clear_value y
    subst hy
    refine ⟨fun b hf hb hc => ?poisoned, fun hclean hnone => ?block⟩
    case poisoned =>
      subst hf
      exact faults_of_work hw hj rfl (mstreamWork_poisoned ht hr hb) hc
    case block =>
      obtain ⟨u, hu, hsu, hclus⟩ := emAcc_ok j (base * w) (m * w) (cn1.toNat + 1)
        (fun _ => streamed tl f1 (cn1.toNat + 1) base m t0.tick xs (jNote j tr []).flags (clus t0 t0.curQ.idx)) t0
      obtain ⟨t, k, ht, hk, hsame, hgood, hfail⟩ := mstream_block hw hj rfl ht hr hclean hu (hs.trans hsu)
      have hlen : xs.length = m := length_blockRows hr
      have hstore := (congrArg (clus t ·.idx) hs.curQ.symm).trans ((hsame _).trans hclus)
      have hacc (r col : Nat) (hc : col < 64) := (congrArg (accGet · (accOf tl.fmt) r col) hstore).trans (accGet_settled hc hnone)
      refine ⟨t, k, ht, hk, fun hf => ?_, hfail, fun row col hc hout => ?_⟩
      · obtain ⟨hprog, haux, hfin⟩ := hgood hf
        have herr : (clus t0 t0.curQ.idx).softErr < 2 := by
          rw [blockFails, Bool.or_eq_false_iff, decide_eq_false_iff_not] at hf
          omega
        exact ⟨hprog, haux, hfin, fun row col hin hlt =>
          (hacc row col (by omega)).trans (accGet_streamed hcn (by omega) herr hlen hin (by omega))⟩
      · exact (hacc row col hc).trans (accGet_streamed_other hcn hc hlen fun ⟨hin, hlt⟩ =>
          (hout.resolve_left (not_not.2 hin)).not_ge (by omega))
  case slots => exact blockRows_slots hb
  case mstore =>
    refine ⟨fun b hb hc => ?_, fun r t u hb hr hu => ⟨fun ho => ?_, fun e ho hc => ?_⟩⟩
    · have := faults_of_work hw hj rfl (mstoreWork_poisoned hb) hc
      rwa [keepMarks_self] at this
    · exact leaves_rowsDone hw hj rfl hw.2.1 (mstoreWork_block hb hr hu ho)
    · rw [stops_of_step hw rfl ((issueThen_work hj).trans (mstoreWork_leaves hb hr hu ho)), jobStopped, hc]
      rfl
  case mloadacc => exact leaves_rowsDone hw hj rfl hw.2.1 (mloadWork_block hr hu)

end Sys2Proof.EngineCommands

/-! PROOF. The steps of MFILL, MWLOAD, MSAVE and MRESTORE (O47): a burst of elements, a latched tile, and an image written and read back. -/

namespace Sys2Proof.EngineCommands
open Sys2Proof Sys2Proof.Machine

/-! ## MFILL (R198) -/

theorem mfillWork_burst {s t : State} {j : Job} {slot : Nat} {ws : List (Nat × List Byte)} {tr : Bool} (hf : j.fin = none)
    (h : mfillRead j (jSrc j) (slot * 8192) ((List.range (Nat.min (burstLen (shSize (jSrc j))) (jTotal j - j.prog))).map (· + j.prog)) s =
      .ok ((ws, tr), t))
    {k : Job} (hk : k = { jNote j tr [] with
      prog := j.prog + ((List.range (Nat.min (burstLen (shSize (jSrc j))) (jTotal j - j.prog))).map (· + j.prog)).length,
      aux := j.aux + ws.length * shSize (jSrc j) }) :
    mfillWork slot j s = .ok ({ k with fin := if jTotal j ≤ k.prog then some (bnat (jTrunc k)) else none }, opmWriteFor t j.o t.curQ.idx ws) := by
  subst hk
  rw [← span_eq_map] at h ⊢
  rw [mfillWork]
  dsimp only
  rw [EM_bind_ok (by exact h), EM_bind_ok (EM_modify _ _), doneIf_of_running (by exact hf)]
  rfl

/-! ## MWLOAD (R199) -/

section
variable {s t : State} {j k : Job}

theorem needSlots_ok {slot n : Nat} (h : ∀ i, i < n → slotOwned (clus s s.curQ.idx) j.o.lid (slot + i) = true) :
    needSlots j slot n s = .ok ((), s) := by
  have hfind : (span slot n).find? (fun i => !slotOwned (clus s s.curQ.idx) j.o.lid i) = none := by
    rw [List.find?_eq_none]
    intro i hi
    obtain ⟨hlo, hhi⟩ := Scalar.mem_span.1 hi
    rw [← Nat.add_sub_cancel' hlo, h (i - slot) (by omega)]
    decide
  rw [needSlots, EM_bind_ok (emClus_ok s), hfind]
  rfl

/-- A tile that is latched is the one its owner then has. -/
theorem tileOf_latch (x : Cluster) (t : Tile) : tileOf (latch x t) t.owner = some t := by
  rw [tileOf, latch, List.find?_append, List.find?_eq_none.2 (fun u hu => by simpa using (List.mem_filter.1 hu).2)]
  simp

theorem owner_tileFrom (o : Nat) (f : Fmt) (l : List Byte) : (tileFrom o f l).1.owner = o := by
  unfold tileFrom
  split <;> rfl

theorem sums_tileFrom (o : Nat) (f : Fmt) (l : List Byte) :
    (tileFrom o f l).1.sums = (List.range (tileDepth f)).map (rowSum f (tileFrom o f l).1.data) := by
  rw [← VectorUnit.span_zero_eq_range]
  unfold tileFrom
  split <;> rfl

/-- Jobs that change in place keep their identifiers. -/
theorem jobOf_map {q p : QueueId} {n : BitVec 32} {g : Job → Job} (hg : ∀ a, (g a).jid = a.jid) (h : jobOf s p n = some j) :
    ∃ k, jobOf (modQueue s q fun x => { x with jobs := x.jobs.map g }) p n = some k := by
  by_cases hq : qKey p = qKey q
  · have hqueue (v : State) : queue v p = queue v q := by rw [queue, hq]; rfl
    have hp : ((fun a : Job => a.jid == n) ∘ g) = fun a => a.jid == n := funext fun a => by rw [Function.comp, hg]
    rw [jobOf, hqueue] at h
    rw [jobOf, hqueue, queue_modQueue_same, List.find?_map, hp, h]
    exact ⟨g j, rfl⟩
  · exact ⟨j, by rw [jobOf, queue_modQueue_other _ _ _ _ hq]; exact h⟩

theorem clus_lapseFills (s : State) (c d : Nat) : clus (lapseFills s c) d = clus s d := by
  unfold lapseFills
  dsimp only
  split <;> rfl

theorem curJ_lapseFills (s : State) (c : Nat) : (lapseFills s c).curJ = s.curJ := by
  unfold lapseFills
  dsimp only
  split <;> rfl

theorem curJob_lapseFills (c : Nat) (h : curJob s = some j) : ∃ k, curJob (lapseFills s c) = some k ∧ k.jid = j.jid := by
  have hmap : ∃ k, curJob (lapseFills s c) = some k := by
    unfold lapseFills
    dsimp only
    split
    · exact jobOf_map (fun a => by split <;> rfl) h
    · exact ⟨j, h⟩
  obtain ⟨k, hk⟩ := hmap
  exact ⟨k, hk, by rw [curJob_jid hk, curJ_lapseFills, curJob_jid h]⟩

section
variable {slot : Nat} {f : Fmt} (ho : ∀ i, i < tileSlots f → slotOwned (clus s s.curQ.idx) j.o.lid (slot + i) = true)
include ho

theorem mwload_poisoned {b : Nat} (h : badSlot (clus s s.curQ.idx) (slot * 8192) (tileSize f) = some b) :
    mwload slot f j s = .error { code := 25, detail := 8 * b, asid := none, marks := s.marks, kept := none } := by
  rw [mwload, EM_bind_ok (needSlots_ok ho)]
  exact EM_bind_error (emOpm_poisoned h)

theorem mwload_ok (h : badSlot (clus s s.curQ.idx) (slot * 8192) (tileSize f) = none) {r : Tile × Nat}
    (hr : r = tileFrom j.o.lid.toNat f (opmBytes (clus s s.curQ.idx) (slot * 8192) (tileSize f))) :
    mwload slot f j s = .ok ({ j with issued := true, flags := j.flags ||| jobFlags r.2 false, fin := some 0 },
      (lapseFills (modClus s s.curQ.idx fun y => latch y r.1) s.curQ.idx).bounded 0) := by
  subst hr
  rw [mwload, EM_bind_ok (needSlots_ok ho)]
  exact EM_bind_ok (emOpm_clean h)
end

/-- An MWLOAD without poison ends with its tile latched. -/
theorem mwload_latched {h : CmdHdr} {slot : BitVec 8} {f : Fmt} (hw : s.working (.mwload h slot f) j)
    (ho : ∀ i, i < tileSlots f → slotOwned (clus s s.curQ.idx) j.o.lid (slot.toNat + i) = true)
    (hb : badSlot (clus s s.curQ.idx) (slot.toNat * 8192) (tileSize f) = none) {r : Tile × Nat}
    (hr : r = tileFrom j.o.lid.toNat f (opmBytes (clus s s.curQ.idx) (slot.toNat * 8192) (tileSize f))) :
    ∃ t : State, exec (.mwload h slot f) s = .next t ∧ jobTile (clus t s.curQ.idx) j = some r.1 ∧
      r.1.sums = (List.range (tileDepth f)).map (rowSum f r.1.data) ∧ (clus t s.curQ.idx).acc = (clus s s.curQ.idx).acc ∧
      (clus t s.curQ.idx).opm = (clus s s.curQ.idx).opm ∧
      curJob t = some { j with issued := true, flags := j.flags ||| jobFlags r.2 false, fin := some 0 } := by
  have hclus : clus (lapseFills (modClus s s.curQ.idx fun y => latch y r.1) s.curQ.idx) s.curQ.idx = latch (clus s s.curQ.idx) r.1 :=
    (clus_lapseFills ..).trans (clus_modClus_same ..)
  obtain ⟨k, hk, hjid⟩ := curJob_lapseFills (s := modClus s s.curQ.idx fun y => latch y r.1) s.curQ.idx hw.1
  have howner : r.1.owner = j.o.lid.toNat := by rw [hr, owner_tileFrom]
  have htile : tileOf (latch (clus s s.curQ.idx) r.1) j.o.lid.toNat = some r.1 := howner ▸ tileOf_latch ..
  exact ⟨_, leaves_of_step hw rfl (mwload_ok ho hb hr), (congrArg (jobTile · j) hclus).trans htile, by rw [hr]; exact sums_tileFrom ..,
    (congrArg Cluster.acc hclus).trans rfl, (congrArg Cluster.opm hclus).trans rfl, curJob_setJob ((curJob_bounded _ 0).trans hk) hjid.symm⟩
end

/-! ## MSAVE (R206, R207) -/

section
variable {s t : State} {j : Job} {pre : Bool} {cap hw img : Nat} {lid0 : BitVec 32}

theorem needCleanSlots_ok {slots : List Nat} (h : ∀ w ∈ (clus s s.curQ.idx).opmBad, w / 1024 ∉ slots) :
    needCleanSlots slots s = .ok ((), s) := by
  have hfind : (clus s s.curQ.idx).opmBad.find? (fun w => slots.contains (w / 1024)) = none :=
    List.find?_eq_none.2 fun w hw => by simpa using h w hw
  rw [needCleanSlots, EM_bind_ok (emClus_ok s), hfind]
  rfl

/-- The bytes of the image that an MSAVE writes. -/
def savedImage (s : State) (y : Cluster) (hw : Nat) (lid : BitVec 32) (js : List Job) : List Byte :=
  imageHeader (tileOf y lid.toNat) hw (slotsOf y lid) js.length lid
      (match js with | k :: _ => if partStream k then some k.prog else none | [] => none)
    ++ rowsBytes y hw ++ tileBytes (tileOf y lid.toNat) ++ slotsBytes y (slotsOf y lid) ++ js.flatMap (recordBytes s)

/-- The commands that the image of an MSAVE holds. -/
def takenJobs (s : State) (pre : Bool) (lid : BitVec 32) (j : Job) : List Job := if pre then savedJobs s lid j else []

/-- An MSAVE whose launch may save its rows has room for its image, or faults. -/
theorem msave_of_owned {y : Cluster} {lid : BitVec 32} {js : List Job} (hy : y = clus s s.curQ.idx) (hl : lid = savedLid pre lid0 j)
    (hjs : js = takenJobs s pre lid j) (hown : ∀ b ∈ rowBlocks 0 hw, hw = 0 ∨ blkOwner y b = 0 ∨ blkOwner y b = lid) (hrows : hw ≤ y.rows) :
    msave pre cap hw lid0 img j s = (if cap < imageSize hw (slotsOf y lid).length js.length then jobFault 4 img else do
      needClean 0 hw 64
      needCleanSlots (slotsOf y lid)
      emWrite j [(img, savedImage s y hw lid js)]
      if pre then modify (fun t => freeSaved t lid js) else pure ()
      stepEnd 0
      pure { j with issued := true, aux := imageSize hw (slotsOf y lid).length js.length, fin := some 0 } : EM Job) s := by
  have hfind : (rowBlocks 0 hw).find? (fun b => decide (0 < hw) && blkOwner y b != 0 && blkOwner y b != lid) = none := by
    rw [List.find?_eq_none]
    intro b hb
    obtain h | h | h := hown b hb <;> simp [h]
  subst hy hl hjs
  rw [msave, EM_bind_ok (EM_get s), EM_bind_ok (emClus_ok s)]
  dsimp only
  rw [hfind]
  dsimp only
  rw [if_neg (Nat.not_lt.2 hrows)]
  rfl

section
variable {y : Cluster} {lid : BitVec 32} {js : List Job} (hy : y = clus s s.curQ.idx) (hl : lid = savedLid pre lid0 j)
  (hjs : js = takenJobs s pre lid j) (hown : ∀ b ∈ rowBlocks 0 hw, hw = 0 ∨ blkOwner y b = 0 ∨ blkOwner y b = lid) (hrows : hw ≤ y.rows)
include hy hl hjs hown hrows

theorem msave_small (hc : cap < imageSize hw (slotsOf y lid).length js.length) : msave pre cap hw lid0 img j s =
    .error { code := 4, detail := img, asid := none, marks := s.marks, kept := none } := by
  rw [msave_of_owned hy hl hjs hown hrows, if_pos hc, jobFault_error]

theorem msave_poisoned {b : Nat} (hc : imageSize hw (slotsOf y lid).length js.length ≤ cap) (hb : badRow y 0 hw 64 = some b) :
    msave pre cap hw lid0 img j s = .error { code := 25, detail := b, asid := none, marks := s.marks, kept := none } := by
  rw [msave_of_owned hy hl hjs hown hrows, if_neg (Nat.not_lt.2 hc), EM_bind_error (needClean_poisoned (hy ▸ hb))]

theorem msave_saved (hc : imageSize hw (slotsOf y lid).length js.length ≤ cap) (hb : badRow y 0 hw 64 = none)
    (ho : ∀ w ∈ y.opmBad, w / 1024 ∉ slotsOf y lid) (hw' : emWrite j [(img, savedImage s y hw lid js)] s = .ok ((), t)) :
    msave pre cap hw lid0 img j s = .ok ({ j with issued := true, aux := imageSize hw (slotsOf y lid).length js.length, fin := some 0 },
      (if pre then freeSaved t lid js else t).bounded 0) := by
  rw [msave_of_owned hy hl hjs hown hrows, if_neg (Nat.not_lt.2 hc), EM_bind_ok (needClean_ok (hy ▸ hb)),
    EM_bind_ok (needCleanSlots_ok (hy ▸ ho)), EM_bind_ok hw']
  exact ite_modify_bind _
end
end

/-! ## MRESTORE (R208) -/

theorem image_passes {j : Job} {hd : List Dword} (hi : imageOk hd = true) (hm : imageNp hd = 0 ∨ j.o.mode ≠ 0) :
    ¬ (!imageOk hd || (decide (0 < imageNp hd) && j.o.mode == 0)) = true := by
  obtain hn | hmode := hm
  · simp [hi, hn]
  · simp [hi, hmode]

section
variable {s t0 t1 t2 t3 t4 : State} {j : Job} {img : Nat} {hd : List Dword} {rs rows tile sl : List Byte}
  (hh : emDwords j img 32 s = .ok (hd, t0))
include hh

theorem mrestore_badHeader (hb : imageOk hd = false ∨ (0 < imageNp hd ∧ j.o.mode = 0)) :
    mrestore img j s = .error { code := 12, detail := img, asid := none, marks := t0.marks, kept := none } := by
  rw [mrestore, EM_bind_ok hh, if_pos ?refused, jobFault_error]
  case refused =>
    obtain hb | ⟨hn, hm⟩ := hb
    · simp [hb]
    · simp [hn, hm]

variable (hi : imageOk hd = true) (hm : imageNp hd = 0 ∨ j.o.mode ≠ 0) (hr : emRead j (img + recordsAt hd) (64 * imageNp hd) t0 = .ok (rs, t1))
include hi hm hr

theorem mrestore_badRecords (hb : recordsOk rs = false) :
    mrestore img j s = .error { code := 12, detail := img, asid := none, marks := t1.marks, kept := none } := by
  rw [mrestore, EM_bind_ok hh, if_neg (image_passes hi hm), EM_bind_ok hr, if_pos (by simp [hb])]
  rfl

variable (ho : recordsOk rs = true)
include ho

theorem mrestore_blocked (hb : restoreBlocked (clus t1 t1.curQ.idx) (restoreLid hd j) (fld (dwAt hd 1) 13 0) (imageSlots hd) = true) :
    mrestore img j s = .error { code := 4, detail := img, asid := none, marks := t1.marks, kept := none } := by
  rw [mrestore, EM_bind_ok hh, if_neg (image_passes hi hm), EM_bind_ok hr, if_neg (by simp [ho])]
  dsimp only
  rw [EM_bind_ok (emClus_ok t1)]
  rw [if_pos hb, jobFault_error]

theorem mrestore_restored (hb : restoreBlocked (clus t1 t1.curQ.idx) (restoreLid hd j) (fld (dwAt hd 1) 13 0) (imageSlots hd) = false)
    (h2 : emRead j (img + 256) (256 * fld (dwAt hd 1) 13 0) t1 = .ok (rows, t2))
    (h3 : emRead j (img + 256 + 256 * fld (dwAt hd 1) 13 0) 32768 t2 = .ok (tile, t3))
    (h4 : emRead j (img + 256 + 256 * fld (dwAt hd 1) 13 0 + 32768) (8192 * (imageSlots hd).length) t3 = .ok (sl, t4)) {u : State}
    (hu : u = modClus t4 t4.curQ.idx (restoreClus (restoreLid hd j) hd (fld (dwAt hd 1) 13 0) (imageSlots hd) rows tile sl)) :
    mrestore img j s = .ok ({ j with issued := true, aux := 256 * fld (dwAt hd 1) 13 0 + 8192 * (imageSlots hd).length, fin := some 0 },
      (lapseFills (modQueue u u.curQ fun q => { q with jobs := recordJobs u hd rs ++ q.jobs }) u.curQ.idx).bounded 0) := by
  subst hu
  rw [mrestore, EM_bind_ok hh, if_neg (image_passes hi hm), EM_bind_ok hr, if_neg (by simp [ho])]
  dsimp only
  rw [EM_bind_ok (emClus_ok t1)]
  rw [if_neg (by simp [hb]), EM_bind_ok h2, EM_bind_ok h3, EM_bind_ok (by exact h4), EM_bind_ok (emModClus_ok _ _)]
  rfl
end

/-! ## The obligation -/

/-- Settles O47: each step by the run of its work from what it reads; the tile of an MWLOAD is the last one latched for its owner. -/
theorem tileCommands : Obligations.TileCommands := by
  intro s j h pre slot b8 fmt cap lid0 hw x c y stop
  refine ⟨fun ws tr t hwk hj hr => ?mfill, fun hwk ho => ⟨fun b hb hc => ?poisoned, fun hb => ?latched⟩, ?msave, ?mrestore⟩
  case mfill => exact leaves_of_work hwk hj rfl (mfillWork_burst hwk.2.1 hr rfl)
  case poisoned =>
    have := faults_of_step hwk rfl (mwload_poisoned ho hb) hc
    rwa [keepMarks_self] at this
  case latched => exact mwload_latched hwk ho hb rfl
  case msave =>
    intro i lid js size hwk hown hrows
    refine ⟨fun hc hn => ?_, fun b hc hb hn => ?_, fun t hc hb ho hwr => ?_⟩
    · have := faults_of_step hwk rfl (msave_small rfl rfl rfl hown hrows hc) hn
      rwa [keepMarks_self] at this
    · have := faults_of_step hwk rfl (msave_poisoned rfl rfl rfl hown hrows hc hb) hn
      rwa [keepMarks_self] at this
    · exact leaves_of_step hwk rfl (msave_saved rfl rfl rfl hown hrows hc hb ho hwr)
  case mrestore =>
    intro hd t0 t1 t2 t3 t4 rows tile sl rs i np n slots a hwk hh
    refine ⟨fun hb hc => faults_of_step hwk rfl (mrestore_badHeader hh hb) hc, fun hi hm hr => ?_⟩
    have hat : a + 32768 + 8192 * slots.length = x.toNat + recordsAt hd := by
      show x.toNat + 256 + 256 * n + 32768 + 8192 * slots.length = x.toNat + (256 + 256 * n + 32768 + 8192 * slots.length)
      omega
    rw [hat] at hr
    exact ⟨fun hb hc => faults_of_step hwk rfl (mrestore_badRecords hh hi hm hr hb) hc,
      fun ho hb hc => faults_of_step hwk rfl (mrestore_blocked hh hi hm hr ho hb) hc,
      fun ho hb h2 h3 h4 => leaves_of_step hwk rfl (mrestore_restored hh hi hm hr ho hb h2 h3 h4 rfl)⟩

end Sys2Proof.EngineCommands
